-- ==== Sys2Proof/Word.lean ====
section
/-!
DEFINITION. Word.lean: the words of the part, their plainest arithmetic, and the names of the four strands.
-/
namespace Sys2Proof

/-- A byte of memory (R9). -/
abbrev Byte := BitVec 8
/-- An instruction word or an extension word (R37, R44). -/
abbrev W32 := BitVec 32
/-- A scalar register, a pointer or a CSR (R47, R95). -/
abbrev Word := BitVec 64
/-- A vector register of 512 bytes (R47). -/
abbrev VReg := BitVec 4096
/-- A predicate register of 1024 bits (R47). -/
abbrev PReg := BitVec 1024

/-- The four strands of a core (R47); the order C, A, V, M is the order of R89, R176 and R336. -/
inductive StrandId where
  | C | A | V | M
  deriving DecidableEq, Repr

/-- The number of a strand in TCAUSE.STR, SST and SYNCMASK (R289, R338, R344). -/
def StrandId.num : StrandId → Nat
  | .C => 0 | .A => 1 | .V => 2 | .M => 3

/-- The strands in the order C, A, V, M (R89). -/
def StrandId.all : List StrandId := [.C, .A, .V, .M]

/-- Bits lo to lo + n - 1 of x, bit 0 the least significant (R9). -/
abbrev fld {w : Nat} (x : BitVec w) (lo n : Nat) : BitVec n := x.extractLsb' lo n

/-- Bit i of x (R9). -/
abbrev bit {w : Nat} (x : BitVec w) (i : Nat) : Bool := x.getLsbD i

end Sys2Proof
end

