-- ==== Sys2Proof/Syntax.lean ====
section
/-!
DEFINITION. Syntax.lean: every instruction of the opcode maps (R54 to R62) and every step that is an event of the part
(spec/opcode_table.json), as the constructors of ONE inductive, with the operand records they carry. Register and field
widths are those of R40; a field the format fixes at zero is not carried.
-/
namespace Sys2Proof

/-- The fields every word has beside P and OP: sync bit S and idle count I (R37). -/
structure Hdr where
  s : Bool
  i : BitVec 2
  deriving DecidableEq, Repr

/-- RRR with d, a, b (R40). -/
structure R3 where
  (d a b : BitVec 5)
  (la lb : Bool)
  deriving DecidableEq, Repr

/-- RRR with b and lb zero (R42). -/
structure R2 where
  (d a : BitVec 5)
  (la : Bool)
  deriving DecidableEq, Repr

/-- RRR with only a (R58). -/
structure R1 where
  (a : BitVec 5)
  (la : Bool)
  deriving DecidableEq, Repr

/-- TLBI fn 1: the a field is ignored (R213). -/
structure Ra where
  (a : BitVec 5)
  deriving DecidableEq, Repr

/-- RRR with a and b only (PREF, R58). -/
structure R2s where
  (a b : BitVec 5)
  (la lb : Bool)
  deriving DecidableEq, Repr

/-- RRR with d only (FMTQ, R57). -/
structure Rd where
  (d : BitVec 5)
  deriving DecidableEq, Repr

/-- VLDS, VSTS: RRR with an element width in fn[1:0] (R199). -/
structure R3w where
  (d a b : BitVec 5)
  (la lb : Bool)
  (w : BitVec 2)
  deriving DecidableEq, Repr

/-- VLDB: RRR with an element width in fn[1:0] (R198). -/
structure R2w where
  (d a : BitVec 5)
  (la : Bool)
  (w : BitVec 2)
  deriving DecidableEq, Repr

/-- RRI (R40). -/
structure RI10 where
  (d a : BitVec 5)
  (la : Bool)
  (imm : BitVec 10)
  deriving DecidableEq, Repr

/-- RI (R40). -/
structure RI16 where
  (d : BitVec 5)
  (imm : BitVec 16)
  deriving DecidableEq, Repr

/-- RI with the immediate in the extension word (R44). -/
structure RI32 where
  (d : BitVec 5)
  (imm : BitVec 32)
  deriving DecidableEq, Repr

/-- BR (R40). -/
structure Br where
  (a b : BitVec 5)
  (off : BitVec 11)
  deriving DecidableEq, Repr

/-- J (R40). -/
structure J21 where
  (off : BitVec 21)
  deriving DecidableEq, Repr

/-- LP with stage count zero (R56). -/
structure Lp where
  (d : BitVec 5)
  (lc : BitVec 2)
  (last : BitVec 11)
  deriving DecidableEq, Repr

/-- LP with a stage count (R56). -/
structure Lps where
  (d : BitVec 5)
  (lc : BitVec 2)
  (stages : BitVec 3)
  (last : BitVec 11)
  deriving DecidableEq, Repr

/-- LBRK (R82). -/
structure Lb where
  (lc : BitVec 2)
  deriving DecidableEq, Repr

/-- WAITG, ALIGN: the target cycle (R44). -/
structure T32 where
  (t : BitVec 32)
  deriving DecidableEq, Repr

/-- SEGB (R291). -/
structure Seg where
  (reserve : BitVec 5)
  (count : BitVec 16)
  (sig : BitVec 32)
  deriving DecidableEq, Repr

/-- TKS, TKW (R56). -/
structure Tk where
  (t : BitVec 4)
  deriving DecidableEq, Repr

/-- BINI, BEXP, BPH (R56). -/
structure Bd where
  (d : BitVec 5)
  (b : BitVec 6)
  deriving DecidableEq, Repr

/-- BARV, BWT (R56). -/
structure B0 where
  (b : BitVec 6)
  deriving DecidableEq, Repr

/-- CSR access (R56). -/
structure Csr where
  (d : BitVec 5)
  (n : BitVec 12)
  deriving DecidableEq, Repr

/-- TRAP (R56). -/
structure I16 where
  (imm : BitVec 16)
  deriving DecidableEq, Repr

/-- FMT (R57). -/
structure Fmt where
  (a b : BitVec 5)
  (la lb : Bool)
  (imm : BitVec 32)
  deriving DecidableEq, Repr

/-- PERT (R57). -/
structure PertF where
  (a b : BitVec 5)
  (la lb : Bool)
  (x : BitVec 2)
  deriving DecidableEq, Repr

/-- ATOM with its control word (R45). -/
structure AtomF where
  (d a b : BitVec 5)
  (la lb : Bool)
  (wide : BitVec 2)
  (scope : BitVec 2)
  (order : BitVec 2)
  deriving DecidableEq, Repr

/-- CAS with its control word (R45). -/
structure CasF where
  (d a b : BitVec 5)
  (la lb : Bool)
  (wide : BitVec 2)
  (scope : BitVec 2)
  (order : BitVec 2)
  (forder : BitVec 2)
  deriving DecidableEq, Repr

/-- FENCE (R58). -/
structure FenceF where
  (order : BitVec 2)
  (scope : BitVec 2)
  deriving DecidableEq, Repr

/-- EN with its stamp (R40, R44). -/
structure En where
  (d a b : BitVec 5)
  (k : BitVec 3)
  (stamp : BitVec 32)
  deriving DecidableEq, Repr

/-- STRM.OPEN, STEP: RRR with d, a and a stamp (R44). -/
structure R2T where
  (d a : BitVec 5)
  (la : Bool)
  (stamp : BitVec 32)
  deriving DecidableEq, Repr

/-- V3 with T zero, or with the T its row fixes (R60). -/
structure V3 where
  (vd va vb : BitVec 5)
  (pg : BitVec 3)
  (la lb : Bool)
  deriving DecidableEq, Repr

/-- V3 with its T bit (R60). -/
structure V3t where
  (vd va vb : BitVec 5)
  (pg : BitVec 3)
  (la lb t : Bool)
  deriving DecidableEq, Repr

/-- V3 with vb and lb zero (R61). -/
structure VU where
  (vd va : BitVec 5)
  (pg : BitVec 3)
  (la : Bool)
  deriving DecidableEq, Repr

/-- V3 with vb and lb zero and its T bit (R60, R61). -/
structure VUt where
  (vd va : BitVec 5)
  (pg : BitVec 3)
  (la t : Bool)
  deriving DecidableEq, Repr

/-- VCMP (R228). -/
structure VCmp where
  (pd : BitVec 3)
  (cond : BitVec 2)
  (va vb : BitVec 5)
  (pg : BitVec 3)
  (la lb t : Bool)
  deriving DecidableEq, Repr

/-- VC (R40). -/
structure Vc where
  (vd va : BitVec 5)
  (la : Bool)
  (src dst : BitVec 4)
  (rm : BitVec 2)
  deriving DecidableEq, Repr

/-- VIDX (R245). -/
structure VI where
  (vd : BitVec 5)
  (pg : BitVec 3)
  deriving DecidableEq, Repr

/-- VMOVSV, VMOVVS (R246). -/
structure VMov where
  (vd va vb : BitVec 5)
  (la lb : Bool)
  deriving DecidableEq, Repr

/-- VR (R255). -/
structure Vr where
  (vd a b : BitVec 5)
  deriving DecidableEq, Repr

/-- VX (R247). -/
structure Vx where
  (vd a vb : BitVec 5)
  (pg k : BitVec 3)
  deriving DecidableEq, Repr

/-- PAND, POR, PXOR (R252). -/
structure P3 where
  (pd pa pb : BitVec 3)
  deriving DecidableEq, Repr

/-- PNOT (R252). -/
structure P2 where
  (pd pa : BitVec 3)
  deriving DecidableEq, Repr

/-- PCNT, PFF (R253). -/
structure Pc where
  (d : BitVec 5)
  (pa pg : BitVec 3)
  deriving DecidableEq, Repr

/-- PSET (R254). -/
structure Ps where
  (pd : BitVec 3)
  (a : BitVec 5)
  (la : Bool)
  deriving DecidableEq, Repr

/-- OCLAIM, OREL (R266). -/
structure Mx where
  (x : BitVec 4)
  deriving DecidableEq, Repr

/-- OLOAD (R267). -/
structure Mo where
  (x : BitVec 4)
  (g : BitVec 5)
  (k : BitVec 3)
  (tag : BitVec 16)
  (len : BitVec 10)
  deriving DecidableEq, Repr

/-- OLOAD.S (R156). -/
structure Ms where
  (x : BitVec 4)
  (g : BitVec 5)
  (k : BitVec 3)
  (stamp : BitVec 32)
  deriving DecidableEq, Repr

/-- MMA, MMAP, MMAPT (R271). -/
structure Mm where
  (z : BitVec 2)
  (x y : BitVec 4)
  (k : BitVec 3)
  (stamp : BitVec 32)
  deriving DecidableEq, Repr

/-- MDRAIN (R279). -/
structure Md where
  (z : BitVec 2)
  (g : BitVec 5)
  (k : BitVec 3)
  deriving DecidableEq, Repr

/-- MZERO (R280). -/
structure Mz where
  (z : BitVec 2)
  deriving DecidableEq, Repr

/-- MSTAT (R281). -/
structure Mg where
  (g : BitVec 5)
  deriving DecidableEq, Repr

/-- MRES (R276). -/
structure Mzg where
  (z : BitVec 2)
  (g : BitVec 5)
  deriving DecidableEq, Repr

/-- MMODE (R263). -/
structure Mmo where
  (mode : BitVec 3)
  deriving DecidableEq, Repr

/-- A command capsule as it arrives: the VF whose endpoint took it, the port its last packet came in on, the length of its message (R419),
the four words of its header (R363), zero where a message below 32 bytes does not reach, and the bytes that follow it (R364). The order of
the messages that one port brings in a cycle is that of the inputs. -/
structure Capsule where
  vf      : Nat
  port    : Nat
  len     : Nat
  w0      : BitVec 64
  arg0    : BitVec 64
  arg1    : BitVec 64
  arg2    : BitVec 64
  payload : List (BitVec 8)
  deriving DecidableEq, Repr

/-- One posted write on its way: the head flit's control bytes, the window's rule and target as its sender's record
states them, and the payload (R317, R323; log entry 31, DEDUCED). -/
structure Packet where
  sender : Nat
  tgt    : Nat
  win    : Nat
  seq    : Nat
  off    : Nat
  rule   : Nat
  tsp    : Nat
  tclu   : Nat
  tcore  : Nat
  vf     : Nat
  cyc    : Nat          -- post stamp: cycle, core, agent (R324)
  core   : Nat
  agent  : Nat
  route  : List Nat     -- output ports still to take
  bytes  : List (BitVec 8)
  hdrOk  : Bool         -- the header CRC holds (R317)
  crcOk  : Bool         -- the link and payload CRCs hold (R317)
  poison : Bool
  lost   : List Nat     -- the flits that are missing (R318)
  again  : Bool         -- a retransmission (R319)
  bad    : Bool         -- its plinth entry holds an error that cannot be corrected (R396)
  deriving DecidableEq, Repr

/-- An untimed control message: its destination pod index and whether it is an acknowledgement (R319, R334). -/
structure CtlMsg where
  dst  : Nat
  win  : Nat
  seq  : Nat
  deriving DecidableEq, Repr

/-- What system software gives a VF when it configures its partition (R372). -/
structure PartitionCfg where
  vf        : Nat
  pairs     : List Nat                 -- package-wide pair indices (R3)
  mailboxes : List Nat
  harts     : List Nat
  keys      : List Nat
  slices    : List (Nat × Nat × Nat)   -- cluster, base, size (R103)
  plinth    : Nat                      -- share in bytes (R326)
  podIdx    : List Nat                 -- pod indices the windows may target
  deriving DecidableEq, Repr

/-- The operation of an ATOM (R45), and of a hart's AMO (R383). -/
inductive AtomOp where
  | add | and | or | xor | min | max | minn | maxn | swap
  deriving DecidableEq, Repr

/-- Where storage takes an error (R396, R412): a 64-bit word of a memory, by address / 8 and whether it can still be corrected; a
register of a strand, a predicate, or a word of a vector register of a core's context; the latch of a strand's result in flight; a barrier
word by its key; an entry of a mailbox's queue; a word of a line of the maquette's caches; an entry of the plinth; the flash, or the march.
Two are errors as a read finds them: one that is corrected outside those memories, by UNIT, core
and place, and one of a consumer for which it is fatal, by UNIT (R397). -/
inductive Upset where
  | word (n : Nat) (hard : Bool)
  | scalar (core : Nat) (ctx : Bool) (st : StrandId) (n : BitVec 5)
  | pred (core : Nat) (ctx : Bool) (n : BitVec 3)
  | vector (core : Nat) (ctx : Bool) (p : BitVec 5) (w : BitVec 6)
  | flight (core : Nat) (ctx : Bool) (st : StrandId) (i : Nat)
  | barrier (key : Nat)
  | mailbox (m : Nat) (obs : Bool) (i : Nat)
  | line (slot : BitVec 8) (line word : Nat)
  | plinth (i : Nat)
  | queue (core id : Nat) | format (core : Nat) (ctx : Bool) (i : Nat)
  | flash (bad : Bool)
  | march (bad : Bool)
  | corrected (unit : BitVec 4) (core : Nat) (loc : BitVec 64)
  | fatal (unit : BitVec 4)
  deriving DecidableEq, Repr

/-- What reaches the part and has no row of the table to itself: the registers that a host-path command writes (R418), the accesses of
the harts (R385), the maquette firmware that is measured (R414), and the errors of storage (R396). -/
inductive HostReg where
  | tableRoot (vf : Nat) (pa : Nat)                          -- R109
  | wcwait (core : Nat) (v : BitVec 16)                      -- R187
  | stepTol (v : BitVec 8)                                   -- R320
  | coords (x y z : Nat) | extent (x y z : Nat)              -- R321
  | podBoundary (b : Nat)                                    -- R328: the armature tells of a boundary that another package has opened
  | windowRoute (w : Nat) (v : BitVec 64)                    -- R323 bits 159:96 (route and slot fields)
  | route (bank : Bool) (dst port : Nat)                     -- R334, the inactive bank
  | ringCtl (r : Nat) (base logn wt : Nat)                   -- R353
  | ringHead (r : Nat) (v : BitVec 32)                       -- R353
  | tickCmp (core : Nat) (ctx : Bool) (v : BitVec 64)        -- R347
  | slice (vf : Nat) (v : BitVec 32) | vfWeight (vf : Nat) (v : BitVec 8)   -- R373
  | nomScale (vf : Nat) (v : BitVec 48)                      -- R431
  | toffset (vf : Nat) (v : BitVec 64) | tbase (vf : Nat) (v : BitVec 64)   -- R433
  | counterCtl (level idx n : Nat) (v : BitVec 64)           -- R429: level 0 core, 1 cluster, 2 package
  | keyVf (slot vf : Nat)                                    -- R416
  | dirtyMaps (vf : Nat) (a b : Nat)                         -- R379
  | errQueue (vf : Nat) (va : Nat) | physLog (pa : Nat)      -- R410, R411
  | patrolPeriod (v : Nat)                                   -- R398
  | complRing (vf : Nat) (addr n key : Nat) (writable : Bool)    -- R420; endpoint 16 is that of the management class
  | endpoint (vf : Nat) (addr : Nat) (ports : List Nat)      -- R418
  | mqkey (hart : Nat) (v : BitVec 64)                       -- R387
  | hartStore (hart mode pa : Nat) (bytes : List Byte) (excl : Bool)   -- R385, R388, R390: mode 0 user, 1 supervisor, 3 machine; excl: an SC
  | hartLoad (hart pa n : Nat) (excl : Bool)                 -- R385; excl: an LR
  | hartAmo (hart pa n : Nat) (op : AtomOp) (v : BitVec 64)  -- R385
  | hartTime (hart : Nat)                                    -- R386: a read of the time CSR
  | lineBack (slot : BitVec 8) (line : Nat)                  -- R385, R387: a cache writes a line back, or drops one that is clean
  | hartDiv (group n : Nat)                                  -- R422
  | snapCycle (c : Nat)                                      -- R429: the cycle that the SNAPCTR behind it names
  | maqImage (digest : BitVec 384)                           -- R414: firmware loads a maquette firmware image
  | upset (w : Upset)                                        -- R396
  deriving DecidableEq, Repr

/-- The instructions and events of the part: one constructor per row of spec/opcode_table.json. -/
inductive Instr where
  /-- ADD (R68). Writes s_a + s_b mod 2^64 to s_d. -/
  | add (h : Hdr) (f : R3)
  /-- SUB (R68). Writes s_a − s_b mod 2^64 to s_d. -/
  | sub (h : Hdr) (f : R3)
  /-- AND (R68). Writes the bitwise AND of s_a and s_b to s_d. -/
  | and (h : Hdr) (f : R3)
  /-- OR (R68). Writes the bitwise OR of s_a and s_b to s_d. -/
  | or (h : Hdr) (f : R3)
  /-- XOR (R68). Writes the bitwise XOR of s_a and s_b to s_d. -/
  | xor (h : Hdr) (f : R3)
  /-- SHL (R68). Shifts s_a left by s_b[5:0] into s_d. -/
  | shl (h : Hdr) (f : R3)
  /-- SHR (R68). Shifts s_a right logically by s_b[5:0] into s_d. -/
  | shr (h : Hdr) (f : R3)
  /-- SAR (R68). Shifts s_a right arithmetically by s_b[5:0] into s_d. -/
  | sar (h : Hdr) (f : R3)
  /-- MIN (R68). Writes the signed minimum of s_a and s_b to s_d. -/
  | min (h : Hdr) (f : R3)
  /-- MAX (R68). Writes the signed maximum of s_a and s_b to s_d. -/
  | max (h : Hdr) (f : R3)
  /-- MINN (R68). Writes the unsigned minimum of s_a and s_b to s_d. -/
  | minn (h : Hdr) (f : R3)
  /-- MAXN (R68). Writes the unsigned maximum of s_a and s_b to s_d. -/
  | maxn (h : Hdr) (f : R3)
  /-- SLT (R68). Writes 1 to s_d if s_a < s_b signed, else 0. -/
  | slt (h : Hdr) (f : R3)
  /-- SLTN (R68). Writes 1 to s_d if s_a < s_b unsigned, else 0. -/
  | sltn (h : Hdr) (f : R3)
  /-- SEQ (R68). Writes 1 to s_d if s_a = s_b, else 0. -/
  | seq (h : Hdr) (f : R3)
  /-- SEL (R69). Selects s_a or s_b into s_d by bit 0 of s_d. -/
  | sel (h : Hdr) (f : R3)
  /-- MUL (R68). Writes the low 64 bits of s_a·s_b to s_d, latency 3. -/
  | mul (h : Hdr) (f : R3)
  /-- MULH (R68). Writes the high 64 bits of the signed product to s_d. -/
  | mulh (h : Hdr) (f : R3)
  /-- MULHN (R68). Writes the high 64 bits of the unsigned product to s_d. -/
  | mulhn (h : Hdr) (f : R3)
  /-- DIV (R70). Signed division without trap, latency 18. -/
  | div (h : Hdr) (f : R3)
  /-- DIVN (R70). Unsigned division without trap, latency 18. -/
  | divn (h : Hdr) (f : R3)
  /-- REM (R70). Signed remainder without trap, latency 18. -/
  | rem (h : Hdr) (f : R3)
  /-- CLZ (R68). Counts the leading zero bits of s_a into s_d. -/
  | clz (h : Hdr) (f : R2)
  /-- POPC (R68). Counts the one bits of s_a into s_d. -/
  | popc (h : Hdr) (f : R2)
  /-- LEA (R71). Adds signed s_b to the pointer offset, making the pointer non-canonical if it leaves the field. -/
  | lea (h : Hdr) (f : R3)
  /-- PMAKE (R71). Builds a pointer from s_b[15:0] and s_a[47:0] without checks. -/
  | pmake (h : Hdr) (f : R3)
  /-- PSPACE (R71). Extracts the space code of pointer s_a. -/
  | pspace (h : Hdr) (f : R2)
  /-- PRANK (R71). Extracts the rank field of pointer s_a. -/
  | prank (h : Hdr) (f : R2)
  /-- ADDI (R72). Adds the sign-extended immediate to s_a. -/
  | addi (h : Hdr) (f : RI10)
  /-- ANDI (R72). ANDs s_a with the sign-extended immediate. -/
  | andi (h : Hdr) (f : RI10)
  /-- ORI (R72). ORs s_a with the sign-extended immediate. -/
  | ori (h : Hdr) (f : RI10)
  /-- XORI (R72). XORs s_a with the sign-extended immediate. -/
  | xori (h : Hdr) (f : RI10)
  /-- SHLI (R72). Shifts s_a left by an immediate 0–63. -/
  | shli (h : Hdr) (f : RI10)
  /-- SHRI (R72). Shifts s_a right logically by an immediate 0–63. -/
  | shri (h : Hdr) (f : RI10)
  /-- SARI (R72). Shifts s_a right arithmetically by an immediate 0–63. -/
  | sari (h : Hdr) (f : RI10)
  /-- SLTI (R72). Writes 1 if s_a is below the signed immediate. -/
  | slti (h : Hdr) (f : RI10)
  /-- LI (R73). Loads a sign-extended 16-bit constant into s_d. -/
  | li (h : Hdr) (f : RI16)
  /-- LIH (R73). Places a 32-bit immediate in the high half of s_d, keeping the low half. -/
  | lih (h : Hdr) (f : RI32)
  /-- LIL (R73). Loads a zero-extended 32-bit immediate into s_d. -/
  | lil (h : Hdr) (f : RI32)
  /-- BEQ (R74). Branches by off11 words when s_a = s_b. -/
  | beq (h : Hdr) (f : Br)
  /-- BNE (R74). Branches when s_a ≠ s_b. -/
  | bne (h : Hdr) (f : Br)
  /-- BLT (R74). Branches when s_a < s_b signed. -/
  | blt (h : Hdr) (f : Br)
  /-- BGE (R74). Branches when s_a ≥ s_b signed. -/
  | bge (h : Hdr) (f : Br)
  /-- BLTN (R74). Branches when s_a < s_b unsigned. -/
  | bltn (h : Hdr) (f : Br)
  /-- BGEN (R74). Branches when s_a ≥ s_b unsigned. -/
  | bgen (h : Hdr) (f : Br)
  /-- JMP (R75). Jumps by a signed 21-bit word offset. -/
  | jmp (h : Hdr) (f : J21)
  /-- JAL (R75). Writes the return offset to s_d and jumps by a signed word offset. -/
  | jal (h : Hdr) (f : RI16)
  /-- JR (R75). Jumps to s_a plus a word offset, writing the link to s_d. -/
  | jr (h : Hdr) (f : RI10)
  /-- LOOP (R79). Starts a zero-overhead hardware loop counted from the count register. -/
  | loop (h : Hdr) (f : Lp)
  /-- LOOPS (R83). Starts a software-pipelined loop of n + D iterations with stage predicates and register rotation. -/
  | loops (h : Hdr) (f : Lps)
  /-- LBRK (R82). Marks an active loop to fall through at its next end word. -/
  | lbrk (h : Hdr) (f : Lb)
  /-- WAIT (R85). Delays the next issue by s_d + imm16 cycles. -/
  | wait (h : Hdr) (f : RI16)
  /-- WAITG (R86). Delays the next issue until GCYC[31:0] reaches a target, trapping in timed mode if passed. -/
  | waitg (h : Hdr) (f : T32)
  /-- ALIGN (R288). Waits for an absolute cycle and enters timed mode, or takes schedule miss if passed. -/
  | align (h : Hdr) (f : T32)
  /-- SEGB (R291). Opens a schedule segment with expected count, replay reserve and signature. -/
  | segb (h : Hdr) (f : Seg)
  /-- SEGE (R293). Closes a segment and compares cycle count and CRC signature. -/
  | sege (h : Hdr)
  /-- TSM (R399). In strand M empties and restarts the retained command window for replay. -/
  | tsm (h : Hdr)
  /-- OPB (R375). Marks an operator boundary passed by all strands together, parking the core if a pre-emption request is pending. -/
  | opb (h : Hdr)
  /-- TKS (R178). Pushes one token into a channel, trapping if it would overflow. -/
  | tks (h : Hdr) (f : Tk)
  /-- TKW (R179). Pops one token, holding in free mode or trapping in timed mode when empty. -/
  | tkw (h : Hdr) (f : Tk)
  /-- BINI (R297). Initialises a barrier word with a count, or kills it with 0. -/
  | bini (h : Hdr) (f : Bd)
  /-- BARV (R297). Makes one arrival on a barrier and sets the ticket. -/
  | barv (h : Hdr) (f : B0)
  /-- BEXP (R297). Adds expected arrivals to PEND. -/
  | bexp (h : Hdr) (f : Bd)
  /-- BWT (R297). Waits for a phase past the ticket, then takes the new phase as ticket. -/
  | bwt (h : Hdr) (f : B0)
  /-- BPH (R297). Reads a barrier word and sets the ticket to its PHASE. -/
  | bph (h : Hdr) (f : Bd)
  /-- CSRR (R88). Reads a CSR into s_d. -/
  | csrr (h : Hdr) (f : Csr)
  /-- CSRW (R88). Writes s_d to a CSR from the next cycle. -/
  | csrw (h : Hdr) (f : Csr)
  /-- CSRS (R88). Sets CSR bits given by s_d. -/
  | csrs (h : Hdr) (f : Csr)
  /-- CSRC (R88). Clears CSR bits given by s_d. -/
  | csrc (h : Hdr) (f : Csr)
  /-- TRAP (R91). Raises the trap instruction exception 0x1B precisely with TVAL := n. -/
  | trap (h : Hdr) (f : I16)
  /-- RETT (R346). Restores the frame and resumes the context 32 cycles later, re-injecting held results. -/
  | rett (h : Hdr)
  /-- HALT (R93). Stops the strand's issue; in-flight results and engine commands still finish. -/
  | halt (h : Hdr)
  /-- FMT (R270). Pushes a 128-bit format word onto the array half's format queue. -/
  | fmt (h : Hdr) (f : Fmt)
  /-- FMTQ (R270). Reads the format queue occupancy. -/
  | fmtq (h : Hdr) (f : Rd)
  /-- CTXSW (R359). From context 0's handler hands the core to the urgent group in context 1. -/
  | ctxsw (h : Hdr)
  /-- YIELD (R377). Sets the launch's slice counter to zero. -/
  | yield (h : Hdr)
  /-- SLEEP (R377). Holds strand C until an interrupt source or pre-emption request is pending. -/
  | sleep (h : Hdr)
  /-- PERT (R235). Writes the PERT key, counter and member of a named strand. -/
  | pert (h : Hdr) (f : PertF)
  /-- LD_B (R196). Loads a sign-extended byte. -/
  | ldB (h : Hdr) (f : RI10)
  /-- LD_H (R196). Loads a sign-extended half. -/
  | ldH (h : Hdr) (f : RI10)
  /-- LD_W (R196). Loads a sign-extended word. -/
  | ldW (h : Hdr) (f : RI10)
  /-- LD_D (R196). Loads a doubleword. -/
  | ldD (h : Hdr) (f : RI10)
  /-- LD_BN (R196). Loads a zero-extended byte. -/
  | ldBn (h : Hdr) (f : RI10)
  /-- LD_HN (R196). Loads a zero-extended half. -/
  | ldHn (h : Hdr) (f : RI10)
  /-- LD_WN (R196). Loads a zero-extended word. -/
  | ldWn (h : Hdr) (f : RI10)
  /-- ST_B (R197). Stores the low byte of s_d. -/
  | stB (h : Hdr) (f : RI10)
  /-- ST_H (R197). Stores the low half of s_d. -/
  | stH (h : Hdr) (f : RI10)
  /-- ST_W (R197). Stores the low word of s_d. -/
  | stW (h : Hdr) (f : RI10)
  /-- ST_D (R197). Stores s_d as a doubleword. -/
  | stD (h : Hdr) (f : RI10)
  /-- VLD (R198). Loads 512 bytes into a strand V register in one cycle. -/
  | vld (h : Hdr) (f : RI10)
  /-- VST (R198). Stores 512 bytes of a strand V register. -/
  | vst (h : Hdr) (f : RI10)
  /-- VLDS (R199). Strided vector load with byte stride s_b. -/
  | vlds (h : Hdr) (f : R3w)
  /-- VSTS (R199). Strided vector store with byte stride s_b. -/
  | vsts (h : Hdr) (f : R3w)
  /-- VLDB (R198). Broadcasts one loaded element to every lane. -/
  | vldb (h : Hdr) (f : R2w)
  /-- ATOM_ADD (R202). Atomic add at the pointer, returning the old value. -/
  | atomAdd (h : Hdr) (f : AtomF)
  /-- ATOM_AND (R202). Atomic AND, returning the old value. -/
  | atomAnd (h : Hdr) (f : AtomF)
  /-- ATOM_OR (R202). Atomic OR, returning the old value; with b = s0 it is the load form. -/
  | atomOr (h : Hdr) (f : AtomF)
  /-- ATOM_XOR (R202). Atomic XOR, returning the old value. -/
  | atomXor (h : Hdr) (f : AtomF)
  /-- ATOM_MIN (R202). Atomic signed minimum. -/
  | atomMin (h : Hdr) (f : AtomF)
  /-- ATOM_MAX (R202). Atomic signed maximum. -/
  | atomMax (h : Hdr) (f : AtomF)
  /-- ATOM_MINN (R202). Atomic unsigned minimum. -/
  | atomMinn (h : Hdr) (f : AtomF)
  /-- ATOM_MAXN (R202). Atomic unsigned maximum. -/
  | atomMaxn (h : Hdr) (f : AtomF)
  /-- ATOM_SWAP (R202). Atomic swap; with d = s0 it is the store form. -/
  | atomSwap (h : Hdr) (f : AtomF)
  /-- CAS (R203). Compares memory with s_d and writes s_b on equality, returning the old value. -/
  | cas (h : Hdr) (f : CasF)
  /-- FENCE (R206). Holds the next access until earlier in-scope accesses have performed. -/
  | fence (h : Hdr) (f : FenceF)
  /-- MARK (R207). Waits for every pending access of strand A and flushes its write-combining entries. -/
  | mark (h : Hdr)
  /-- COPY (R172). Enters a stamped byte-run copy into the copy engine's buffer. -/
  | copy (h : Hdr) (f : En)
  /-- COPYT (R175). Enters a stamped tensor-map gather or scatter copy. -/
  | copyt (h : Hdr) (f : En)
  /-- COPYK (R183). Enters a stamped copy through the fixed-rate block coder. -/
  | copyk (h : Hdr) (f : En)
  /-- STRM_OPEN (R153). Verifies a Bartundi stream and opens it with a start stamp, charging its rate. -/
  | strmOpen (h : Hdr) (f : R2T)
  /-- STRM_CHK (R152). Checks a stream header and timetable against the buffer contract without opening it. -/
  | strmChk (h : Hdr) (f : R2)
  /-- STRM_STAT (R154). Reads the open stream's status. -/
  | strmStat (h : Hdr) (f : R2)
  /-- STRM_CLOSE (R155). Closes the open stream, empties the buffer and poisons pending drains. -/
  | strmClose (h : Hdr) (f : R1)
  /-- MBXS (R210). Sends a 512-byte action into a mailbox's action queue. -/
  | mbxs (h : Hdr) (f : R3)
  /-- MBXR (R210). Takes an observation from a mailbox into the scratchpad. -/
  | mbxr (h : Hdr) (f : R3)
  /-- MBXQ (R211). Reads a mailbox's state. -/
  | mbxq (h : Hdr) (f : R2)
  /-- TLBI_PAGE (R213). Invalidates this core's TLB entries for one page. -/
  | tlbiPage (h : Hdr) (f : R1)
  /-- TLBI_VF (R213). Invalidates this core's TLB entries for the whole VF. -/
  | tlbiVf (h : Hdr) (f : Ra)
  /-- PREF (R214). Walks up to 16 pages into strand A's stream TLB. -/
  | pref (h : Hdr) (f : R2s)
  /-- STEP (R327). Votes and waits at the superstep boundary, returning the step result. -/
  | stepPod (h : Hdr) (f : R2T)
  /-- VADD_I8 (R222). Lane-wise i8 add, wrapping or saturating by T. -/
  | vaddI8 (h : Hdr) (f : V3t)
  /-- VADD_I16 (R222). Lane-wise i16 add. -/
  | vaddI16 (h : Hdr) (f : V3t)
  /-- VADD_I32 (R222). Lane-wise i32 add. -/
  | vaddI32 (h : Hdr) (f : V3t)
  /-- VADD_BF16 (R223). Lane-wise bf16 add rounded once. -/
  | vaddBf16 (h : Hdr) (f : V3)
  /-- VADD_F32 (R223). Lane-wise f32 add rounded once. -/
  | vaddF32 (h : Hdr) (f : V3)
  /-- VSUB_I8 (R222). Lane-wise i8 subtract. -/
  | vsubI8 (h : Hdr) (f : V3t)
  /-- VSUB_I16 (R222). Lane-wise i16 subtract. -/
  | vsubI16 (h : Hdr) (f : V3t)
  /-- VSUB_I32 (R222). Lane-wise i32 subtract. -/
  | vsubI32 (h : Hdr) (f : V3t)
  /-- VSUB_BF16 (R223). Lane-wise bf16 subtract. -/
  | vsubBf16 (h : Hdr) (f : V3)
  /-- VSUB_F32 (R223). Lane-wise f32 subtract. -/
  | vsubF32 (h : Hdr) (f : V3)
  /-- VMUL_I8 (R222). Lane-wise i8 multiply. -/
  | vmulI8 (h : Hdr) (f : V3t)
  /-- VMUL_I16 (R222). Lane-wise i16 multiply. -/
  | vmulI16 (h : Hdr) (f : V3t)
  /-- VMUL_I32 (R222). Lane-wise i32 multiply. -/
  | vmulI32 (h : Hdr) (f : V3t)
  /-- VMUL_BF16 (R223). Lane-wise bf16 multiply. -/
  | vmulBf16 (h : Hdr) (f : V3)
  /-- VMUL_F32 (R223). Lane-wise f32 multiply. -/
  | vmulF32 (h : Hdr) (f : V3)
  /-- VMIN_I8 (R222). Lane-wise i8 or n8 minimum. -/
  | vminI8 (h : Hdr) (f : V3t)
  /-- VMIN_I16 (R222). Lane-wise i16 or n16 minimum. -/
  | vminI16 (h : Hdr) (f : V3t)
  /-- VMIN_I32 (R222). Lane-wise i32 or n32 minimum. -/
  | vminI32 (h : Hdr) (f : V3t)
  /-- VMIN_BF16 (R224). Lane-wise bf16 minimum with NaN rules. -/
  | vminBf16 (h : Hdr) (f : V3)
  /-- VMIN_F32 (R224). Lane-wise f32 minimum. -/
  | vminF32 (h : Hdr) (f : V3)
  /-- VMAX_I8 (R222). Lane-wise i8 or n8 maximum. -/
  | vmaxI8 (h : Hdr) (f : V3t)
  /-- VMAX_I16 (R222). Lane-wise i16 or n16 maximum. -/
  | vmaxI16 (h : Hdr) (f : V3t)
  /-- VMAX_I32 (R222). Lane-wise i32 or n32 maximum. -/
  | vmaxI32 (h : Hdr) (f : V3t)
  /-- VMAX_BF16 (R224). Lane-wise bf16 maximum. -/
  | vmaxBf16 (h : Hdr) (f : V3)
  /-- VMAX_F32 (R224). Lane-wise f32 maximum. -/
  | vmaxF32 (h : Hdr) (f : V3)
  /-- VABS_I8 (R222). Lane-wise i8 absolute value. -/
  | vabsI8 (h : Hdr) (f : VUt)
  /-- VABS_I16 (R222). Lane-wise i16 absolute value. -/
  | vabsI16 (h : Hdr) (f : VUt)
  /-- VABS_I32 (R222). Lane-wise i32 absolute value. -/
  | vabsI32 (h : Hdr) (f : VUt)
  /-- VABS_BF16 (R224). Clears the sign bit of bf16 lanes. -/
  | vabsBf16 (h : Hdr) (f : VU)
  /-- VABS_F32 (R224). Clears the sign bit of f32 lanes. -/
  | vabsF32 (h : Hdr) (f : VU)
  /-- VNEG_I8 (R222). Lane-wise i8 negation. -/
  | vnegI8 (h : Hdr) (f : VUt)
  /-- VNEG_I16 (R222). Lane-wise i16 negation. -/
  | vnegI16 (h : Hdr) (f : VUt)
  /-- VNEG_I32 (R222). Lane-wise i32 negation. -/
  | vnegI32 (h : Hdr) (f : VUt)
  /-- VNEG_BF16 (R224). Inverts the sign bit of bf16 lanes. -/
  | vnegBf16 (h : Hdr) (f : VU)
  /-- VNEG_F32 (R224). Inverts the sign bit of f32 lanes. -/
  | vnegF32 (h : Hdr) (f : VU)
  /-- VFMA_BF16 (R225). Fused a·b + vd in bf16 with one rounding. -/
  | vfmaBf16 (h : Hdr) (f : V3)
  /-- VNFMA_BF16 (R225). Fused −(a·b) + vd in bf16. -/
  | vnfmaBf16 (h : Hdr) (f : V3)
  /-- VFMA_F32 (R225). Fused a·b + vd in f32. -/
  | vfmaF32 (h : Hdr) (f : V3)
  /-- VNFMA_F32 (R225). Fused −(a·b) + vd in f32. -/
  | vnfmaF32 (h : Hdr) (f : V3)
  /-- VFMS_BF16 (R225). Fused a·b − vd in bf16. -/
  | vfmsBf16 (h : Hdr) (f : V3)
  /-- VFMS_F32 (R225). Fused a·b − vd in f32. -/
  | vfmsF32 (h : Hdr) (f : V3)
  /-- VWMUL_I8 (R239). Widening i8 or n8 multiply into a register pair. -/
  | vwmulI8 (h : Hdr) (f : V3t)
  /-- VWMUL_I16 (R239). Widening i16 or n16 multiply into a pair. -/
  | vwmulI16 (h : Hdr) (f : V3t)
  /-- VWMUL_BF16 (R239). Widening bf16 multiply into f32 pair. -/
  | vwmulBf16 (h : Hdr) (f : V3)
  /-- VDOT4_I8 (R240). Four-term i8 or n8 dot products accumulated into i32 lanes. -/
  | vdot4I8 (h : Hdr) (f : V3t)
  /-- VAND_I8 (R226). Bitwise AND under an i8 predicate. -/
  | vandI8 (h : Hdr) (f : V3)
  /-- VAND_I32 (R226). Bitwise AND under an i32 predicate. -/
  | vandI32 (h : Hdr) (f : V3)
  /-- VOR_I8 (R226). Bitwise OR under an i8 predicate. -/
  | vorI8 (h : Hdr) (f : V3)
  /-- VOR_I32 (R226). Bitwise OR under an i32 predicate. -/
  | vorI32 (h : Hdr) (f : V3)
  /-- VXOR_I8 (R226). Bitwise XOR under an i8 predicate. -/
  | vxorI8 (h : Hdr) (f : V3)
  /-- VXOR_I32 (R226). Bitwise XOR under an i32 predicate. -/
  | vxorI32 (h : Hdr) (f : V3)
  /-- VNOT_I8 (R226). Bitwise NOT under an i8 predicate. -/
  | vnotI8 (h : Hdr) (f : VU)
  /-- VNOT_I32 (R226). Bitwise NOT under an i32 predicate. -/
  | vnotI32 (h : Hdr) (f : VU)
  /-- VSHL_I8 (R227). Per-lane i8 left shift. -/
  | vshlI8 (h : Hdr) (f : V3)
  /-- VSHL_I16 (R227). Per-lane i16 left shift. -/
  | vshlI16 (h : Hdr) (f : V3)
  /-- VSHL_I32 (R227). Per-lane i32 left shift. -/
  | vshlI32 (h : Hdr) (f : V3)
  /-- VSHR_I8 (R227). Per-lane i8 logical right shift. -/
  | vshrI8 (h : Hdr) (f : V3)
  /-- VSHR_I16 (R227). Per-lane i16 logical right shift. -/
  | vshrI16 (h : Hdr) (f : V3)
  /-- VSHR_I32 (R227). Per-lane i32 logical right shift. -/
  | vshrI32 (h : Hdr) (f : V3)
  /-- VSAR_I8 (R227). Per-lane i8 arithmetic right shift. -/
  | vsarI8 (h : Hdr) (f : V3)
  /-- VSAR_I16 (R227). Per-lane i16 arithmetic right shift. -/
  | vsarI16 (h : Hdr) (f : V3)
  /-- VSAR_I32 (R227). Per-lane i32 arithmetic right shift. -/
  | vsarI32 (h : Hdr) (f : V3)
  /-- VCMP_I8 (R228). Compares i8 or n8 lanes into a predicate. -/
  | vcmpI8 (h : Hdr) (f : VCmp)
  /-- VCMP_I16 (R228). Compares i16 or n16 lanes into a predicate. -/
  | vcmpI16 (h : Hdr) (f : VCmp)
  /-- VCMP_I32 (R228). Compares i32 or n32 lanes into a predicate. -/
  | vcmpI32 (h : Hdr) (f : VCmp)
  /-- VCMP_F8 (R228). Compares f8 lanes, ordered or unordered. -/
  | vcmpF8 (h : Hdr) (f : VCmp)
  /-- VCMP_BF16 (R228). Compares bf16 lanes, ordered or unordered. -/
  | vcmpBf16 (h : Hdr) (f : VCmp)
  /-- VCMP_F32 (R228). Compares f32 lanes, ordered or unordered. -/
  | vcmpF32 (h : Hdr) (f : VCmp)
  /-- VSEL_I8 (R229). Selects i8 lanes from va or vb by predicate. -/
  | vselI8 (h : Hdr) (f : V3)
  /-- VSEL_I16 (R229). Selects i16 lanes by predicate. -/
  | vselI16 (h : Hdr) (f : V3)
  /-- VSEL_I32 (R229). Selects i32 lanes by predicate. -/
  | vselI32 (h : Hdr) (f : V3)
  /-- VCVT (R236). Converts elements between types with RNE, RTZ or SR, widening or narrowing. -/
  | vcvt (h : Hdr) (f : Vc)
  /-- VEXP2 (R241). Correctly rounded 2^x on f32 lanes. -/
  | vexp2 (h : Hdr) (f : VU)
  /-- VLOG2 (R241). Correctly rounded log2 x. -/
  | vlog2 (h : Hdr) (f : VU)
  /-- VRCP (R241). Correctly rounded reciprocal. -/
  | vrcp (h : Hdr) (f : VU)
  /-- VRSQ (R241). Correctly rounded reciprocal square root. -/
  | vrsq (h : Hdr) (f : VU)
  /-- VTANH (R241). Correctly rounded tanh. -/
  | vtanh (h : Hdr) (f : VU)
  /-- VREDS_I32 (R242). Wrapping sum of active i32 lanes broadcast to every lane. -/
  | vredsI32 (h : Hdr) (f : VU)
  /-- VREDS_F32 (R242). Exact f32 sum of active lanes, rounded once. -/
  | vredsF32 (h : Hdr) (f : VU)
  /-- VREDM_I16 (R242). Largest active i16 or n16 lane. -/
  | vredmI16 (h : Hdr) (f : VUt)
  /-- VREDM_I32 (R242). Largest active i32 or n32 lane. -/
  | vredmI32 (h : Hdr) (f : VUt)
  /-- VREDM_BF16 (R242). Largest active bf16 lane, or of negated lanes. -/
  | vredmBf16 (h : Hdr) (f : VUt)
  /-- VREDM_F32 (R242). Largest active f32 lane, or of negated lanes. -/
  | vredmF32 (h : Hdr) (f : VUt)
  /-- VSCAN_I32 (R243). Inclusive wrapping prefix sums over active i32 lanes. -/
  | vscanI32 (h : Hdr) (f : VU)
  /-- VSCAN_F32 (R243). Inclusive f32 prefix sums, each rounded once. -/
  | vscanF32 (h : Hdr) (f : VU)
  /-- VPERM_I8 (R244). Permutes i8 lanes within each half by indices in vb. -/
  | vpermI8 (h : Hdr) (f : V3)
  /-- VPERM_I16 (R244). Permutes i16 lanes by indices in vb. -/
  | vpermI16 (h : Hdr) (f : V3)
  /-- VPERM_I32 (R244). Permutes i32 lanes by indices in vb. -/
  | vpermI32 (h : Hdr) (f : V3)
  /-- VSLIDE_I8 (R245). Slides i8 lanes by a scalar count, filling with 0. -/
  | vslideI8 (h : Hdr) (f : V3)
  /-- VSLIDE_I32 (R245). Slides i32 lanes by a scalar count. -/
  | vslideI32 (h : Hdr) (f : V3)
  /-- VBCAST_I8 (R245). Broadcasts a scalar's low byte to every active lane. -/
  | vbcastI8 (h : Hdr) (f : VU)
  /-- VBCAST_I16 (R245). Broadcasts a scalar's low half. -/
  | vbcastI16 (h : Hdr) (f : VU)
  /-- VBCAST_I32 (R245). Broadcasts a scalar's low word. -/
  | vbcastI32 (h : Hdr) (f : VU)
  /-- VIDX (R245). Writes each lane's index as i32. -/
  | vidx (h : Hdr) (f : VI)
  /-- VMOVSV (R246). Writes a scalar into one i32 lane, merging at landing. -/
  | vmovsv (h : Hdr) (f : VMov)
  /-- VMOVVS (R246). Reads one i32 lane into a scalar. -/
  | vmovvs (h : Hdr) (f : VMov)
  /-- VRB (R256). Reads one drained accumulator row from the result buffer after tag and arrival checks. -/
  | vrb (h : Hdr) (f : Vr)
  /-- ROT (R230). Steps strand V's ROTB down by one in the next cycle. -/
  | rot (h : Hdr)
  /-- VGATH (R248). Gathers 32-bit words from the scratchpad by lane indices through the gather unit. -/
  | vgath (h : Hdr) (f : Vx)
  /-- VSCAT (R248). Scatters 32-bit words to the scratchpad by lane indices. -/
  | vscat (h : Hdr) (f : Vx)
  /-- VSCATA_F32 (R250). Scatter-adds f32 lanes into scratchpad words. -/
  | vscataF32 (h : Hdr) (f : Vx)
  /-- VSCATA_I32 (R250). Scatter-adds i32 lanes into scratchpad words. -/
  | vscataI32 (h : Hdr) (f : Vx)
  /-- PAND (R252). ANDs two predicates. -/
  | pand (h : Hdr) (f : P3)
  /-- POR (R252). ORs two predicates. -/
  | por (h : Hdr) (f : P3)
  /-- PXOR (R252). XORs two predicates. -/
  | pxor (h : Hdr) (f : P3)
  /-- PNOT (R252). Inverts a predicate. -/
  | pnot (h : Hdr) (f : P2)
  /-- PCNT (R253). Counts set bits of a masked predicate into a scalar. -/
  | pcnt (h : Hdr) (f : Pc)
  /-- PFF (R253). Finds the first set bit of a masked predicate. -/
  | pff (h : Hdr) (f : Pc)
  /-- PSET (R254). Builds a prefix predicate of s_a ones. -/
  | pset (h : Hdr) (f : Ps)
  /-- OCLAIM (R266). Claims an operand slot for the issuing core. -/
  | oclaim (h : Hdr) (f : Mx)
  /-- OREL (R266). Releases an operand slot claimed by the issuing core. -/
  | orel (h : Hdr) (f : Mx)
  /-- OLOAD (R267). Fills an operand slot from the scratchpad in 512-byte beats with a sequence tag. -/
  | oload (h : Hdr) (f : Mo)
  /-- OLOAD_S (R156). Accepts a stamped drain of the next stream block into an operand slot. -/
  | oloadS (h : Hdr) (f : Ms)
  /-- MMA (R271). Issues a stamped tile command on two operand slots, popping a format word. -/
  | mma (h : Hdr) (f : Mm)
  /-- MMAP (R271). Issues a stamped tile command whose B side is bp12 perturbed by patina. -/
  | mmap (h : Hdr) (f : Mm)
  /-- MMAPT (R271). Issues a patina tile command reading the B slot transposed. -/
  | mmapt (h : Hdr) (f : Mm)
  /-- MDRAIN (R279). Copies an accumulator to a result-buffer position with a tag. -/
  | mdrain (h : Hdr) (f : Md)
  /-- MZERO (R280). Clears an accumulator to +0. -/
  | mzero (h : Hdr) (f : Mz)
  /-- MSTAT (R281). Reads the state of the core's array half. -/
  | mstat (h : Hdr) (f : Mg)
  /-- MRES (R276). Resumes a stopped tile command from its stop image. -/
  | mres (h : Hdr) (f : Mzg)
  /-- MMODE (R263). Sets the pair's array mode SOLO or PAIR with window W. -/
  | mmode (h : Hdr) (f : Mmo)
  /-- RESULT_LANDING (R64). An in-flight result lands in its destination register at issue + latency − 1, or after a pending load completes. -/
  | resultLanding (k : Nat)
  /-- ACCESS_PERFORM (R191). A pending access reads or writes its bytes at its perform cycle p. -/
  | accessPerform (k id : Nat)
  /-- TRANSLATION_WALK (R111). A page table walk finishes with a translation or a failure. -/
  | translationWalk (k id : Nat)
  /-- WC_READ_MODIFY_WRITE (R186). At WCWAIT expiry a partial write-combining entry is read, merged and written back. -/
  | wcReadModifyWrite (k unit : Nat)
  /-- HANDLER_START (R340). Strand C's handler makes its first issue at max(t + 40, w + 1). -/
  | handlerStart (k : Nat)
  /-- INTERRUPT_TAKEN (R347). A pending interrupt source is taken when IE is set and no strand is timed. -/
  | interruptTaken (k : Nat)
  /-- TICK (R347). The context's tick comparator fires once when GCYC equals it. -/
  | tick (k : Nat) (ctx : Bool)
  /-- DEFERRED_TRAP (R349). An unabsorbed array-half start fault is taken as an imprecise trap the cycle after the start. -/
  | deferredTrap (k : Nat)
  /-- COPY_START (R166). A buffered copy command starts at its target cycle or when the engine is free, popping its tokens. -/
  | copyStart (k : Nat)
  /-- COPY_BEAT (R168). One beat of a copy lands its bytes at the end of its cycle. -/
  | copyBeat (k id : Nat)
  /-- COPY_COMPLETE (R168). A copy completes at cycle C, pushing its token and making its barrier arrival. -/
  | copyComplete (k id : Nat)
  /-- STREAM_START (R147). At the start stamp T the stream enters RUNNING and its bandwidth reservation begins. -/
  | streamStart (k : Nat)
  /-- DRAIN (R148). The chisel removes a block whole at its drain cycle and decodes it into the slot. -/
  | drain (k : Nat)
  /-- STREAM_LATE_DECODE (R157). When the late block's last byte arrives the chisel decodes it and clears the poison. -/
  | streamLateDecode (k blk : Nat)
  /-- STREAM_OVER (R158). Fullness beyond B fails the stream and poisons its drains with 0x10. -/
  | streamOver (k : Nat)
  /-- OLOAD_S_COMPLETE (R156). At drain + 32 the slot is ready and the OLOAD.S pushes its token. -/
  | oloadSComplete (k id : Nat)
  /-- TILE_COMMAND_START (R272). A tile command starts at its target cycle after poison, ready, order and token checks. -/
  | tileCommandStart (k : Nat)
  /-- TILE_COMMAND_COMPLETE (R261). At L + 12 the accumulator holds the result and the command pushes its token. -/
  | tileCommandComplete (k id : Nat)
  /-- OLOAD_COMPLETE (R267). At c + B + 3 the OLOAD pushes its token. -/
  | oloadComplete (k id : Nat)
  /-- MDRAIN_COMPLETE (R279). By c + 39 the position's bytes are written and MDRAIN pushes its token. -/
  | mdrainComplete (k id : Nat)
  /-- MRES_IMAGE_READ (R276). After 129 beats the stop image's accumulator is loaded into zN. -/
  | mresImageRead (k id : Nat)
  /-- STOP_IMAGE_WRITE (R360). A stopped tile command's image is written to LOCAL over 129 cycles. -/
  | stopImageWrite (k id : Nat)
  /-- REPLAY (R401). A tile fault within the reserve redoes the retained window and slips the context by S cycles. -/
  | replay (k : Nat)
  /-- GATHER_GROUP_PERFORM (R249). One group of 32 lanes of a gather or scatter reads or writes the scratchpad. -/
  | gatherGroupPerform (k id : Nat)
  /-- GATHER_COMPLETE (R249). A gather lands its vector, or a scatter completes, and its token is pushed. -/
  | gatherComplete (k id : Nat)
  /-- GROUP_START (R370). A launch group makes its first issue when loading ends or its core frees. -/
  | groupStart (k : Nat)
  /-- GROUP_END (R93). A group ends when all strands halted and all results and engine commands finished. -/
  | groupEnd (k : Nat)
  /-- CONTEXT_SWITCH_BACK (R361). When context 1's group ends, context 0 resumes in its handler at e + 4. -/
  | contextSwitchBack (k : Nat)
  /-- PARK (R376). After engines drain at a boundary with a pending request the group is recorded and the core released. -/
  | park (k : Nat)
  /-- SLICE_EXPIRY (R374). A launch's slice counter reaches zero and sends pre-emption requests or reloads. -/
  | sliceExpiry (l : Nat)
  /-- LAUNCH_DISPATCH (R368). The dispatcher checks, selects and loads a ready launch at a queue head. -/
  | launchDispatch
  /-- LAUNCH_COMPLETE (R371). A launch whose groups have all ended completes and fires its signal. -/
  | launchComplete (l : Nat)
  /-- LAUNCH (R364). A LAUNCH capsule enters its launch queue. -/
  | launch (c : Capsule)
  /-- COPYIN (R364). A COPYIN capsule writes its payload at a GLOBAL VA when served. -/
  | copyin (vf q : Nat)
  /-- COPYOUT (R364). A COPYOUT capsule returns n bytes from a GLOBAL VA when served. -/
  | copyout (vf q : Nat)
  /-- SIGNAL_ADD (R364). A SIGNAL capsule with INT = 0 adds v to a signal. -/
  | signalAdd (vf q : Nat)
  /-- SIGNAL_INTERRUPT (R364). A SIGNAL capsule with INT = 1 raises a core's SIGNAL interrupt source. -/
  | signalInterrupt (vf q : Nat)
  /-- WAITSIG (R364). A WAITSIG capsule enters its queue to wait for a signal threshold. -/
  | waitsig (c : Capsule)
  /-- WAITSIG_COMPLETE (R368). A WAITSIG head completes in the first cycle its signal reaches the threshold. -/
  | waitsigComplete (vf q : Nat)
  /-- QUERY_QUEUES (R364). A QUERY of item 0 returns the launch queue occupancies. -/
  | queryQueues (vf q : Nat)
  /-- QUERY_SIGNAL (R364). A QUERY of item 1 returns a signal's value. -/
  | querySignal (vf q : Nat)
  /-- QUERY_CORES (R364). A QUERY of item 2 returns the partition's core count. -/
  | queryCores (vf q : Nat)
  /-- RESET_VF (R381). A RESET-VF capsule stops all issue of the VF and starts draining its requests. -/
  | resetVf (c : Capsule)
  /-- RESET_VF_CLEAR (R381). After the drain the VF's cores are cleared, TLBs invalidated and queues completed with RESET. -/
  | resetVfClear (vf : Nat)
  /-- COMPLETION_RETRY (R420). A held completion is retried every 2^20 cycles into the host ring. -/
  | completionRetry (vf : Nat)
  /-- RECORD_WRITE (R354). The reporting port writes one fault record to its two rings. -/
  | recordWrite
  /-- RECORD_RETRY (R355). A refused fault record is retried after its back-off delay. -/
  | recordRetry (k : Nat)
  /-- REPLY_RESUME (R357). A RESUME reply retranslates the halted access or copy and resumes it. -/
  | replyResume (r : BitVec 64)
  /-- REPLY_FAIL (R357). A FAIL reply traps the core with 0x06 or stops the copy. -/
  | replyFail (r : BitVec 64)
  /-- PARTITION_CONFIGURE (R372). System software assigns pairs, mailboxes, key slots, slices and plinth share to a VF. -/
  | partitionConfigure (p : PartitionCfg)
  /-- DIRTY_SWAP (R379). Switches the active dirty bitmap at a named cycle. -/
  | dirtySwap (vf w : Nat)
  /-- DIRTY_SWAP_COMPLETE (R379). Completion is reported once all writes before w are recorded. -/
  | dirtySwapComplete (vf : Nat)
  /-- SNAP (R380). Marks the partition's episode pages copy-on-write and numbers a snapshot. -/
  | snap (vf : Nat)
  /-- PAUSE_VF (R434). Sends pre-emption requests to the VF's non-pod groups and stops dispatch for it. -/
  | pauseVf (vf : Nat)
  /-- VF_PAUSED (R434). When all running groups have parked or ended the VF is paused and GTSP latched. -/
  | vfPaused (vf : Nat)
  /-- RESUME_VF (R434). Sets TBASE and TOFFSET from O and resumes the VF's dispatch. -/
  | resumeVf (vf : Nat) (o : BitVec 64)
  /-- VIRAL (R407). The management command forcing the package into the viral state. -/
  | viral
  /-- SNAPCTR (R429). Copies every event counter in one named cycle into a snapshot block. -/
  | snapctr
  /-- KEYLOAD (R416). Unwraps and loads an AES key into a key slot. -/
  | keyload (slot : Nat) (wrapped : List (BitVec 8))
  /-- KEYCLR (R416). Clears a key slot's key and VALID. -/
  | keyclr (slot : Nat)
  /-- KEY_SLOT_SWITCH (R416). The key change takes effect once no memory request under the slot remains. -/
  | keySlotSwitch (slot : Nat)
  /-- ATTESTATION_REPORT (R415). Answers a host nonce with measurements signed by the attestation key. -/
  | attestationReport (nonce : BitVec 384)
  /-- MR3_EXTEND (R414). Extends MR3 with a digest sent by system software. -/
  | mr3Extend (digest : BitVec 384)
  /-- ROUTE_SWAP_REQUEST (R334). Requests a swap of the control routing table banks. -/
  | routeSwapRequest
  /-- LTOL_WRITE (R428). Writes the latency tolerance, forcing an exit to S0 if below the current state's latency. -/
  | ltolWrite (v : BitVec 64)
  /-- REGISTER_WRITE (R418). A host-path or hart write to a configuration register with no behaviour of its own. -/
  | registerWrite (r : HostReg)
  /-- HALVING_REQUEST (R423). The power controller asks the armature for a pod-wide halving when a budget would be exceeded. -/
  | halvingRequest
  /-- HALVING_END_REQUEST (R423). After 2^20 cycles below 90 % of every budget the controller ends the halving. -/
  | halvingEndRequest
  /-- THERMAL_HALVING (R322). At the delivered cycle T every package changes its clock rate and rescales GTS. -/
  | thermalHalving (h : Bool)
  /-- POWER_STATE_ENTRY (R425). After 4096 idle cycles the package enters the deepest allowed state. -/
  | powerStateEntry
  /-- POWER_STATE_EXIT (R426). A wake event starts an exit to S0. -/
  | powerStateExit
  /-- POWER_EXIT_COMPLETE (R426). At the end of the exit latency the dispatcher serves queue heads again. -/
  | powerExitComplete
  /-- WAKE (R427). The active-low WAKE pin boots from S4 or wakes from S1–S3. -/
  | wake
  /-- PACKAGE_RESET (R412). Package reset runs the boot ROM, which verifies the firmware image. -/
  | packageReset
  /-- BOOT_REPAIR (R412). The fuse repair table is applied to SRAM rows. -/
  | bootRepair
  /-- BOOT_MARCH (R412). Firmware runs March C− over every SRAM word, repairing failing rows. -/
  | bootMarch (failing : List Nat)
  /-- BOOT_MEASURE (R412). Measurement registers are set and the attestation key derived. -/
  | bootMeasure
  /-- BOOT_RUN (R412). SRAM zeroed, key slots cleared, GCYC := 0, and capsules accepted. -/
  | bootRun
  /-- REALIGN_EXCHANGE (R320). At GCYC mod 65,536 = 0 each package sends its GCYC to its armature children. -/
  | realignExchange
  /-- REALIGN_MESSAGE (R320). A parent's GCYC message arrives; the package trims its clock or records SKEW. -/
  | realignMessage (g : BitVec 64)
  /-- REALIGN_TIMEOUT (R321). No parent message 1024 cycles after the exchange records SKEW. -/
  | realignTimeout
  /-- SLOT_DEPART (R325). At a window slot cycle the egress queue's head packet departs on its first hop. -/
  | slotDepart (w : Nat)
  /-- RETRANSMIT (R319). In the repair span each slot carries the oldest unacknowledged packet once. -/
  | retransmit (w : Nat)
  /-- PACKET_FORWARD (R318). A flit arriving mid-route is forwarded on its next hop, poisoning on header CRC failure. -/
  | packetForward (port : Nat) (p : Packet)
  /-- PACKET_RECEIVE (R319). A packet reaching its route's end is checked, acknowledged or discarded. -/
  | packetReceive (p : Packet)
  /-- ACK_RECEIVE (R319). An acknowledgement control message reaches the sender. -/
  | ackReceive (w seq : Nat)
  /-- CONTROL_MESSAGE (R334). An untimed control message is routed by the active routing table bank. -/
  | controlMessage (m : CtlMsg)
  /-- BOUNDARY_START (R328). At B strand A of each participating core is held, LEFT reloads and queued packets are discarded. -/
  | boundaryStart
  /-- VOTE_CUTOFF (R329). At B + 2560 the package closes its vote and the armature reduces votes over the pod. -/
  | voteCutoff
  /-- APPLY_SPAN (R330). At B + 4096 an all-ok pod applies its plinth under each window's rule. -/
  | applySpan
  /-- BOUNDARY_RESUME (R328). At U strand A resumes with STEP's result and a requested route swap takes effect. -/
  | boundaryResume
  /-- SCRUB_SLOT (R398). A scrubber reads, corrects and rewrites one word per bank in its slot. -/
  | scrubSlot (addr : Nat)
  /-- PATROL (R398). The memory controllers patrol the second tier, correcting and marking words. -/
  | patrol (addr : Nat)
  /-- MBCTL_START (R389). Starts an episode, binding EVER and opening the observation staging. -/
  | mbctlStart (m : Nat) (v : BitVec 64)
  /-- MBCTL_END (R389). Ends an episode, closing staging and clearing the step timer. -/
  | mbctlEnd (m : Nat) (v : BitVec 64)
  /-- MBCTL_KILL (R389). Kills a running episode as a watchdog expiry without setting WDOG. -/
  | mbctlKill (m : Nat) (v : BitVec 64)
  /-- APOP (R390). A hart removes the delivered action from ACTWIN. -/
  | apop (m : Nat)
  /-- OPUSH (R390). A hart appends OBSWIN as a DATA observation and stops the step timer. -/
  | opush (m : Nat) (v : BitVec 64)
  /-- ACTION_DELIVERY (R390). The head action is delivered to ACTWIN, setting AHEAD and AEV and starting the step timer. -/
  | actionDelivery (m : Nat)
  /-- WATCHDOG_EXPIRY (R391). The step timer reaching BUDGET terminates the episode and makes a TIMEOUT pending. -/
  | watchdogExpiry (m : Nat)
  /-- SYSTEM_OBSERVATION_APPEND (R393). A pending TIMEOUT or RETIRED observation is appended when the queue has room. -/
  | systemObservationAppend (m : Nat)
  /-- HART_TIMER_INTERRUPT (R386). The hart's machine timer interrupt becomes pending when GCYC reaches its comparator. -/
  | hartTimerInterrupt (h : Nat)
  /-- ILLEGAL_INSTRUCTION (R39). A fetched word whose (P, OP) cell is reserved, or whose zero or limited fields are out of bounds, takes the precise illegal-instruction trap 0x01 with TVAL := the word. -/
  | illegalInstruction (w : BitVec 32) (ext : BitVec 32)
  /-- RESERVATION_END (R147). When A(t) reaches TOTAL the stream's bandwidth reservation ends and its RATE/16 charge is released from the package account. -/
  | reservationEnd (k : Nat)
  /-- HOST_PATH_INVALIDATION (R213). A host-path command removes stale TLB entries of a VF in cores other than the issuing one. -/
  | hostPathInvalidation (vf : Nat)
  deriving DecidableEq, Repr

end Sys2Proof
end

