-- ==== Sys2Proof/WellFormed.lean ====
section
/-!
DEFINITION. WellFormed.lean: the limits of R42 and of the format tables that the field widths of Syntax.lean do not already
state. A word that breaks one is illegal (R39).
-/
namespace Sys2Proof

/-- A partition names units that exist, and slices and a plinth share that lie in their memories (R6, R103, R372). -/
def PartitionCfg.ok (p : PartitionCfg) : Bool :=
  p.vf < 16 && p.pairs.all (· < 384) && p.mailboxes.all (· < 1024) && p.harts.all (· < 128) && p.keys.all (fun k => 1 ≤ k && k < 256)
    && p.slices.all (fun x => x.1 < 96 && x.2.1 % 65536 = 0 && x.2.2 % 65536 = 0 && x.2.1 + x.2.2 ≤ 2 ^ 23)
    && p.plinth ≤ 2 ^ 26 && p.podIdx.all (· < 512)

/-- The place where storage takes an error exists. -/
def Upset.ok : Upset → Bool
  | .word n _ => n < 2 ^ 41
  | .scalar k _ _ _ | .pred k _ _ | .vector k _ _ _ | .flight k _ _ _ | .queue k _ | .format k _ _ => k < 768
  | .barrier key => key < 55296
  | .mailbox m _ _ => m < 1024
  | .line _ l w => l < 2 ^ 32 && w < 8
  | .plinth _ => true
  | .flash _ | .march _ | .corrected .. | .fatal _ => true

/-- A capsule reaches an endpoint on one of the 8 Ethernet ports, in a message of a header and what follows it, or of less than a header
(R363, R419, R421). -/
def Capsule.ok (c : Capsule) : Bool :=
  c.vf < 16 && c.port < 8 && (c.len = 32 + c.payload.length || (c.len < 32 && c.payload.isEmpty))

/-- What reaches the part names units that exist; coordinates are below 8 and extents from 1 to 8 (R4); a page table root is aligned to 64 KiB
and lies in the second tier (R109); a completion ring has 2^4 to 2^16 entries (R420); endpoint 16
is that of the management class (R418). -/
def HostReg.ok : HostReg → Bool
  | .tableRoot vf pa => vf < 16 && pa % 65536 = 0 && pa < 2 ^ 38
  | .complRing vf _ n _ _ => vf ≤ 16 && 4 ≤ n && n ≤ 16
  | .endpoint vf _ ports => vf ≤ 16 && ports.all (· < 8)
  | .slice vf _ | .vfWeight vf _ | .nomScale vf _ | .toffset vf _ | .tbase vf _ | .dirtyMaps vf _ _ | .errQueue vf _ =>
    vf < 16
  | .wcwait k _ | .tickCmp k _ _ => k < 768
  | .coords x y z => x < 8 && y < 8 && z < 8
  | .extent x y z => 1 ≤ x && x ≤ 8 && 1 ≤ y && y ≤ 8 && 1 ≤ z && z ≤ 8
  | .windowRoute w _ => w < 64
  | .route _ dst port => dst < 512 && port < 18
  | .ringCtl n .. | .ringHead n _ => n < 18
  | .counterCtl level idx n _ => (level = 0 && idx < 768 && n < 8) || (level = 1 && idx < 96 && n < 16) || (level = 2 && n < 32)
  | .keyVf slot vf => 1 ≤ slot && slot < 256 && vf < 16
  | .mqkey h _ | .hartStore h .. | .hartLoad h .. | .hartAmo h .. | .hartTime h => h < 128
  | .hartDiv g n => g < 8 && 1 ≤ n && n ≤ 4
  | .upset w => w.ok
  | .stepTol _ | .podBoundary _ | .physLog _ | .patrolPeriod _ | .lineBack .. | .maqImage _ | .snapCycle _ => true

/-- The CSR numbers R52 assigns. -/
def csrNumbers : List (BitVec 12) :=
  [0x000, 0x001, 0x002, 0x003, 0x010, 0x011, 0x012, 0x013, 0x014, 0x015, 0x020, 0x021, 0x022, 0x023, 0x030, 0x031,
   0x040, 0x041, 0x042]

/-- The CSRs that R52 gives access RW. -/
def csrRw : List (BitVec 12) := [0x013, 0x014, 0x015, 0x020, 0x021, 0x022, 0x023]

/-- An assigned CSR number (R53). -/
def csrAssigned (n : BitVec 12) : Bool := csrNumbers.contains n

/-- A CSR that CSRW, CSRS and CSRC may name (R53). -/
def csrWritable (n : BitVec 12) : Bool := csrRw.contains n

/-- How a VCVT's elements lie (R237): `widen` and `narrow` carry k. -/
inductive CvtShape where
  | same | widen (k : Nat) | narrow (k : Nat) | patina
  deriving DecidableEq, Repr

/-- The rows of R236's table: source and destination codes (R49), whether RTZ and SR are admitted, and the shape. -/
def cvtRows : List (Nat × Nat × Bool × CvtShape) :=
  [(9, 8, true, .narrow 2), (9, 7, true, .narrow 4), (8, 7, true, .narrow 2), (8, 9, false, .widen 2),
   (7, 8, false, .widen 2), (7, 9, false, .widen 4), (9, 3, true, .same), (9, 6, true, .same),
   (9, 2, true, .narrow 2), (9, 5, true, .narrow 2), (9, 1, true, .narrow 4), (9, 4, true, .narrow 4),
   (8, 2, true, .same), (8, 5, true, .same), (8, 1, true, .narrow 2), (8, 4, true, .narrow 2)]
  ++ [(3, 9, true, .same), (6, 9, true, .same), (2, 8, true, .same), (2, 9, false, .widen 2),
   (1, 8, false, .widen 2), (4, 8, false, .widen 2), (3, 2, false, .narrow 2), (3, 5, false, .narrow 2),
   (3, 1, false, .narrow 4), (3, 4, false, .narrow 4), (2, 1, false, .narrow 2), (2, 4, false, .narrow 2),
   (1, 0, false, .narrow 2), (0, 1, false, .widen 2), (1, 2, false, .widen 2), (2, 3, false, .widen 2),
   (4, 2, false, .widen 2), (5, 3, false, .widen 2), (12, 8, false, .widen 2), (13, 8, false, .patina)]

/-- The shape of a conversion (R236); none where the triple is not listed. -/
def cvtShape (src dst : BitVec 4) (rm : BitVec 2) : Option CvtShape :=
  match cvtRows.find? (fun r => r.1 = src.toNat && r.2.1 = dst.toNat) with
  | some (_, _, all, sh) => if rm = 0 || (all && rm ≠ 3) then some sh else none
  | none => none

/-- The alignment a shape asks of vd and va (R219, R237). -/
def CvtShape.aligned (sh : CvtShape) (vd va : BitVec 5) : Bool :=
  match sh with
  | .same | .patina => true
  | .widen k => vd.toNat % k = 0
  | .narrow k => va.toNat % k = 0

/-- A VCVT that R236 admits. -/
def vcvtOk (f : Vc) : Bool :=
  match cvtShape f.src f.dst f.rm with
  | some sh => sh.aligned f.vd f.va
  | none => false

/-- A unit number that the part has (R2, R3, R6). -/
def coreOk (k : Nat) : Bool := k < 768

/-- Every limit the manual states for the instruction's fields holds; for an event, the unit it names exists. -/
def Instr.wf : Instr → Bool
  | .add _ _ => true
  | .sub _ _ => true
  | .and _ _ => true
  | .or _ _ => true
  | .xor _ _ => true
  | .shl _ _ => true
  | .shr _ _ => true
  | .sar _ _ => true
  | .min _ _ => true
  | .max _ _ => true
  | .minn _ _ => true
  | .maxn _ _ => true
  | .slt _ _ => true
  | .sltn _ _ => true
  | .seq _ _ => true
  | .sel _ _ => true
  | .mul _ _ => true
  | .mulh _ _ => true
  | .mulhn _ _ => true
  | .div _ _ => true
  | .divn _ _ => true
  | .rem _ _ => true
  | .clz _ _ => true
  | .popc _ _ => true
  | .lea _ _ => true
  | .pmake _ _ => true
  | .pspace _ _ => true
  | .prank _ _ => true
  | .addi _ _ => true
  | .andi _ _ => true
  | .ori _ _ => true
  | .xori _ _ => true
  | .shli _ f => f.imm.toNat < 64
  | .shri _ f => f.imm.toNat < 64
  | .sari _ f => f.imm.toNat < 64
  | .slti _ _ => true
  | .li _ _ => true
  | .lih _ _ => true
  | .lil _ _ => true
  | .beq _ _ => true
  | .bne _ _ => true
  | .blt _ _ => true
  | .bge _ _ => true
  | .bltn _ _ => true
  | .bgen _ _ => true
  | .jmp _ _ => true
  | .jal _ _ => true
  | .jr _ _ => true
  | .loop _ f => f.last ≠ 0
  | .loops _ f => f.last ≠ 0 && f.stages ≠ 0
  | .lbrk _ _ => true
  | .wait _ _ => true
  | .waitg _ _ => true
  | .align _ _ => true
  | .segb _ f => f.count ≠ 0
  | .sege _ => true
  | .tsm _ => true
  | .opb _ => true
  | .tks _ _ => true
  | .tkw _ _ => true
  | .bini _ _ => true
  | .barv _ _ => true
  | .bexp _ _ => true
  | .bwt _ _ => true
  | .bph _ _ => true
  | .csrr _ f => csrAssigned f.n
  | .csrw _ f => csrWritable f.n
  | .csrs _ f => csrWritable f.n
  | .csrc _ f => csrWritable f.n
  | .trap _ _ => true
  | .rett _ => true
  | .halt _ => true
  | .fmt _ _ => true
  | .fmtq _ _ => true
  | .ctxsw _ => true
  | .yield _ => true
  | .sleep _ => true
  | .pert _ _ => true
  | .ldB _ _ => true
  | .ldH _ _ => true
  | .ldW _ _ => true
  | .ldD _ _ => true
  | .ldBn _ _ => true
  | .ldHn _ _ => true
  | .ldWn _ _ => true
  | .stB _ _ => true
  | .stH _ _ => true
  | .stW _ _ => true
  | .stD _ _ => true
  | .vld _ _ => true
  | .vst _ _ => true
  | .vlds _ f => f.w ≠ 3
  | .vsts _ f => f.w ≠ 3
  | .vldb _ f => f.w ≠ 3
  | .atomAdd _ f => f.wide.toNat < 2 && f.scope ≠ 3
  | .atomAnd _ f => f.wide.toNat < 2 && f.scope ≠ 3
  | .atomOr _ f => f.wide.toNat < 2 && f.scope ≠ 3
  | .atomXor _ f => f.wide.toNat < 2 && f.scope ≠ 3
  | .atomMin _ f => f.wide.toNat < 2 && f.scope ≠ 3
  | .atomMax _ f => f.wide.toNat < 2 && f.scope ≠ 3
  | .atomMinn _ f => f.wide.toNat < 2 && f.scope ≠ 3
  | .atomMaxn _ f => f.wide.toNat < 2 && f.scope ≠ 3
  | .atomSwap _ f => f.wide.toNat < 2 && f.scope ≠ 3
  | .cas _ f => f.wide.toNat < 2 && f.scope ≠ 3 && f.forder.toNat < 2
  | .fence _ f => f.order ≠ 0 && f.scope ≠ 3
  | .mark _ => true
  | .copy _ _ => true
  | .copyt _ _ => true
  | .copyk _ _ => true
  | .strmOpen _ _ => true
  | .strmChk _ _ => true
  | .strmStat _ _ => true
  | .strmClose _ _ => true
  | .mbxs _ _ => true
  | .mbxr _ _ => true
  | .mbxq _ _ => true
  | .tlbiPage _ _ => true
  | .tlbiVf _ _ => true
  | .pref _ _ => true
  | .stepPod _ _ => true
  | .vaddI8 _ _ => true
  | .vaddI16 _ _ => true
  | .vaddI32 _ _ => true
  | .vaddBf16 _ _ => true
  | .vaddF32 _ _ => true
  | .vsubI8 _ _ => true
  | .vsubI16 _ _ => true
  | .vsubI32 _ _ => true
  | .vsubBf16 _ _ => true
  | .vsubF32 _ _ => true
  | .vmulI8 _ _ => true
  | .vmulI16 _ _ => true
  | .vmulI32 _ _ => true
  | .vmulBf16 _ _ => true
  | .vmulF32 _ _ => true
  | .vminI8 _ _ => true
  | .vminI16 _ _ => true
  | .vminI32 _ _ => true
  | .vminBf16 _ _ => true
  | .vminF32 _ _ => true
  | .vmaxI8 _ _ => true
  | .vmaxI16 _ _ => true
  | .vmaxI32 _ _ => true
  | .vmaxBf16 _ _ => true
  | .vmaxF32 _ _ => true
  | .vabsI8 _ _ => true
  | .vabsI16 _ _ => true
  | .vabsI32 _ _ => true
  | .vabsBf16 _ _ => true
  | .vabsF32 _ _ => true
  | .vnegI8 _ _ => true
  | .vnegI16 _ _ => true
  | .vnegI32 _ _ => true
  | .vnegBf16 _ _ => true
  | .vnegF32 _ _ => true
  | .vfmaBf16 _ _ => true
  | .vnfmaBf16 _ _ => true
  | .vfmaF32 _ _ => true
  | .vnfmaF32 _ _ => true
  | .vfmsBf16 _ _ => true
  | .vfmsF32 _ _ => true
  | .vwmulI8 _ f => !f.vd.getLsbD 0
  | .vwmulI16 _ f => !f.vd.getLsbD 0
  | .vwmulBf16 _ f => !f.vd.getLsbD 0
  | .vdot4I8 _ _ => true
  | .vandI8 _ _ => true
  | .vandI32 _ _ => true
  | .vorI8 _ _ => true
  | .vorI32 _ _ => true
  | .vxorI8 _ _ => true
  | .vxorI32 _ _ => true
  | .vnotI8 _ _ => true
  | .vnotI32 _ _ => true
  | .vshlI8 _ _ => true
  | .vshlI16 _ _ => true
  | .vshlI32 _ _ => true
  | .vshrI8 _ _ => true
  | .vshrI16 _ _ => true
  | .vshrI32 _ _ => true
  | .vsarI8 _ _ => true
  | .vsarI16 _ _ => true
  | .vsarI32 _ _ => true
  | .vcmpI8 _ f => f.pd ≠ 0
  | .vcmpI16 _ f => f.pd ≠ 0
  | .vcmpI32 _ f => f.pd ≠ 0
  | .vcmpF8 _ f => f.pd ≠ 0
  | .vcmpBf16 _ f => f.pd ≠ 0
  | .vcmpF32 _ f => f.pd ≠ 0
  | .vselI8 _ _ => true
  | .vselI16 _ _ => true
  | .vselI32 _ _ => true
  | .vcvt _ f => vcvtOk f
  | .vexp2 _ _ => true
  | .vlog2 _ _ => true
  | .vrcp _ _ => true
  | .vrsq _ _ => true
  | .vtanh _ _ => true
  | .vredsI32 _ _ => true
  | .vredsF32 _ _ => true
  | .vredmI16 _ _ => true
  | .vredmI32 _ _ => true
  | .vredmBf16 _ _ => true
  | .vredmF32 _ _ => true
  | .vscanI32 _ _ => true
  | .vscanF32 _ _ => true
  | .vpermI8 _ _ => true
  | .vpermI16 _ _ => true
  | .vpermI32 _ _ => true
  | .vslideI8 _ _ => true
  | .vslideI32 _ _ => true
  | .vbcastI8 _ _ => true
  | .vbcastI16 _ _ => true
  | .vbcastI32 _ _ => true
  | .vidx _ _ => true
  | .vmovsv _ _ => true
  | .vmovvs _ _ => true
  | .vrb _ _ => true
  | .rot _ => true
  | .vgath _ _ => true
  | .vscat _ _ => true
  | .vscataF32 _ _ => true
  | .vscataI32 _ _ => true
  | .pand _ f => f.pd ≠ 0
  | .por _ f => f.pd ≠ 0
  | .pxor _ f => f.pd ≠ 0
  | .pnot _ f => f.pd ≠ 0
  | .pcnt _ _ => true
  | .pff _ _ => true
  | .pset _ f => f.pd ≠ 0
  | .oclaim _ _ => true
  | .orel _ _ => true
  | .oload _ f => f.len.toNat - 1 < 512 && f.len ≠ 0
  | .oloadS _ _ => true
  | .mma _ _ => true
  | .mmap _ _ => true
  | .mmapt _ _ => true
  | .mdrain _ _ => true
  | .mzero _ _ => true
  | .mstat _ _ => true
  | .mres _ _ => true
  | .mmode _ f => f.mode ≠ 7
  | .resultLanding k => coreOk k
  | .accessPerform k _ => coreOk k
  | .translationWalk k _ => coreOk k
  | .wcReadModifyWrite k _ => coreOk k
  | .handlerStart k => coreOk k
  | .interruptTaken k => coreOk k
  | .tick k _ => coreOk k
  | .deferredTrap k => coreOk k
  | .copyStart k => coreOk k
  | .copyBeat k _ => coreOk k
  | .copyComplete k _ => coreOk k
  | .streamStart k => coreOk k
  | .drain k => coreOk k
  | .streamLateDecode k _ => coreOk k
  | .streamOver k => coreOk k
  | .oloadSComplete k _ => coreOk k
  | .tileCommandStart k => coreOk k
  | .tileCommandComplete k _ => coreOk k
  | .oloadComplete k _ => coreOk k
  | .mdrainComplete k _ => coreOk k
  | .mresImageRead k _ => coreOk k
  | .stopImageWrite k _ => coreOk k
  | .replay k => coreOk k
  | .gatherGroupPerform k _ => coreOk k
  | .gatherComplete k _ => coreOk k
  | .groupStart k => coreOk k
  | .groupEnd k => coreOk k
  | .contextSwitchBack k => coreOk k
  | .park k => coreOk k
  | .sliceExpiry _ => true
  | .launchDispatch => true
  | .launchComplete _ => true
  | .launch c => c.ok
  | .copyin vf q => vf < 16 && q < 4
  | .copyout vf q => vf < 16 && q < 4
  | .signalAdd vf q => vf < 16 && q < 4
  | .signalInterrupt vf q => vf < 16 && q < 4
  | .waitsig c => c.ok
  | .waitsigComplete vf q => vf < 16 && q < 4
  | .queryQueues vf q => vf < 16 && q < 4
  | .querySignal vf q => vf < 16 && q < 4
  | .queryCores vf q => vf < 16 && q < 4
  | .resetVf c => c.ok
  | .resetVfClear vf => vf < 16
  | .completionRetry vf => vf < 16
  | .recordWrite => true
  | .recordRetry k => coreOk k
  | .replyResume _ => true
  | .replyFail _ => true
  | .partitionConfigure p => p.ok
  | .dirtySwap vf _ => vf < 16
  | .dirtySwapComplete vf => vf < 16
  | .snap vf => vf < 16
  | .pauseVf vf => vf < 16
  | .vfPaused vf => vf < 16
  | .resumeVf vf _ => vf < 16
  | .viral => true
  | .snapctr => true
  | .keyload slot _ => 1 ≤ slot && slot < 256
  | .keyclr slot => 1 ≤ slot && slot < 256
  | .keySlotSwitch slot => 1 ≤ slot && slot < 256
  | .attestationReport _ => true
  | .mr3Extend _ => true
  | .routeSwapRequest => true
  | .ltolWrite _ => true
  | .registerWrite r => r.ok
  | .halvingRequest => true
  | .halvingEndRequest => true
  | .thermalHalving _ => true
  | .powerStateEntry => true
  | .powerStateExit => true
  | .powerExitComplete => true
  | .wake => true
  | .packageReset => true
  | .bootRepair => true
  | .bootMarch _ => true
  | .bootMeasure => true
  | .bootRun => true
  | .realignExchange => true
  | .realignMessage _ => true
  | .realignTimeout => true
  | .slotDepart w => w < 64
  | .retransmit w => w < 64
  | .packetForward p _ => p < 18
  | .packetReceive _ => true
  | .ackReceive w _ => w < 64
  | .controlMessage _ => true
  | .boundaryStart => true
  | .voteCutoff => true
  | .applySpan => true
  | .boundaryResume => true
  | .scrubSlot _ => true
  | .patrol a => a < 2 ^ 38
  | .mbctlStart m _ => m < 1024
  | .mbctlEnd m _ => m < 1024
  | .mbctlKill m _ => m < 1024
  | .apop m => m < 1024
  | .opush m _ => m < 1024
  | .actionDelivery m => m < 1024
  | .watchdogExpiry m => m < 1024
  | .systemObservationAppend m => m < 1024
  | .hartTimerInterrupt h => h < 128
  | .illegalInstruction _ _ => true
  | .reservationEnd k => coreOk k
  | .hostPathInvalidation vf => vf < 16

end Sys2Proof
end

