-- ==== Sys2Proof/Decode.lean ====
section
/-!
DEFINITION. Decode.lean: from words to instructions, total on any words and bytes and rejecting by name (R37 to R62), and the
encoder written from the same tables.
-/
namespace Sys2Proof

/-- Why a word is not an instruction (R39). -/
inductive DecodeError where
  | reservedCell     -- a reserved (P, OP) cell or fn
  | nonzeroField     -- a field that must be zero is not
  | outOfLimits      -- a field outside the limits stated for it
  | noExtension      -- a long word at the end of the image (R46)
  deriving DecidableEq, Repr

/-- The outcome of decoding. -/
abbrev Decoded := Except DecodeError Instr

/-- S and I of a word (R37). -/
def hdrOf (w : W32) : Hdr := ⟨bit w 30, fld w 28 2⟩
/-- OP of a word (R37). -/
def opOf (w : W32) : Nat := (fld w 21 7).toNat

/-- `r` if the test holds, else the error. -/
def need (ok : Bool) (e : DecodeError) (r : Decoded) : Decoded := if ok then r else .error e

/-- `r` of the extension word, if there is one (R44, R46). -/
def withExt (ext : Option W32) (r : W32 → Decoded) : Decoded :=
  match ext with
  | some x => r x
  | none => .error .noExtension

/-- Decode to `i` if its fields lie within their limits (R42). -/
def limited (i : Instr) : Decoded := need i.wf .outOfLimits (.ok i)

/-- Fields of the r3 layout (R40, R56 to R62). -/
def decR3 (k : Hdr → R3 → Instr) (w : W32) : Decoded :=
  limited (k (hdrOf w) ⟨fld w 16 5, fld w 11 5, fld w 5 5, bit w 10, bit w 4⟩)

/-- Fields of the r2 layout (R40, R56 to R62). -/
def decR2 (k : Hdr → R2 → Instr) (w : W32) : Decoded :=
  need ((w &&& 0x0003F0) = 0) .nonzeroField (limited (k (hdrOf w) ⟨fld w 16 5, fld w 11 5, bit w 10⟩))

/-- Fields of the ri10 layout (R40, R56 to R62). -/
def decRi10 (k : Hdr → RI10 → Instr) (w : W32) : Decoded :=
  limited (k (hdrOf w) ⟨fld w 16 5, fld w 11 5, bit w 10, fld w 0 10⟩)

/-- Fields of the ri10s layout (R40, R56 to R62). -/
def decRi10s (k : Hdr → RI10 → Instr) (w : W32) : Decoded :=
  limited (k (hdrOf w) ⟨fld w 16 5, fld w 11 5, bit w 10, fld w 0 10⟩)

/-- Fields of the ri16 layout (R40, R56 to R62). -/
def decRi16 (k : Hdr → RI16 → Instr) (w : W32) : Decoded :=
  limited (k (hdrOf w) ⟨fld w 16 5, fld w 0 16⟩)

/-- Fields of the ri32 layout (R40, R56 to R62). -/
def decRi32 (k : Hdr → RI32 → Instr) (w : W32) (ext : Option W32) : Decoded :=
  need ((w &&& 0x00FFFF) = 0) .nonzeroField (withExt ext fun x => limited (k (hdrOf w) ⟨fld w 16 5, fld x 0 32⟩))

/-- Fields of the br layout (R40, R56 to R62). -/
def decBr (k : Hdr → Br → Instr) (w : W32) : Decoded :=
  limited (k (hdrOf w) ⟨fld w 16 5, fld w 11 5, fld w 0 11⟩)

/-- Fields of the j21 layout (R40, R56 to R62). -/
def decJ21 (k : Hdr → J21 → Instr) (w : W32) : Decoded :=
  limited (k (hdrOf w) ⟨fld w 0 21⟩)

/-- Fields of the lp layout (R40, R56 to R62). -/
def decLp (k : Hdr → Lp → Instr) (w : W32) : Decoded :=
  need ((w &&& 0x003800) = 0) .nonzeroField (limited (k (hdrOf w) ⟨fld w 16 5, fld w 14 2, fld w 0 11⟩))

/-- Fields of the lps layout (R40, R56 to R62). -/
def decLps (k : Hdr → Lps → Instr) (w : W32) : Decoded :=
  limited (k (hdrOf w) ⟨fld w 16 5, fld w 14 2, fld w 11 3, fld w 0 11⟩)

/-- Fields of the lb layout (R40, R56 to R62). -/
def decLb (k : Hdr → Lb → Instr) (w : W32) : Decoded :=
  need ((w &&& 0x1F3FFF) = 0) .nonzeroField (limited (k (hdrOf w) ⟨fld w 14 2⟩))

/-- Fields of the t32 layout (R40, R56 to R62). -/
def decT32 (k : Hdr → T32 → Instr) (w : W32) (ext : Option W32) : Decoded :=
  need ((w &&& 0x1FFFFF) = 0) .nonzeroField (withExt ext fun x => limited (k (hdrOf w) ⟨fld x 0 32⟩))

/-- Fields of the seg layout (R40, R56 to R62). -/
def decSeg (k : Hdr → Seg → Instr) (w : W32) (ext : Option W32) : Decoded :=
  withExt ext fun x => limited (k (hdrOf w) ⟨fld w 16 5, fld w 0 16, fld x 0 32⟩)

/-- Fields of the z layout (R40, R56 to R62). -/
def decZ (k : Hdr → Instr) (w : W32) : Decoded :=
  need ((w &&& 0x1FFFFF) = 0) .nonzeroField (limited (k (hdrOf w)))

/-- Fields of the tk layout (R40, R56 to R62). -/
def decTk (k : Hdr → Tk → Instr) (w : W32) : Decoded :=
  need ((w &&& 0x1FFFF0) = 0) .nonzeroField (limited (k (hdrOf w) ⟨fld w 0 4⟩))

/-- Fields of the bd layout (R40, R56 to R62). -/
def decBd (k : Hdr → Bd → Instr) (w : W32) : Decoded :=
  need ((w &&& 0x00FFC0) = 0) .nonzeroField (limited (k (hdrOf w) ⟨fld w 16 5, fld w 0 6⟩))

/-- Fields of the b0 layout (R40, R56 to R62). -/
def decB0 (k : Hdr → B0 → Instr) (w : W32) : Decoded :=
  need ((w &&& 0x1FFFC0) = 0) .nonzeroField (limited (k (hdrOf w) ⟨fld w 0 6⟩))

/-- Fields of the csr layout (R40, R56 to R62). -/
def decCsr (k : Hdr → Csr → Instr) (w : W32) : Decoded :=
  need ((w &&& 0x00F000) = 0) .nonzeroField (limited (k (hdrOf w) ⟨fld w 16 5, fld w 0 12⟩))

/-- Fields of the i16 layout (R40, R56 to R62). -/
def decI16 (k : Hdr → I16 → Instr) (w : W32) : Decoded :=
  need ((w &&& 0x1F0000) = 0) .nonzeroField (limited (k (hdrOf w) ⟨fld w 0 16⟩))

/-- Fields of the fmt layout (R40, R56 to R62). -/
def decFmt (k : Hdr → Fmt → Instr) (w : W32) (ext : Option W32) : Decoded :=
  need ((w &&& 0x1F000F) = 0) .nonzeroField (withExt ext fun x => limited (k (hdrOf w) ⟨fld w 11 5, fld w 5 5, bit w 10, bit w 4, fld x 0 32⟩))

/-- Fields of the rd layout (R40, R56 to R62). -/
def decRd (k : Hdr → Rd → Instr) (w : W32) : Decoded :=
  need ((w &&& 0x00FFFF) = 0) .nonzeroField (limited (k (hdrOf w) ⟨fld w 16 5⟩))

/-- Fields of the pert layout (R40, R56 to R62). -/
def decPert (k : Hdr → PertF → Instr) (w : W32) : Decoded :=
  need ((w &&& 0x1F000C) = 0) .nonzeroField (limited (k (hdrOf w) ⟨fld w 11 5, fld w 5 5, bit w 10, bit w 4, fld w 0 2⟩))

/-- Fields of the r3w layout (R40, R56 to R62). -/
def decR3w (k : Hdr → R3w → Instr) (w : W32) : Decoded :=
  need ((w &&& 0x00000C) = 0) .nonzeroField (limited (k (hdrOf w) ⟨fld w 16 5, fld w 11 5, fld w 5 5, bit w 10, bit w 4, fld w 0 2⟩))

/-- Fields of the r2w layout (R40, R56 to R62). -/
def decR2w (k : Hdr → R2w → Instr) (w : W32) : Decoded :=
  need ((w &&& 0x0003FC) = 0) .nonzeroField (limited (k (hdrOf w) ⟨fld w 16 5, fld w 11 5, bit w 10, fld w 0 2⟩))

/-- Fields of the atom layout (R40, R56 to R62). -/
def decAtom (k : Hdr → AtomF → Instr) (w : W32) (ext : Option W32) : Decoded :=
  need ((w &&& 0x00000F) = 0) .nonzeroField (withExt ext fun x => need ((x &&& 0xFFFFFC00) = 0) .nonzeroField (limited (k (hdrOf w) ⟨fld w 16 5, fld w 11 5, fld w 5 5, bit w 10, bit w 4, fld x 8 2, fld x 6 2, fld x 4 2⟩)))

/-- Fields of the cas layout (R40, R56 to R62). -/
def decCas (k : Hdr → CasF → Instr) (w : W32) (ext : Option W32) : Decoded :=
  need ((w &&& 0x00000F) = 0) .nonzeroField (withExt ext fun x => need ((x &&& 0xFFFFFC03) = 0) .nonzeroField (limited (k (hdrOf w) ⟨fld w 16 5, fld w 11 5, fld w 5 5, bit w 10, bit w 4, fld x 8 2, fld x 6 2, fld x 4 2, fld x 2 2⟩)))

/-- Fields of the fence layout (R40, R56 to R62). -/
def decFence (k : Hdr → FenceF → Instr) (w : W32) : Decoded :=
  need ((w &&& 0x1FFFF0) = 0) .nonzeroField (limited (k (hdrOf w) ⟨fld w 0 2, fld w 2 2⟩))

/-- Fields of the en layout (R40, R56 to R62). -/
def decEn (k : Hdr → En → Instr) (w : W32) (ext : Option W32) : Decoded :=
  need ((w &&& 0x000007) = 0) .nonzeroField (withExt ext fun x => limited (k (hdrOf w) ⟨fld w 16 5, fld w 11 5, fld w 6 5, fld w 3 3, fld x 0 32⟩))

/-- Fields of the r2t layout (R40, R56 to R62). -/
def decR2t (k : Hdr → R2T → Instr) (w : W32) (ext : Option W32) : Decoded :=
  need ((w &&& 0x0003FF) = 0) .nonzeroField (withExt ext fun x => limited (k (hdrOf w) ⟨fld w 16 5, fld w 11 5, bit w 10, fld x 0 32⟩))

/-- Fields of the r1 layout (R40, R56 to R62). -/
def decR1 (k : Hdr → R1 → Instr) (w : W32) : Decoded :=
  need ((w &&& 0x1F03F0) = 0) .nonzeroField (limited (k (hdrOf w) ⟨fld w 11 5, bit w 10⟩))

/-- Fields of the ra layout (R40, R56 to R62). -/
def decRa (k : Hdr → Ra → Instr) (w : W32) : Decoded :=
  need ((w &&& 0x1F07F0) = 0) .nonzeroField (limited (k (hdrOf w) ⟨fld w 11 5⟩))

/-- Fields of the r2s layout (R40, R56 to R62). -/
def decR2s (k : Hdr → R2s → Instr) (w : W32) : Decoded :=
  need ((w &&& 0x1F000F) = 0) .nonzeroField (limited (k (hdrOf w) ⟨fld w 11 5, fld w 5 5, bit w 10, bit w 4⟩))

/-- Fields of the v3t layout (R40, R56 to R62). -/
def decV3t (k : Hdr → V3t → Instr) (w : W32) : Decoded :=
  limited (k (hdrOf w) ⟨fld w 16 5, fld w 11 5, fld w 6 5, fld w 3 3, bit w 2, bit w 1, bit w 0⟩)

/-- Fields of the v3 layout (R40, R56 to R62). -/
def decV3 (k : Hdr → V3 → Instr) (w : W32) : Decoded :=
  need ((w &&& 0x000001) = 0) .nonzeroField (limited (k (hdrOf w) ⟨fld w 16 5, fld w 11 5, fld w 6 5, fld w 3 3, bit w 2, bit w 1⟩))

/-- Fields of the vut layout (R40, R56 to R62). -/
def decVut (k : Hdr → VUt → Instr) (w : W32) : Decoded :=
  need ((w &&& 0x0007C2) = 0) .nonzeroField (limited (k (hdrOf w) ⟨fld w 16 5, fld w 11 5, fld w 3 3, bit w 2, bit w 0⟩))

/-- Fields of the vu layout (R40, R56 to R62). -/
def decVu (k : Hdr → VU → Instr) (w : W32) : Decoded :=
  need ((w &&& 0x0007C3) = 0) .nonzeroField (limited (k (hdrOf w) ⟨fld w 16 5, fld w 11 5, fld w 3 3, bit w 2⟩))

/-- Fields of the v3x layout (R40, R56 to R62). -/
def decV3x (k : Hdr → V3 → Instr) (w : W32) : Decoded :=
  limited (k (hdrOf w) ⟨fld w 16 5, fld w 11 5, fld w 6 5, fld w 3 3, bit w 2, bit w 1⟩)

/-- Fields of the v3te layout (R40, R56 to R62). -/
def decV3te (k : Hdr → V3t → Instr) (w : W32) : Decoded :=
  limited (k (hdrOf w) ⟨fld w 16 5, fld w 11 5, fld w 6 5, fld w 3 3, bit w 2, bit w 1, bit w 0⟩)

/-- Fields of the v3e layout (R40, R56 to R62). -/
def decV3e (k : Hdr → V3 → Instr) (w : W32) : Decoded :=
  need ((w &&& 0x000001) = 0) .nonzeroField (limited (k (hdrOf w) ⟨fld w 16 5, fld w 11 5, fld w 6 5, fld w 3 3, bit w 2, bit w 1⟩))

/-- Fields of the vcmp layout (R40, R56 to R62). -/
def decVcmp (k : Hdr → VCmp → Instr) (w : W32) : Decoded :=
  limited (k (hdrOf w) ⟨fld w 18 3, fld w 16 2, fld w 11 5, fld w 6 5, fld w 3 3, bit w 2, bit w 1, bit w 0⟩)

/-- Fields of the vc layout (R40, R56 to R62). -/
def decVc (k : Hdr → Vc → Instr) (w : W32) : Decoded :=
  limited (k (hdrOf w) ⟨fld w 16 5, fld w 11 5, bit w 10, fld w 6 4, fld w 2 4, fld w 0 2⟩)

/-- Fields of the vi layout (R40, R56 to R62). -/
def decVi (k : Hdr → VI → Instr) (w : W32) : Decoded :=
  need ((w &&& 0x00FFC7) = 0) .nonzeroField (limited (k (hdrOf w) ⟨fld w 16 5, fld w 3 3⟩))

/-- Fields of the vmov layout (R40, R56 to R62). -/
def decVmov (k : Hdr → VMov → Instr) (w : W32) : Decoded :=
  need ((w &&& 0x000039) = 0) .nonzeroField (limited (k (hdrOf w) ⟨fld w 16 5, fld w 11 5, fld w 6 5, bit w 2, bit w 1⟩))

/-- Fields of the vr layout (R40, R56 to R62). -/
def decVr (k : Hdr → Vr → Instr) (w : W32) : Decoded :=
  need ((w &&& 0x00003F) = 0) .nonzeroField (limited (k (hdrOf w) ⟨fld w 16 5, fld w 11 5, fld w 6 5⟩))

/-- Fields of the vx layout (R40, R56 to R62). -/
def decVx (k : Hdr → Vx → Instr) (w : W32) : Decoded :=
  limited (k (hdrOf w) ⟨fld w 16 5, fld w 11 5, fld w 6 5, fld w 3 3, fld w 0 3⟩)

/-- Fields of the p3 layout (R40, R56 to R62). -/
def decP3 (k : Hdr → P3 → Instr) (w : W32) : Decoded :=
  need ((w &&& 0x18C63F) = 0) .nonzeroField (limited (k (hdrOf w) ⟨fld w 16 3, fld w 11 3, fld w 6 3⟩))

/-- Fields of the p2 layout (R40, R56 to R62). -/
def decP2 (k : Hdr → P2 → Instr) (w : W32) : Decoded :=
  need ((w &&& 0x18C7FF) = 0) .nonzeroField (limited (k (hdrOf w) ⟨fld w 16 3, fld w 11 3⟩))

/-- Fields of the pc layout (R40, R56 to R62). -/
def decPc (k : Hdr → Pc → Instr) (w : W32) : Decoded :=
  need ((w &&& 0x00C7C7) = 0) .nonzeroField (limited (k (hdrOf w) ⟨fld w 16 5, fld w 11 3, fld w 3 3⟩))

/-- Fields of the ps layout (R40, R56 to R62). -/
def decPs (k : Hdr → Ps → Instr) (w : W32) : Decoded :=
  need ((w &&& 0x1807FB) = 0) .nonzeroField (limited (k (hdrOf w) ⟨fld w 16 3, fld w 11 5, bit w 2⟩))

/-- Fields of the mx layout (R40, R56 to R62). -/
def decMx (k : Hdr → Mx → Instr) (w : W32) : Decoded :=
  need ((w &&& 0x187FFF) = 0) .nonzeroField (limited (k (hdrOf w) ⟨fld w 15 4⟩))

/-- Fields of the mo layout (R40, R56 to R62). -/
def decMo (k : Hdr → Mo → Instr) (w : W32) (ext : Option W32) : Decoded :=
  need ((w &&& 0x187807) = 0) .nonzeroField (withExt ext fun x => need ((x &&& 0x0000FC00) = 0) .nonzeroField (limited (k (hdrOf w) ⟨fld w 15 4, fld w 6 5, fld w 3 3, fld x 16 16, fld x 0 10⟩)))

/-- Fields of the ms layout (R40, R56 to R62). -/
def decMs (k : Hdr → Ms → Instr) (w : W32) (ext : Option W32) : Decoded :=
  need ((w &&& 0x187807) = 0) .nonzeroField (withExt ext fun x => limited (k (hdrOf w) ⟨fld w 15 4, fld w 6 5, fld w 3 3, fld x 0 32⟩))

/-- Fields of the mm layout (R40, R56 to R62). -/
def decMm (k : Hdr → Mm → Instr) (w : W32) (ext : Option W32) : Decoded :=
  need ((w &&& 0x0007C7) = 0) .nonzeroField (withExt ext fun x => limited (k (hdrOf w) ⟨fld w 19 2, fld w 15 4, fld w 11 4, fld w 3 3, fld x 0 32⟩))

/-- Fields of the md layout (R40, R56 to R62). -/
def decMd (k : Hdr → Md → Instr) (w : W32) : Decoded :=
  need ((w &&& 0x07F807) = 0) .nonzeroField (limited (k (hdrOf w) ⟨fld w 19 2, fld w 6 5, fld w 3 3⟩))

/-- Fields of the mz layout (R40, R56 to R62). -/
def decMz (k : Hdr → Mz → Instr) (w : W32) : Decoded :=
  need ((w &&& 0x07FFFF) = 0) .nonzeroField (limited (k (hdrOf w) ⟨fld w 19 2⟩))

/-- Fields of the mg layout (R40, R56 to R62). -/
def decMg (k : Hdr → Mg → Instr) (w : W32) : Decoded :=
  need ((w &&& 0x1FF83F) = 0) .nonzeroField (limited (k (hdrOf w) ⟨fld w 6 5⟩))

/-- Fields of the mzg layout (R40, R56 to R62). -/
def decMzg (k : Hdr → Mzg → Instr) (w : W32) : Decoded :=
  need ((w &&& 0x07F83F) = 0) .nonzeroField (limited (k (hdrOf w) ⟨fld w 19 2, fld w 6 5⟩))

/-- Fields of the mmo layout (R40, R56 to R62). -/
def decMmo (k : Hdr → Mmo → Instr) (w : W32) : Decoded :=
  need ((w &&& 0x1FFFF8) = 0) .nonzeroField (limited (k (hdrOf w) ⟨fld w 0 3⟩))

/-- The shared space (R54). -/
def decodeShared (w : W32) (ext : Option W32) : Decoded :=
  match opOf w with
  | 0x00 => match (fld w 0 4).toNat with
    | 0 => decR3 .add w
    | 1 => decR3 .sub w
    | 2 => decR3 .and w
    | 3 => decR3 .or w
    | 4 => decR3 .xor w
    | 5 => decR3 .shl w
    | 6 => decR3 .shr w
    | 7 => decR3 .sar w
    | 8 => decR3 .min w
    | 9 => decR3 .max w
    | 10 => decR3 .minn w
    | 11 => decR3 .maxn w
    | 12 => decR3 .slt w
    | 13 => decR3 .sltn w
    | 14 => decR3 .seq w
    | 15 => decR3 .sel w
    | _ => .error .reservedCell
  | 0x01 => match (fld w 0 4).toNat with
    | 0 => decR3 .mul w
    | 1 => decR3 .mulh w
    | 2 => decR3 .mulhn w
    | 3 => decR3 .div w
    | 4 => decR3 .divn w
    | 5 => decR3 .rem w
    | _ => .error .reservedCell
  | 0x02 => match (fld w 0 4).toNat with
    | 0 => decR2 .clz w
    | 1 => decR2 .popc w
    | _ => .error .reservedCell
  | 0x03 => match (fld w 0 4).toNat with
    | 0 => decR3 .lea w
    | 1 => decR3 .pmake w
    | 2 => decR2 .pspace w
    | 3 => decR2 .prank w
    | _ => .error .reservedCell
  | 0x08 => decRi10 .addi w
  | 0x09 => decRi10 .andi w
  | 0x0a => decRi10 .ori w
  | 0x0b => decRi10 .xori w
  | 0x0c => decRi10s .shli w
  | 0x0d => decRi10s .shri w
  | 0x0e => decRi10s .sari w
  | 0x0f => decRi10 .slti w
  | 0x10 => decRi16 .li w
  | 0x11 => decRi32 .lih w ext
  | 0x12 => decRi32 .lil w ext
  | 0x18 => decBr .beq w
  | 0x19 => decBr .bne w
  | 0x1a => decBr .blt w
  | 0x1b => decBr .bge w
  | 0x1c => decBr .bltn w
  | 0x1d => decBr .bgen w
  | 0x1e => decJ21 .jmp w
  | 0x1f => decRi16 .jal w
  | 0x20 => decRi10 .jr w
  | 0x21 => decLp .loop w
  | 0x22 => decLps .loops w
  | 0x23 => decLb .lbrk w
  | 0x28 => decRi16 .wait w
  | 0x29 => decT32 .waitg w ext
  | 0x2a => decT32 .align w ext
  | 0x2b => decSeg .segb w ext
  | 0x2c => decZ .sege w
  | 0x2d => decZ .tsm w
  | 0x2e => decZ .opb w
  | 0x30 => decTk .tks w
  | 0x31 => decTk .tkw w
  | 0x32 => decBd .bini w
  | 0x33 => decB0 .barv w
  | 0x34 => decBd .bexp w
  | 0x35 => decB0 .bwt w
  | 0x36 => decBd .bph w
  | 0x38 => decCsr .csrr w
  | 0x39 => decCsr .csrw w
  | 0x3a => decCsr .csrs w
  | 0x3b => decCsr .csrc w
  | 0x3c => decI16 .trap w
  | 0x3d => decZ .rett w
  | 0x3e => decZ .halt w
  | _ => .error .reservedCell

/-- The C-private space (R57). -/
def decodeC (w : W32) (ext : Option W32) : Decoded :=
  match opOf w with
  | 0x00 => decFmt .fmt w ext
  | 0x01 => decRd .fmtq w
  | 0x02 => decZ .ctxsw w
  | 0x03 => decZ .yield w
  | 0x04 => decZ .sleep w
  | 0x05 => decPert .pert w
  | _ => .error .reservedCell

/-- A word whose fn is unused and so must be zero (R42, R58). -/
def noFn (w : W32) (r : Decoded) : Decoded := need ((w &&& 0x00000F) = 0) .nonzeroField r

/-- The A-private space (R58). -/
def decodeA (w : W32) (ext : Option W32) : Decoded :=
  match opOf w with
  | 0x00 => decRi10 .ldB w
  | 0x01 => decRi10 .ldH w
  | 0x02 => decRi10 .ldW w
  | 0x03 => decRi10 .ldD w
  | 0x04 => decRi10 .ldBn w
  | 0x05 => decRi10 .ldHn w
  | 0x06 => decRi10 .ldWn w
  | 0x08 => decRi10 .stB w
  | 0x09 => decRi10 .stH w
  | 0x0a => decRi10 .stW w
  | 0x0b => decRi10 .stD w
  | 0x10 => decRi10 .vld w
  | 0x11 => decRi10 .vst w
  | 0x12 => decR3w .vlds w
  | 0x13 => decR3w .vsts w
  | 0x14 => decR2w .vldb w
  | 0x18 => withExt ext fun x => match (fld x 0 4).toNat with
    | 0 => decAtom .atomAdd w ext
    | 1 => decAtom .atomAnd w ext
    | 2 => decAtom .atomOr w ext
    | 3 => decAtom .atomXor w ext
    | 4 => decAtom .atomMin w ext
    | 5 => decAtom .atomMax w ext
    | 6 => decAtom .atomMinn w ext
    | 7 => decAtom .atomMaxn w ext
    | 8 => decAtom .atomSwap w ext
    | _ => .error .outOfLimits
  | 0x19 => decCas .cas w ext
  | 0x1a => decFence .fence w
  | 0x1b => decZ .mark w
  | 0x20 => decEn .copy w ext
  | 0x21 => decEn .copyt w ext
  | 0x22 => decEn .copyk w ext
  | 0x28 => decR2t .strmOpen w ext
  | 0x29 => noFn w (decR2 .strmChk w)
  | 0x2a => noFn w (decR2 .strmStat w)
  | 0x2b => noFn w (decR1 .strmClose w)
  | 0x30 => noFn w (decR3 .mbxs w)
  | 0x31 => noFn w (decR3 .mbxr w)
  | 0x32 => noFn w (decR2 .mbxq w)
  | 0x38 => match (fld w 0 4).toNat with
    | 0 => decR1 .tlbiPage w
    | 1 => decRa .tlbiVf w
    | _ => .error .reservedCell
  | 0x39 => decR2s .pref w
  | 0x3a => decR2t .stepPod w ext
  | _ => .error .reservedCell

/-- The V-private space (R59). -/
def decodeV (w : W32) : Decoded :=
  match opOf w with
  | 0x00 => decV3t .vaddI8 w
  | 0x01 => decV3t .vaddI16 w
  | 0x02 => decV3t .vaddI32 w
  | 0x05 => decV3 .vaddBf16 w
  | 0x06 => decV3 .vaddF32 w
  | 0x08 => decV3t .vsubI8 w
  | 0x09 => decV3t .vsubI16 w
  | 0x0a => decV3t .vsubI32 w
  | 0x0d => decV3 .vsubBf16 w
  | 0x0e => decV3 .vsubF32 w
  | 0x10 => decV3t .vmulI8 w
  | 0x11 => decV3t .vmulI16 w
  | 0x12 => decV3t .vmulI32 w
  | 0x15 => decV3 .vmulBf16 w
  | 0x16 => decV3 .vmulF32 w
  | 0x18 => decV3t .vminI8 w
  | 0x19 => decV3t .vminI16 w
  | 0x1a => decV3t .vminI32 w
  | 0x1d => decV3 .vminBf16 w
  | 0x1e => decV3 .vminF32 w
  | 0x20 => decV3t .vmaxI8 w
  | 0x21 => decV3t .vmaxI16 w
  | 0x22 => decV3t .vmaxI32 w
  | 0x25 => decV3 .vmaxBf16 w
  | 0x26 => decV3 .vmaxF32 w
  | 0x28 => decVut .vabsI8 w
  | 0x29 => decVut .vabsI16 w
  | 0x2a => decVut .vabsI32 w
  | 0x2d => decVu .vabsBf16 w
  | 0x2e => decVu .vabsF32 w
  | 0x30 => decVut .vnegI8 w
  | 0x31 => decVut .vnegI16 w
  | 0x32 => decVut .vnegI32 w
  | 0x35 => decVu .vnegBf16 w
  | 0x36 => decVu .vnegF32 w
  | 0x38 => if bit w 0 then decV3x .vnfmaBf16 w else decV3x .vfmaBf16 w
  | 0x39 => if bit w 0 then decV3x .vnfmaF32 w else decV3x .vfmaF32 w
  | 0x3a => decV3 .vfmsBf16 w
  | 0x3b => decV3 .vfmsF32 w
  | 0x3c => decV3te .vwmulI8 w
  | 0x3d => decV3te .vwmulI16 w
  | 0x3e => decV3e .vwmulBf16 w
  | 0x3f => decV3t .vdot4I8 w
  | 0x40 => decV3 .vandI8 w
  | 0x41 => decV3 .vandI32 w
  | 0x42 => decV3 .vorI8 w
  | 0x43 => decV3 .vorI32 w
  | 0x44 => decV3 .vxorI8 w
  | 0x45 => decV3 .vxorI32 w
  | 0x46 => decVu .vnotI8 w
  | 0x47 => decVu .vnotI32 w
  | 0x48 => decV3 .vshlI8 w
  | 0x49 => decV3 .vshlI16 w
  | 0x4a => decV3 .vshlI32 w
  | 0x4b => decV3 .vshrI8 w
  | 0x4c => decV3 .vshrI16 w
  | 0x4d => decV3 .vshrI32 w
  | 0x4e => decV3 .vsarI8 w
  | 0x4f => decV3 .vsarI16 w
  | 0x50 => decV3 .vsarI32 w
  | 0x51 => decVcmp .vcmpI8 w
  | 0x52 => decVcmp .vcmpI16 w
  | 0x53 => decVcmp .vcmpI32 w
  | 0x54 => decVcmp .vcmpF8 w
  | 0x55 => decVcmp .vcmpBf16 w
  | 0x56 => decVcmp .vcmpF32 w
  | 0x57 => decV3 .vselI8 w
  | 0x58 => decV3 .vselI16 w
  | 0x59 => decV3 .vselI32 w
  | 0x5a => decVc .vcvt w
  | 0x5b => decVu .vexp2 w
  | 0x5c => decVu .vlog2 w
  | 0x5d => decVu .vrcp w
  | 0x5e => decVu .vrsq w
  | 0x5f => decVu .vtanh w
  | 0x60 => decVu .vredsI32 w
  | 0x61 => decVu .vredsF32 w
  | 0x62 => decVut .vredmI16 w
  | 0x63 => decVut .vredmI32 w
  | 0x64 => decVut .vredmBf16 w
  | 0x65 => decVut .vredmF32 w
  | 0x66 => decVu .vscanI32 w
  | 0x67 => decVu .vscanF32 w
  | 0x68 => decV3 .vpermI8 w
  | 0x69 => decV3 .vpermI16 w
  | 0x6a => decV3 .vpermI32 w
  | 0x6b => decV3 .vslideI8 w
  | 0x6c => decV3 .vslideI32 w
  | 0x6d => decVu .vbcastI8 w
  | 0x6e => decVu .vbcastI16 w
  | 0x6f => decVu .vbcastI32 w
  | 0x70 => decVi .vidx w
  | 0x71 => decVmov .vmovsv w
  | 0x72 => decVmov .vmovvs w
  | 0x73 => decVr .vrb w
  | 0x74 => decZ .rot w
  | 0x75 => decVx .vgath w
  | 0x76 => decVx .vscat w
  | 0x77 => decVx .vscataF32 w
  | 0x78 => decP3 .pand w
  | 0x79 => decP3 .por w
  | 0x7a => decP3 .pxor w
  | 0x7b => decP2 .pnot w
  | 0x7c => decPc .pcnt w
  | 0x7d => decPc .pff w
  | 0x7e => decPs .pset w
  | 0x7f => decVx .vscataI32 w
  | _ => .error .reservedCell

/-- The M-private space (R62). -/
def decodeM (w : W32) (ext : Option W32) : Decoded :=
  match opOf w with
  | 0x00 => decMx .oclaim w
  | 0x01 => decMx .orel w
  | 0x02 => decMo .oload w ext
  | 0x03 => decMs .oloadS w ext
  | 0x08 => decMm .mma w ext
  | 0x09 => decMm .mmap w ext
  | 0x0a => decMm .mmapt w ext
  | 0x0b => decMd .mdrain w
  | 0x0c => decMz .mzero w
  | 0x10 => decMg .mstat w
  | 0x11 => decMzg .mres w
  | 0x12 => decMmo .mmode w
  | _ => .error .reservedCell

/-- The instruction that a word and the word after it are in a strand (R37, R38, R44). -/
def decode (st : StrandId) (w : W32) (ext : Option W32) : Decoded :=
  if bit w 31 then
    match st with
    | .C => decodeC w ext
    | .A => decodeA w ext
    | .V => decodeV w
    | .M => decodeM w ext
  else decodeShared w ext

/-- Whether a word takes an extension word in a strand (R44, the L cells of R54 to R62). -/
def isLong (st : StrandId) (w : W32) : Bool :=
  if bit w 31 then
    match st with
    | .C => opOf w = 0x00
    | .A => [0x18, 0x19, 0x20, 0x21, 0x22, 0x28, 0x3a].contains (opOf w)
    | .V => false
    | .M => [0x02, 0x03, 0x08, 0x09, 0x0a].contains (opOf w)
  else [0x11, 0x12, 0x29, 0x2a, 0x2b].contains (opOf w)

/-- The word held by four bytes, the first at the lowest address (R9). -/
def wordOfBytes (b0 b1 b2 b3 : Byte) : W32 := b3 ++ b2 ++ b1 ++ b0

/-- Decoding from the bytes of an image: the instruction and the bytes after it. -/
def decodeBytes (st : StrandId) : List Byte → Except DecodeError (Instr × List Byte)
  | b0 :: b1 :: b2 :: b3 :: rest =>
    let w := wordOfBytes b0 b1 b2 b3
    if isLong st w then
      match rest with
      | c0 :: c1 :: c2 :: c3 :: rest' => (decode st w (some (wordOfBytes c0 c1 c2 c3))).map fun i => (i, rest')
      | _ => .error .noExtension
    else (decode st w none).map fun i => (i, rest)
  | _ => .error .noExtension

/-! ## The encoder -/

/-- A word from its four fields (R37). -/
def wordOf (p : BitVec 1) (h : Hdr) (op : BitVec 7) (body : BitVec 21) : W32 :=
  p ++ BitVec.ofBool h.s ++ h.i ++ op ++ body

/-- The words of the r3 layout (R40, R44, R56 to R62). -/
def encR3 (p : BitVec 1) (op : BitVec 7) (fn : BitVec 4) (h : Hdr) (f : R3) : List W32 :=
  [wordOf p h op (f.d ++ f.a ++ BitVec.ofBool f.la ++ f.b ++ BitVec.ofBool f.lb ++ fn)]

/-- The words of the r2 layout (R40, R44, R56 to R62). -/
def encR2 (p : BitVec 1) (op : BitVec 7) (fn : BitVec 4) (h : Hdr) (f : R2) : List W32 :=
  [wordOf p h op (f.d ++ f.a ++ BitVec.ofBool f.la ++ 0#6 ++ fn)]

/-- The words of the ri10 layout (R40, R44, R56 to R62). -/
def encRi10 (p : BitVec 1) (op : BitVec 7) (h : Hdr) (f : RI10) : List W32 :=
  [wordOf p h op (f.d ++ f.a ++ BitVec.ofBool f.la ++ f.imm)]

/-- The words of the ri16 layout (R40, R44, R56 to R62). -/
def encRi16 (p : BitVec 1) (op : BitVec 7) (h : Hdr) (f : RI16) : List W32 :=
  [wordOf p h op (f.d ++ f.imm)]

/-- The words of the ri32 layout (R40, R44, R56 to R62). -/
def encRi32 (p : BitVec 1) (op : BitVec 7) (h : Hdr) (f : RI32) : List W32 :=
  [wordOf p h op (f.d ++ 0#16), f.imm]

/-- The words of the br layout (R40, R44, R56 to R62). -/
def encBr (p : BitVec 1) (op : BitVec 7) (h : Hdr) (f : Br) : List W32 :=
  [wordOf p h op (f.a ++ f.b ++ f.off)]

/-- The words of the j21 layout (R40, R44, R56 to R62). -/
def encJ21 (p : BitVec 1) (op : BitVec 7) (h : Hdr) (f : J21) : List W32 :=
  [wordOf p h op (f.off)]

/-- The words of the lp layout (R40, R44, R56 to R62). -/
def encLp (p : BitVec 1) (op : BitVec 7) (h : Hdr) (f : Lp) : List W32 :=
  [wordOf p h op (f.d ++ f.lc ++ 0#3 ++ f.last)]

/-- The words of the lps layout (R40, R44, R56 to R62). -/
def encLps (p : BitVec 1) (op : BitVec 7) (h : Hdr) (f : Lps) : List W32 :=
  [wordOf p h op (f.d ++ f.lc ++ f.stages ++ f.last)]

/-- The words of the lb layout (R40, R44, R56 to R62). -/
def encLb (p : BitVec 1) (op : BitVec 7) (h : Hdr) (f : Lb) : List W32 :=
  [wordOf p h op (0#5 ++ f.lc ++ 0#14)]

/-- The words of the t32 layout (R40, R44, R56 to R62). -/
def encT32 (p : BitVec 1) (op : BitVec 7) (h : Hdr) (f : T32) : List W32 :=
  [wordOf p h op 0, f.t]

/-- The words of the seg layout (R40, R44, R56 to R62). -/
def encSeg (p : BitVec 1) (op : BitVec 7) (h : Hdr) (f : Seg) : List W32 :=
  [wordOf p h op (f.reserve ++ f.count), f.sig]

/-- The words of the z layout (R40, R44, R56 to R62). -/
def encZ (p : BitVec 1) (op : BitVec 7) (h : Hdr) : List W32 :=
  [wordOf p h op 0]

/-- The words of the tk layout (R40, R44, R56 to R62). -/
def encTk (p : BitVec 1) (op : BitVec 7) (h : Hdr) (f : Tk) : List W32 :=
  [wordOf p h op (0#17 ++ f.t)]

/-- The words of the bd layout (R40, R44, R56 to R62). -/
def encBd (p : BitVec 1) (op : BitVec 7) (h : Hdr) (f : Bd) : List W32 :=
  [wordOf p h op (f.d ++ 0#10 ++ f.b)]

/-- The words of the b0 layout (R40, R44, R56 to R62). -/
def encB0 (p : BitVec 1) (op : BitVec 7) (h : Hdr) (f : B0) : List W32 :=
  [wordOf p h op (0#15 ++ f.b)]

/-- The words of the csr layout (R40, R44, R56 to R62). -/
def encCsr (p : BitVec 1) (op : BitVec 7) (h : Hdr) (f : Csr) : List W32 :=
  [wordOf p h op (f.d ++ 0#4 ++ f.n)]

/-- The words of the i16 layout (R40, R44, R56 to R62). -/
def encI16 (p : BitVec 1) (op : BitVec 7) (h : Hdr) (f : I16) : List W32 :=
  [wordOf p h op (0#5 ++ f.imm)]

/-- The words of the fmt layout (R40, R44, R56 to R62). -/
def encFmt (p : BitVec 1) (op : BitVec 7) (h : Hdr) (f : Fmt) : List W32 :=
  [wordOf p h op (0#5 ++ f.a ++ BitVec.ofBool f.la ++ f.b ++ BitVec.ofBool f.lb ++ 0#4), f.imm]

/-- The words of the rd layout (R40, R44, R56 to R62). -/
def encRd (p : BitVec 1) (op : BitVec 7) (h : Hdr) (f : Rd) : List W32 :=
  [wordOf p h op (f.d ++ 0#16)]

/-- The words of the pert layout (R40, R44, R56 to R62). -/
def encPert (p : BitVec 1) (op : BitVec 7) (h : Hdr) (f : PertF) : List W32 :=
  [wordOf p h op (0#5 ++ f.a ++ BitVec.ofBool f.la ++ f.b ++ BitVec.ofBool f.lb ++ 0#2 ++ f.x)]

/-- The words of the r3w layout (R40, R44, R56 to R62). -/
def encR3w (p : BitVec 1) (op : BitVec 7) (h : Hdr) (f : R3w) : List W32 :=
  [wordOf p h op (f.d ++ f.a ++ BitVec.ofBool f.la ++ f.b ++ BitVec.ofBool f.lb ++ 0#2 ++ f.w)]

/-- The words of the r2w layout (R40, R44, R56 to R62). -/
def encR2w (p : BitVec 1) (op : BitVec 7) (h : Hdr) (f : R2w) : List W32 :=
  [wordOf p h op (f.d ++ f.a ++ BitVec.ofBool f.la ++ 0#8 ++ f.w)]

/-- The words of the atom layout (R40, R44, R56 to R62). -/
def encAtom (p : BitVec 1) (op : BitVec 7) (fn : BitVec 4) (h : Hdr) (f : AtomF) : List W32 :=
  [wordOf p h op (f.d ++ f.a ++ BitVec.ofBool f.la ++ f.b ++ BitVec.ofBool f.lb ++ 0#4), 0#22 ++ f.wide ++ f.scope ++ f.order ++ fn]

/-- The words of the cas layout (R40, R44, R56 to R62). -/
def encCas (p : BitVec 1) (op : BitVec 7) (h : Hdr) (f : CasF) : List W32 :=
  [wordOf p h op (f.d ++ f.a ++ BitVec.ofBool f.la ++ f.b ++ BitVec.ofBool f.lb ++ 0#4), 0#22 ++ f.wide ++ f.scope ++ f.order ++ f.forder ++ 0#2]

/-- The words of the fence layout (R40, R44, R56 to R62). -/
def encFence (p : BitVec 1) (op : BitVec 7) (h : Hdr) (f : FenceF) : List W32 :=
  [wordOf p h op (0#17 ++ f.scope ++ f.order)]

/-- The words of the en layout (R40, R44, R56 to R62). -/
def encEn (p : BitVec 1) (op : BitVec 7) (h : Hdr) (f : En) : List W32 :=
  [wordOf p h op (f.d ++ f.a ++ f.b ++ f.k ++ 0#3), f.stamp]

/-- The words of the r2t layout (R40, R44, R56 to R62). -/
def encR2t (p : BitVec 1) (op : BitVec 7) (h : Hdr) (f : R2T) : List W32 :=
  [wordOf p h op (f.d ++ f.a ++ BitVec.ofBool f.la ++ 0#10), f.stamp]

/-- The words of the r1 layout (R40, R44, R56 to R62). -/
def encR1 (p : BitVec 1) (op : BitVec 7) (fn : BitVec 4) (h : Hdr) (f : R1) : List W32 :=
  [wordOf p h op (0#5 ++ f.a ++ BitVec.ofBool f.la ++ 0#6 ++ fn)]

/-- The words of the ra layout (R40, R44, R56 to R62). -/
def encRa (p : BitVec 1) (op : BitVec 7) (fn : BitVec 4) (h : Hdr) (f : Ra) : List W32 :=
  [wordOf p h op (0#5 ++ f.a ++ 0#7 ++ fn)]

/-- The words of the r2s layout (R40, R44, R56 to R62). -/
def encR2s (p : BitVec 1) (op : BitVec 7) (h : Hdr) (f : R2s) : List W32 :=
  [wordOf p h op (0#5 ++ f.a ++ BitVec.ofBool f.la ++ f.b ++ BitVec.ofBool f.lb ++ 0#4)]

/-- The words of the v3t layout (R40, R44, R56 to R62). -/
def encV3t (p : BitVec 1) (op : BitVec 7) (h : Hdr) (f : V3t) : List W32 :=
  [wordOf p h op (f.vd ++ f.va ++ f.vb ++ f.pg ++ BitVec.ofBool f.la ++ BitVec.ofBool f.lb ++ BitVec.ofBool f.t)]

/-- The words of the v3 layout (R40, R44, R56 to R62). -/
def encV3 (p : BitVec 1) (op : BitVec 7) (h : Hdr) (f : V3) : List W32 :=
  [wordOf p h op (f.vd ++ f.va ++ f.vb ++ f.pg ++ BitVec.ofBool f.la ++ BitVec.ofBool f.lb ++ 0#1)]

/-- The words of the vut layout (R40, R44, R56 to R62). -/
def encVut (p : BitVec 1) (op : BitVec 7) (h : Hdr) (f : VUt) : List W32 :=
  [wordOf p h op (f.vd ++ f.va ++ 0#5 ++ f.pg ++ BitVec.ofBool f.la ++ 0#1 ++ BitVec.ofBool f.t)]

/-- The words of the vu layout (R40, R44, R56 to R62). -/
def encVu (p : BitVec 1) (op : BitVec 7) (h : Hdr) (f : VU) : List W32 :=
  [wordOf p h op (f.vd ++ f.va ++ 0#5 ++ f.pg ++ BitVec.ofBool f.la ++ 0#2)]

/-- The words of the v3x layout (R40, R44, R56 to R62). -/
def encV3x (p : BitVec 1) (op : BitVec 7) (fn : BitVec 1) (h : Hdr) (f : V3) : List W32 :=
  [wordOf p h op (f.vd ++ f.va ++ f.vb ++ f.pg ++ BitVec.ofBool f.la ++ BitVec.ofBool f.lb ++ fn)]

/-- The words of the vcmp layout (R40, R44, R56 to R62). -/
def encVcmp (p : BitVec 1) (op : BitVec 7) (h : Hdr) (f : VCmp) : List W32 :=
  [wordOf p h op (f.pd ++ f.cond ++ f.va ++ f.vb ++ f.pg ++ BitVec.ofBool f.la ++ BitVec.ofBool f.lb ++ BitVec.ofBool f.t)]

/-- The words of the vc layout (R40, R44, R56 to R62). -/
def encVc (p : BitVec 1) (op : BitVec 7) (h : Hdr) (f : Vc) : List W32 :=
  [wordOf p h op (f.vd ++ f.va ++ BitVec.ofBool f.la ++ f.src ++ f.dst ++ f.rm)]

/-- The words of the vi layout (R40, R44, R56 to R62). -/
def encVi (p : BitVec 1) (op : BitVec 7) (h : Hdr) (f : VI) : List W32 :=
  [wordOf p h op (f.vd ++ 0#10 ++ f.pg ++ 0#3)]

/-- The words of the vmov layout (R40, R44, R56 to R62). -/
def encVmov (p : BitVec 1) (op : BitVec 7) (h : Hdr) (f : VMov) : List W32 :=
  [wordOf p h op (f.vd ++ f.va ++ f.vb ++ 0#3 ++ BitVec.ofBool f.la ++ BitVec.ofBool f.lb ++ 0#1)]

/-- The words of the vr layout (R40, R44, R56 to R62). -/
def encVr (p : BitVec 1) (op : BitVec 7) (h : Hdr) (f : Vr) : List W32 :=
  [wordOf p h op (f.vd ++ f.a ++ f.b ++ 0#6)]

/-- The words of the vx layout (R40, R44, R56 to R62). -/
def encVx (p : BitVec 1) (op : BitVec 7) (h : Hdr) (f : Vx) : List W32 :=
  [wordOf p h op (f.vd ++ f.a ++ f.vb ++ f.pg ++ f.k)]

/-- The words of the p3 layout (R40, R44, R56 to R62). -/
def encP3 (p : BitVec 1) (op : BitVec 7) (h : Hdr) (f : P3) : List W32 :=
  [wordOf p h op (0#2 ++ f.pd ++ 0#2 ++ f.pa ++ 0#2 ++ f.pb ++ 0#6)]

/-- The words of the p2 layout (R40, R44, R56 to R62). -/
def encP2 (p : BitVec 1) (op : BitVec 7) (h : Hdr) (f : P2) : List W32 :=
  [wordOf p h op (0#2 ++ f.pd ++ 0#2 ++ f.pa ++ 0#11)]

/-- The words of the pc layout (R40, R44, R56 to R62). -/
def encPc (p : BitVec 1) (op : BitVec 7) (h : Hdr) (f : Pc) : List W32 :=
  [wordOf p h op (f.d ++ 0#2 ++ f.pa ++ 0#5 ++ f.pg ++ 0#3)]

/-- The words of the ps layout (R40, R44, R56 to R62). -/
def encPs (p : BitVec 1) (op : BitVec 7) (h : Hdr) (f : Ps) : List W32 :=
  [wordOf p h op (0#2 ++ f.pd ++ f.a ++ 0#8 ++ BitVec.ofBool f.la ++ 0#2)]

/-- The words of the mx layout (R40, R44, R56 to R62). -/
def encMx (p : BitVec 1) (op : BitVec 7) (h : Hdr) (f : Mx) : List W32 :=
  [wordOf p h op (0#2 ++ f.x ++ 0#15)]

/-- The words of the mo layout (R40, R44, R56 to R62). -/
def encMo (p : BitVec 1) (op : BitVec 7) (h : Hdr) (f : Mo) : List W32 :=
  [wordOf p h op (0#2 ++ f.x ++ 0#4 ++ f.g ++ f.k ++ 0#3), f.tag ++ 0#6 ++ f.len]

/-- The words of the ms layout (R40, R44, R56 to R62). -/
def encMs (p : BitVec 1) (op : BitVec 7) (h : Hdr) (f : Ms) : List W32 :=
  [wordOf p h op (0#2 ++ f.x ++ 0#4 ++ f.g ++ f.k ++ 0#3), f.stamp]

/-- The words of the mm layout (R40, R44, R56 to R62). -/
def encMm (p : BitVec 1) (op : BitVec 7) (h : Hdr) (f : Mm) : List W32 :=
  [wordOf p h op (f.z ++ f.x ++ f.y ++ 0#5 ++ f.k ++ 0#3), f.stamp]

/-- The words of the md layout (R40, R44, R56 to R62). -/
def encMd (p : BitVec 1) (op : BitVec 7) (h : Hdr) (f : Md) : List W32 :=
  [wordOf p h op (f.z ++ 0#8 ++ f.g ++ f.k ++ 0#3)]

/-- The words of the mz layout (R40, R44, R56 to R62). -/
def encMz (p : BitVec 1) (op : BitVec 7) (h : Hdr) (f : Mz) : List W32 :=
  [wordOf p h op (f.z ++ 0#19)]

/-- The words of the mg layout (R40, R44, R56 to R62). -/
def encMg (p : BitVec 1) (op : BitVec 7) (h : Hdr) (f : Mg) : List W32 :=
  [wordOf p h op (0#10 ++ f.g ++ 0#6)]

/-- The words of the mzg layout (R40, R44, R56 to R62). -/
def encMzg (p : BitVec 1) (op : BitVec 7) (h : Hdr) (f : Mzg) : List W32 :=
  [wordOf p h op (f.z ++ 0#8 ++ f.g ++ 0#6)]

/-- The words of the mmo layout (R40, R44, R56 to R62). -/
def encMmo (p : BitVec 1) (op : BitVec 7) (h : Hdr) (f : Mmo) : List W32 :=
  [wordOf p h op (0#18 ++ f.mode)]

/-- The words of an instruction; an event has none. -/
def encode : Instr → List W32
  | .add h f => encR3 0 0x00 0 h f
  | .sub h f => encR3 0 0x00 1 h f
  | .and h f => encR3 0 0x00 2 h f
  | .or h f => encR3 0 0x00 3 h f
  | .xor h f => encR3 0 0x00 4 h f
  | .shl h f => encR3 0 0x00 5 h f
  | .shr h f => encR3 0 0x00 6 h f
  | .sar h f => encR3 0 0x00 7 h f
  | .min h f => encR3 0 0x00 8 h f
  | .max h f => encR3 0 0x00 9 h f
  | .minn h f => encR3 0 0x00 10 h f
  | .maxn h f => encR3 0 0x00 11 h f
  | .slt h f => encR3 0 0x00 12 h f
  | .sltn h f => encR3 0 0x00 13 h f
  | .seq h f => encR3 0 0x00 14 h f
  | .sel h f => encR3 0 0x00 15 h f
  | .mul h f => encR3 0 0x01 0 h f
  | .mulh h f => encR3 0 0x01 1 h f
  | .mulhn h f => encR3 0 0x01 2 h f
  | .div h f => encR3 0 0x01 3 h f
  | .divn h f => encR3 0 0x01 4 h f
  | .rem h f => encR3 0 0x01 5 h f
  | .clz h f => encR2 0 0x02 0 h f
  | .popc h f => encR2 0 0x02 1 h f
  | .lea h f => encR3 0 0x03 0 h f
  | .pmake h f => encR3 0 0x03 1 h f
  | .pspace h f => encR2 0 0x03 2 h f
  | .prank h f => encR2 0 0x03 3 h f
  | .addi h f => encRi10 0 0x08 h f
  | .andi h f => encRi10 0 0x09 h f
  | .ori h f => encRi10 0 0x0a h f
  | .xori h f => encRi10 0 0x0b h f
  | .shli h f => encRi10 0 0x0c h f
  | .shri h f => encRi10 0 0x0d h f
  | .sari h f => encRi10 0 0x0e h f
  | .slti h f => encRi10 0 0x0f h f
  | .li h f => encRi16 0 0x10 h f
  | .lih h f => encRi32 0 0x11 h f
  | .lil h f => encRi32 0 0x12 h f
  | .beq h f => encBr 0 0x18 h f
  | .bne h f => encBr 0 0x19 h f
  | .blt h f => encBr 0 0x1a h f
  | .bge h f => encBr 0 0x1b h f
  | .bltn h f => encBr 0 0x1c h f
  | .bgen h f => encBr 0 0x1d h f
  | .jmp h f => encJ21 0 0x1e h f
  | .jal h f => encRi16 0 0x1f h f
  | .jr h f => encRi10 0 0x20 h f
  | .loop h f => encLp 0 0x21 h f
  | .loops h f => encLps 0 0x22 h f
  | .lbrk h f => encLb 0 0x23 h f
  | .wait h f => encRi16 0 0x28 h f
  | .waitg h f => encT32 0 0x29 h f
  | .align h f => encT32 0 0x2a h f
  | .segb h f => encSeg 0 0x2b h f
  | .sege h => encZ 0 0x2c h
  | .tsm h => encZ 0 0x2d h
  | .opb h => encZ 0 0x2e h
  | .tks h f => encTk 0 0x30 h f
  | .tkw h f => encTk 0 0x31 h f
  | .bini h f => encBd 0 0x32 h f
  | .barv h f => encB0 0 0x33 h f
  | .bexp h f => encBd 0 0x34 h f
  | .bwt h f => encB0 0 0x35 h f
  | .bph h f => encBd 0 0x36 h f
  | .csrr h f => encCsr 0 0x38 h f
  | .csrw h f => encCsr 0 0x39 h f
  | .csrs h f => encCsr 0 0x3a h f
  | .csrc h f => encCsr 0 0x3b h f
  | .trap h f => encI16 0 0x3c h f
  | .rett h => encZ 0 0x3d h
  | .halt h => encZ 0 0x3e h
  | .fmt h f => encFmt 1 0x00 h f
  | .fmtq h f => encRd 1 0x01 h f
  | .ctxsw h => encZ 1 0x02 h
  | .yield h => encZ 1 0x03 h
  | .sleep h => encZ 1 0x04 h
  | .pert h f => encPert 1 0x05 h f
  | .ldB h f => encRi10 1 0x00 h f
  | .ldH h f => encRi10 1 0x01 h f
  | .ldW h f => encRi10 1 0x02 h f
  | .ldD h f => encRi10 1 0x03 h f
  | .ldBn h f => encRi10 1 0x04 h f
  | .ldHn h f => encRi10 1 0x05 h f
  | .ldWn h f => encRi10 1 0x06 h f
  | .stB h f => encRi10 1 0x08 h f
  | .stH h f => encRi10 1 0x09 h f
  | .stW h f => encRi10 1 0x0a h f
  | .stD h f => encRi10 1 0x0b h f
  | .vld h f => encRi10 1 0x10 h f
  | .vst h f => encRi10 1 0x11 h f
  | .vlds h f => encR3w 1 0x12 h f
  | .vsts h f => encR3w 1 0x13 h f
  | .vldb h f => encR2w 1 0x14 h f
  | .atomAdd h f => encAtom 1 0x18 0 h f
  | .atomAnd h f => encAtom 1 0x18 1 h f
  | .atomOr h f => encAtom 1 0x18 2 h f
  | .atomXor h f => encAtom 1 0x18 3 h f
  | .atomMin h f => encAtom 1 0x18 4 h f
  | .atomMax h f => encAtom 1 0x18 5 h f
  | .atomMinn h f => encAtom 1 0x18 6 h f
  | .atomMaxn h f => encAtom 1 0x18 7 h f
  | .atomSwap h f => encAtom 1 0x18 8 h f
  | .cas h f => encCas 1 0x19 h f
  | .fence h f => encFence 1 0x1a h f
  | .mark h => encZ 1 0x1b h
  | .copy h f => encEn 1 0x20 h f
  | .copyt h f => encEn 1 0x21 h f
  | .copyk h f => encEn 1 0x22 h f
  | .strmOpen h f => encR2t 1 0x28 h f
  | .strmChk h f => encR2 1 0x29 0 h f
  | .strmStat h f => encR2 1 0x2a 0 h f
  | .strmClose h f => encR1 1 0x2b 0 h f
  | .mbxs h f => encR3 1 0x30 0 h f
  | .mbxr h f => encR3 1 0x31 0 h f
  | .mbxq h f => encR2 1 0x32 0 h f
  | .tlbiPage h f => encR1 1 0x38 0 h f
  | .tlbiVf h f => encRa 1 0x38 1 h f
  | .pref h f => encR2s 1 0x39 h f
  | .stepPod h f => encR2t 1 0x3a h f
  | .vaddI8 h f => encV3t 1 0x00 h f
  | .vaddI16 h f => encV3t 1 0x01 h f
  | .vaddI32 h f => encV3t 1 0x02 h f
  | .vaddBf16 h f => encV3 1 0x05 h f
  | .vaddF32 h f => encV3 1 0x06 h f
  | .vsubI8 h f => encV3t 1 0x08 h f
  | .vsubI16 h f => encV3t 1 0x09 h f
  | .vsubI32 h f => encV3t 1 0x0a h f
  | .vsubBf16 h f => encV3 1 0x0d h f
  | .vsubF32 h f => encV3 1 0x0e h f
  | .vmulI8 h f => encV3t 1 0x10 h f
  | .vmulI16 h f => encV3t 1 0x11 h f
  | .vmulI32 h f => encV3t 1 0x12 h f
  | .vmulBf16 h f => encV3 1 0x15 h f
  | .vmulF32 h f => encV3 1 0x16 h f
  | .vminI8 h f => encV3t 1 0x18 h f
  | .vminI16 h f => encV3t 1 0x19 h f
  | .vminI32 h f => encV3t 1 0x1a h f
  | .vminBf16 h f => encV3 1 0x1d h f
  | .vminF32 h f => encV3 1 0x1e h f
  | .vmaxI8 h f => encV3t 1 0x20 h f
  | .vmaxI16 h f => encV3t 1 0x21 h f
  | .vmaxI32 h f => encV3t 1 0x22 h f
  | .vmaxBf16 h f => encV3 1 0x25 h f
  | .vmaxF32 h f => encV3 1 0x26 h f
  | .vabsI8 h f => encVut 1 0x28 h f
  | .vabsI16 h f => encVut 1 0x29 h f
  | .vabsI32 h f => encVut 1 0x2a h f
  | .vabsBf16 h f => encVu 1 0x2d h f
  | .vabsF32 h f => encVu 1 0x2e h f
  | .vnegI8 h f => encVut 1 0x30 h f
  | .vnegI16 h f => encVut 1 0x31 h f
  | .vnegI32 h f => encVut 1 0x32 h f
  | .vnegBf16 h f => encVu 1 0x35 h f
  | .vnegF32 h f => encVu 1 0x36 h f
  | .vfmaBf16 h f => encV3x 1 0x38 0 h f
  | .vnfmaBf16 h f => encV3x 1 0x38 1 h f
  | .vfmaF32 h f => encV3x 1 0x39 0 h f
  | .vnfmaF32 h f => encV3x 1 0x39 1 h f
  | .vfmsBf16 h f => encV3 1 0x3a h f
  | .vfmsF32 h f => encV3 1 0x3b h f
  | .vwmulI8 h f => encV3t 1 0x3c h f
  | .vwmulI16 h f => encV3t 1 0x3d h f
  | .vwmulBf16 h f => encV3 1 0x3e h f
  | .vdot4I8 h f => encV3t 1 0x3f h f
  | .vandI8 h f => encV3 1 0x40 h f
  | .vandI32 h f => encV3 1 0x41 h f
  | .vorI8 h f => encV3 1 0x42 h f
  | .vorI32 h f => encV3 1 0x43 h f
  | .vxorI8 h f => encV3 1 0x44 h f
  | .vxorI32 h f => encV3 1 0x45 h f
  | .vnotI8 h f => encVu 1 0x46 h f
  | .vnotI32 h f => encVu 1 0x47 h f
  | .vshlI8 h f => encV3 1 0x48 h f
  | .vshlI16 h f => encV3 1 0x49 h f
  | .vshlI32 h f => encV3 1 0x4a h f
  | .vshrI8 h f => encV3 1 0x4b h f
  | .vshrI16 h f => encV3 1 0x4c h f
  | .vshrI32 h f => encV3 1 0x4d h f
  | .vsarI8 h f => encV3 1 0x4e h f
  | .vsarI16 h f => encV3 1 0x4f h f
  | .vsarI32 h f => encV3 1 0x50 h f
  | .vcmpI8 h f => encVcmp 1 0x51 h f
  | .vcmpI16 h f => encVcmp 1 0x52 h f
  | .vcmpI32 h f => encVcmp 1 0x53 h f
  | .vcmpF8 h f => encVcmp 1 0x54 h f
  | .vcmpBf16 h f => encVcmp 1 0x55 h f
  | .vcmpF32 h f => encVcmp 1 0x56 h f
  | .vselI8 h f => encV3 1 0x57 h f
  | .vselI16 h f => encV3 1 0x58 h f
  | .vselI32 h f => encV3 1 0x59 h f
  | .vcvt h f => encVc 1 0x5a h f
  | .vexp2 h f => encVu 1 0x5b h f
  | .vlog2 h f => encVu 1 0x5c h f
  | .vrcp h f => encVu 1 0x5d h f
  | .vrsq h f => encVu 1 0x5e h f
  | .vtanh h f => encVu 1 0x5f h f
  | .vredsI32 h f => encVu 1 0x60 h f
  | .vredsF32 h f => encVu 1 0x61 h f
  | .vredmI16 h f => encVut 1 0x62 h f
  | .vredmI32 h f => encVut 1 0x63 h f
  | .vredmBf16 h f => encVut 1 0x64 h f
  | .vredmF32 h f => encVut 1 0x65 h f
  | .vscanI32 h f => encVu 1 0x66 h f
  | .vscanF32 h f => encVu 1 0x67 h f
  | .vpermI8 h f => encV3 1 0x68 h f
  | .vpermI16 h f => encV3 1 0x69 h f
  | .vpermI32 h f => encV3 1 0x6a h f
  | .vslideI8 h f => encV3 1 0x6b h f
  | .vslideI32 h f => encV3 1 0x6c h f
  | .vbcastI8 h f => encVu 1 0x6d h f
  | .vbcastI16 h f => encVu 1 0x6e h f
  | .vbcastI32 h f => encVu 1 0x6f h f
  | .vidx h f => encVi 1 0x70 h f
  | .vmovsv h f => encVmov 1 0x71 h f
  | .vmovvs h f => encVmov 1 0x72 h f
  | .vrb h f => encVr 1 0x73 h f
  | .rot h => encZ 1 0x74 h
  | .vgath h f => encVx 1 0x75 h f
  | .vscat h f => encVx 1 0x76 h f
  | .vscataF32 h f => encVx 1 0x77 h f
  | .vscataI32 h f => encVx 1 0x7f h f
  | .pand h f => encP3 1 0x78 h f
  | .por h f => encP3 1 0x79 h f
  | .pxor h f => encP3 1 0x7a h f
  | .pnot h f => encP2 1 0x7b h f
  | .pcnt h f => encPc 1 0x7c h f
  | .pff h f => encPc 1 0x7d h f
  | .pset h f => encPs 1 0x7e h f
  | .oclaim h f => encMx 1 0x00 h f
  | .orel h f => encMx 1 0x01 h f
  | .oload h f => encMo 1 0x02 h f
  | .oloadS h f => encMs 1 0x03 h f
  | .mma h f => encMm 1 0x08 h f
  | .mmap h f => encMm 1 0x09 h f
  | .mmapt h f => encMm 1 0x0a h f
  | .mdrain h f => encMd 1 0x0b h f
  | .mzero h f => encMz 1 0x0c h f
  | .mstat h f => encMg 1 0x10 h f
  | .mres h f => encMzg 1 0x11 h f
  | .mmode h f => encMmo 1 0x12 h f
  | .resultLanding _ => []
  | .accessPerform _ _ => []
  | .translationWalk _ _ => []
  | .wcReadModifyWrite _ _ => []
  | .handlerStart _ => []
  | .interruptTaken _ => []
  | .tick _ _ => []
  | .deferredTrap _ => []
  | .copyStart _ => []
  | .copyBeat _ _ => []
  | .copyComplete _ _ => []
  | .streamStart _ => []
  | .drain _ => []
  | .streamLateDecode _ _ => []
  | .streamOver _ => []
  | .oloadSComplete _ _ => []
  | .tileCommandStart _ => []
  | .tileCommandComplete _ _ => []
  | .oloadComplete _ _ => []
  | .mdrainComplete _ _ => []
  | .mresImageRead _ _ => []
  | .stopImageWrite _ _ => []
  | .replay _ => []
  | .gatherGroupPerform _ _ => []
  | .gatherComplete _ _ => []
  | .groupStart _ => []
  | .groupEnd _ => []
  | .contextSwitchBack _ => []
  | .park _ => []
  | .sliceExpiry _ => []
  | .launchDispatch => []
  | .launchComplete _ => []
  | .launch _ => []
  | .copyin _ _ => []
  | .copyout _ _ => []
  | .signalAdd _ _ => []
  | .signalInterrupt _ _ => []
  | .waitsig _ => []
  | .waitsigComplete _ _ => []
  | .queryQueues _ _ => []
  | .querySignal _ _ => []
  | .queryCores _ _ => []
  | .resetVf _ => []
  | .resetVfClear _ => []
  | .completionRetry _ => []
  | .recordWrite => []
  | .recordRetry _ => []
  | .replyResume _ => []
  | .replyFail _ => []
  | .partitionConfigure _ => []
  | .dirtySwap _ _ => []
  | .dirtySwapComplete _ => []
  | .snap _ => []
  | .pauseVf _ => []
  | .vfPaused _ => []
  | .resumeVf _ _ => []
  | .viral => []
  | .snapctr => []
  | .keyload _ _ => []
  | .keyclr _ => []
  | .keySlotSwitch _ => []
  | .attestationReport _ => []
  | .mr3Extend _ => []
  | .routeSwapRequest => []
  | .ltolWrite _ => []
  | .registerWrite _ => []
  | .halvingRequest => []
  | .halvingEndRequest => []
  | .thermalHalving _ => []
  | .powerStateEntry => []
  | .powerStateExit => []
  | .powerExitComplete => []
  | .wake => []
  | .packageReset => []
  | .bootRepair => []
  | .bootMarch _ => []
  | .bootMeasure => []
  | .bootRun => []
  | .realignExchange => []
  | .realignMessage _ => []
  | .realignTimeout => []
  | .slotDepart _ => []
  | .retransmit _ => []
  | .packetForward _ _ => []
  | .packetReceive _ => []
  | .ackReceive _ _ => []
  | .controlMessage _ => []
  | .boundaryStart => []
  | .voteCutoff => []
  | .applySpan => []
  | .boundaryResume => []
  | .scrubSlot _ => []
  | .patrol _ => []
  | .mbctlStart _ _ => []
  | .mbctlEnd _ _ => []
  | .mbctlKill _ _ => []
  | .apop _ => []
  | .opush _ _ => []
  | .actionDelivery _ => []
  | .watchdogExpiry _ => []
  | .systemObservationAppend _ => []
  | .hartTimerInterrupt _ => []
  | .illegalInstruction _ _ => []
  | .reservationEnd _ => []
  | .hostPathInvalidation _ => []

/-- The strand that decodes an instruction of a private space (R57 to R62); none for the shared space and for events. -/
def Instr.space : Instr → Option StrandId
  | .add _ _ => none
  | .sub _ _ => none
  | .and _ _ => none
  | .or _ _ => none
  | .xor _ _ => none
  | .shl _ _ => none
  | .shr _ _ => none
  | .sar _ _ => none
  | .min _ _ => none
  | .max _ _ => none
  | .minn _ _ => none
  | .maxn _ _ => none
  | .slt _ _ => none
  | .sltn _ _ => none
  | .seq _ _ => none
  | .sel _ _ => none
  | .mul _ _ => none
  | .mulh _ _ => none
  | .mulhn _ _ => none
  | .div _ _ => none
  | .divn _ _ => none
  | .rem _ _ => none
  | .clz _ _ => none
  | .popc _ _ => none
  | .lea _ _ => none
  | .pmake _ _ => none
  | .pspace _ _ => none
  | .prank _ _ => none
  | .addi _ _ => none
  | .andi _ _ => none
  | .ori _ _ => none
  | .xori _ _ => none
  | .shli _ _ => none
  | .shri _ _ => none
  | .sari _ _ => none
  | .slti _ _ => none
  | .li _ _ => none
  | .lih _ _ => none
  | .lil _ _ => none
  | .beq _ _ => none
  | .bne _ _ => none
  | .blt _ _ => none
  | .bge _ _ => none
  | .bltn _ _ => none
  | .bgen _ _ => none
  | .jmp _ _ => none
  | .jal _ _ => none
  | .jr _ _ => none
  | .loop _ _ => none
  | .loops _ _ => none
  | .lbrk _ _ => none
  | .wait _ _ => none
  | .waitg _ _ => none
  | .align _ _ => none
  | .segb _ _ => none
  | .sege _ => none
  | .tsm _ => none
  | .opb _ => none
  | .tks _ _ => none
  | .tkw _ _ => none
  | .bini _ _ => none
  | .barv _ _ => none
  | .bexp _ _ => none
  | .bwt _ _ => none
  | .bph _ _ => none
  | .csrr _ _ => none
  | .csrw _ _ => none
  | .csrs _ _ => none
  | .csrc _ _ => none
  | .trap _ _ => none
  | .rett _ => none
  | .halt _ => none
  | .fmt _ _ => some .C
  | .fmtq _ _ => some .C
  | .ctxsw _ => some .C
  | .yield _ => some .C
  | .sleep _ => some .C
  | .pert _ _ => some .C
  | .ldB _ _ => some .A
  | .ldH _ _ => some .A
  | .ldW _ _ => some .A
  | .ldD _ _ => some .A
  | .ldBn _ _ => some .A
  | .ldHn _ _ => some .A
  | .ldWn _ _ => some .A
  | .stB _ _ => some .A
  | .stH _ _ => some .A
  | .stW _ _ => some .A
  | .stD _ _ => some .A
  | .vld _ _ => some .A
  | .vst _ _ => some .A
  | .vlds _ _ => some .A
  | .vsts _ _ => some .A
  | .vldb _ _ => some .A
  | .atomAdd _ _ => some .A
  | .atomAnd _ _ => some .A
  | .atomOr _ _ => some .A
  | .atomXor _ _ => some .A
  | .atomMin _ _ => some .A
  | .atomMax _ _ => some .A
  | .atomMinn _ _ => some .A
  | .atomMaxn _ _ => some .A
  | .atomSwap _ _ => some .A
  | .cas _ _ => some .A
  | .fence _ _ => some .A
  | .mark _ => some .A
  | .copy _ _ => some .A
  | .copyt _ _ => some .A
  | .copyk _ _ => some .A
  | .strmOpen _ _ => some .A
  | .strmChk _ _ => some .A
  | .strmStat _ _ => some .A
  | .strmClose _ _ => some .A
  | .mbxs _ _ => some .A
  | .mbxr _ _ => some .A
  | .mbxq _ _ => some .A
  | .tlbiPage _ _ => some .A
  | .tlbiVf _ _ => some .A
  | .pref _ _ => some .A
  | .stepPod _ _ => some .A
  | .vaddI8 _ _ => some .V
  | .vaddI16 _ _ => some .V
  | .vaddI32 _ _ => some .V
  | .vaddBf16 _ _ => some .V
  | .vaddF32 _ _ => some .V
  | .vsubI8 _ _ => some .V
  | .vsubI16 _ _ => some .V
  | .vsubI32 _ _ => some .V
  | .vsubBf16 _ _ => some .V
  | .vsubF32 _ _ => some .V
  | .vmulI8 _ _ => some .V
  | .vmulI16 _ _ => some .V
  | .vmulI32 _ _ => some .V
  | .vmulBf16 _ _ => some .V
  | .vmulF32 _ _ => some .V
  | .vminI8 _ _ => some .V
  | .vminI16 _ _ => some .V
  | .vminI32 _ _ => some .V
  | .vminBf16 _ _ => some .V
  | .vminF32 _ _ => some .V
  | .vmaxI8 _ _ => some .V
  | .vmaxI16 _ _ => some .V
  | .vmaxI32 _ _ => some .V
  | .vmaxBf16 _ _ => some .V
  | .vmaxF32 _ _ => some .V
  | .vabsI8 _ _ => some .V
  | .vabsI16 _ _ => some .V
  | .vabsI32 _ _ => some .V
  | .vabsBf16 _ _ => some .V
  | .vabsF32 _ _ => some .V
  | .vnegI8 _ _ => some .V
  | .vnegI16 _ _ => some .V
  | .vnegI32 _ _ => some .V
  | .vnegBf16 _ _ => some .V
  | .vnegF32 _ _ => some .V
  | .vfmaBf16 _ _ => some .V
  | .vnfmaBf16 _ _ => some .V
  | .vfmaF32 _ _ => some .V
  | .vnfmaF32 _ _ => some .V
  | .vfmsBf16 _ _ => some .V
  | .vfmsF32 _ _ => some .V
  | .vwmulI8 _ _ => some .V
  | .vwmulI16 _ _ => some .V
  | .vwmulBf16 _ _ => some .V
  | .vdot4I8 _ _ => some .V
  | .vandI8 _ _ => some .V
  | .vandI32 _ _ => some .V
  | .vorI8 _ _ => some .V
  | .vorI32 _ _ => some .V
  | .vxorI8 _ _ => some .V
  | .vxorI32 _ _ => some .V
  | .vnotI8 _ _ => some .V
  | .vnotI32 _ _ => some .V
  | .vshlI8 _ _ => some .V
  | .vshlI16 _ _ => some .V
  | .vshlI32 _ _ => some .V
  | .vshrI8 _ _ => some .V
  | .vshrI16 _ _ => some .V
  | .vshrI32 _ _ => some .V
  | .vsarI8 _ _ => some .V
  | .vsarI16 _ _ => some .V
  | .vsarI32 _ _ => some .V
  | .vcmpI8 _ _ => some .V
  | .vcmpI16 _ _ => some .V
  | .vcmpI32 _ _ => some .V
  | .vcmpF8 _ _ => some .V
  | .vcmpBf16 _ _ => some .V
  | .vcmpF32 _ _ => some .V
  | .vselI8 _ _ => some .V
  | .vselI16 _ _ => some .V
  | .vselI32 _ _ => some .V
  | .vcvt _ _ => some .V
  | .vexp2 _ _ => some .V
  | .vlog2 _ _ => some .V
  | .vrcp _ _ => some .V
  | .vrsq _ _ => some .V
  | .vtanh _ _ => some .V
  | .vredsI32 _ _ => some .V
  | .vredsF32 _ _ => some .V
  | .vredmI16 _ _ => some .V
  | .vredmI32 _ _ => some .V
  | .vredmBf16 _ _ => some .V
  | .vredmF32 _ _ => some .V
  | .vscanI32 _ _ => some .V
  | .vscanF32 _ _ => some .V
  | .vpermI8 _ _ => some .V
  | .vpermI16 _ _ => some .V
  | .vpermI32 _ _ => some .V
  | .vslideI8 _ _ => some .V
  | .vslideI32 _ _ => some .V
  | .vbcastI8 _ _ => some .V
  | .vbcastI16 _ _ => some .V
  | .vbcastI32 _ _ => some .V
  | .vidx _ _ => some .V
  | .vmovsv _ _ => some .V
  | .vmovvs _ _ => some .V
  | .vrb _ _ => some .V
  | .rot _ => some .V
  | .vgath _ _ => some .V
  | .vscat _ _ => some .V
  | .vscataF32 _ _ => some .V
  | .vscataI32 _ _ => some .V
  | .pand _ _ => some .V
  | .por _ _ => some .V
  | .pxor _ _ => some .V
  | .pnot _ _ => some .V
  | .pcnt _ _ => some .V
  | .pff _ _ => some .V
  | .pset _ _ => some .V
  | .oclaim _ _ => some .M
  | .orel _ _ => some .M
  | .oload _ _ => some .M
  | .oloadS _ _ => some .M
  | .mma _ _ => some .M
  | .mmap _ _ => some .M
  | .mmapt _ _ => some .M
  | .mdrain _ _ => some .M
  | .mzero _ _ => some .M
  | .mstat _ _ => some .M
  | .mres _ _ => some .M
  | .mmode _ _ => some .M
  | .resultLanding _ => none
  | .accessPerform _ _ => none
  | .translationWalk _ _ => none
  | .wcReadModifyWrite _ _ => none
  | .handlerStart _ => none
  | .interruptTaken _ => none
  | .tick _ _ => none
  | .deferredTrap _ => none
  | .copyStart _ => none
  | .copyBeat _ _ => none
  | .copyComplete _ _ => none
  | .streamStart _ => none
  | .drain _ => none
  | .streamLateDecode _ _ => none
  | .streamOver _ => none
  | .oloadSComplete _ _ => none
  | .tileCommandStart _ => none
  | .tileCommandComplete _ _ => none
  | .oloadComplete _ _ => none
  | .mdrainComplete _ _ => none
  | .mresImageRead _ _ => none
  | .stopImageWrite _ _ => none
  | .replay _ => none
  | .gatherGroupPerform _ _ => none
  | .gatherComplete _ _ => none
  | .groupStart _ => none
  | .groupEnd _ => none
  | .contextSwitchBack _ => none
  | .park _ => none
  | .sliceExpiry _ => none
  | .launchDispatch => none
  | .launchComplete _ => none
  | .launch _ => none
  | .copyin _ _ => none
  | .copyout _ _ => none
  | .signalAdd _ _ => none
  | .signalInterrupt _ _ => none
  | .waitsig _ => none
  | .waitsigComplete _ _ => none
  | .queryQueues _ _ => none
  | .querySignal _ _ => none
  | .queryCores _ _ => none
  | .resetVf _ => none
  | .resetVfClear _ => none
  | .completionRetry _ => none
  | .recordWrite => none
  | .recordRetry _ => none
  | .replyResume _ => none
  | .replyFail _ => none
  | .partitionConfigure _ => none
  | .dirtySwap _ _ => none
  | .dirtySwapComplete _ => none
  | .snap _ => none
  | .pauseVf _ => none
  | .vfPaused _ => none
  | .resumeVf _ _ => none
  | .viral => none
  | .snapctr => none
  | .keyload _ _ => none
  | .keyclr _ => none
  | .keySlotSwitch _ => none
  | .attestationReport _ => none
  | .mr3Extend _ => none
  | .routeSwapRequest => none
  | .ltolWrite _ => none
  | .registerWrite _ => none
  | .halvingRequest => none
  | .halvingEndRequest => none
  | .thermalHalving _ => none
  | .powerStateEntry => none
  | .powerStateExit => none
  | .powerExitComplete => none
  | .wake => none
  | .packageReset => none
  | .bootRepair => none
  | .bootMarch _ => none
  | .bootMeasure => none
  | .bootRun => none
  | .realignExchange => none
  | .realignMessage _ => none
  | .realignTimeout => none
  | .slotDepart _ => none
  | .retransmit _ => none
  | .packetForward _ _ => none
  | .packetReceive _ => none
  | .ackReceive _ _ => none
  | .controlMessage _ => none
  | .boundaryStart => none
  | .voteCutoff => none
  | .applySpan => none
  | .boundaryResume => none
  | .scrubSlot _ => none
  | .patrol _ => none
  | .mbctlStart _ _ => none
  | .mbctlEnd _ _ => none
  | .mbctlKill _ _ => none
  | .apop _ => none
  | .opush _ _ => none
  | .actionDelivery _ => none
  | .watchdogExpiry _ => none
  | .systemObservationAppend _ => none
  | .hartTimerInterrupt _ => none
  | .illegalInstruction _ _ => none
  | .reservationEnd _ => none
  | .hostPathInvalidation _ => none

/-! ## The host's view of a table row -/

/-- The first strand, in the order V, A, C, M, that decodes the word (R38; log entry 15, DESIGN CHOICE). -/
def strandFor (w : W32) (ext : W32) : Option StrandId :=
  if bit w 31 then
    [StrandId.V, .A, .C, .M].find? fun st => (decode st w (some ext)).toBool
  else some .C

/-- The two words of a row whose bits are w, bit 0 the least significant bit of the first word. -/
def rowWords (w : Nat) : W32 × W32 := (BitVec.ofNat 32 w, BitVec.ofNat 32 (w / 4294967296))

/-- The instruction the decoder reads from a row's bits; the bits above nbits are zero. -/
def decodeTableWord (nbits w : Nat) : Option Instr :=
  let ws := rowWords (w % 2 ^ nbits)
  match strandFor ws.1 ws.2 with
  | some st => (decode st ws.1 (some ws.2)).toOption
  | none => none

end Sys2Proof
end

