-- ==== Sys2Proof/Config.lean ====
section
/-!
DEFINITION. Config.lean: the figures every DLN-768A has (R6), and the free values: what the manual leaves
undefined (R11) or does not give. A free value is a constant with no body: no proof can see which value it is.
-/
namespace Sys2Proof.Config

/-- Compute cores of a package (R6). -/
abbrev cores : Nat := 768
/-- Clusters of a package (R6). -/
abbrev clusters : Nat := 96
/-- Bytes of a granule (R6). -/
abbrev granule : Nat := 16384
/-- Bytes of a core pool: 96 granules (R6). -/
abbrev poolBytes : Nat := 1572864
/-- Bytes of an operand slot (R6). -/
abbrev slotBytes : Nat := 32768
/-- Bytes of an accumulator: 128 by 128 f32 (R47). -/
abbrev accBytes : Nat := 65536
/-- Bytes of one cluster SRAM (R6). -/
abbrev clusterBytes : Nat := 8388608
/-- Bytes of the second tier (R6, R109). -/
abbrev tierBytes : Nat := 274877906944
/-- Cycles of one link hop (R318). -/
abbrev hop : Nat := 180

/-- A scalar undefined under R11, one per draw (log entry 11, DESIGN CHOICE). -/
opaque freeWord : Nat → Word
/-- A vector register undefined under R11, one per draw (log entry 11, DESIGN CHOICE). -/
opaque freeVec : Nat → VReg
/-- A byte of memory undefined under R11: draw and position (log entry 11, DESIGN CHOICE). -/
opaque freeByte : Nat → Nat → Byte
/-- The cycles from a free-mode GLOBAL access's issue to its perform cycle, one per draw (R191, R304; log entry 12, DESIGN CHOICE). -/
opaque tierDelay : Nat → Nat
/-- Cycles, below 4, by which the GCYC a hart reads lags that of the cycle before, one per draw (R386; log entry 12, DESIGN CHOICE). -/
opaque clockLag : Nat → Nat
/-- The cycles a page table walk takes, one per draw (R111, R114; log entry 12, DESIGN CHOICE). -/
opaque walkDelay : Nat → Nat
/-- Bytes by which a stream's physical delivery lags A(t) at a drain, one per draw (R157; log entry 12, DESIGN CHOICE). -/
opaque streamLag : Nat → Nat

/-- The check-bit syndrome of an error, by cycle and address (R409; log entry 23, DESIGN CHOICE). -/
opaque syndrome : Nat → Nat → BitVec 8
/-- Cycles until a memory's next scrub slot, one per draw, below 2^26 (R398; log entry 12, DESIGN CHOICE). -/
opaque scrubDelay : Nat → Nat

/-- Twelfths of a hart-clock cycle by which the count of a step timer is ahead at the start of its first main-clock cycle, below 12, one
per draw: the two clocks run on their own (R5, R391; log entry 32, DESIGN CHOICE). -/
opaque hartPhase : Nat → Nat

/-- What the armature brings from the other packages of the pod at a boundary, one per draw: whether some package votes error, and
the OR of their cause bits (R329; log entry 30, DESIGN CHOICE). -/
opaque peerError : Nat → Bool
opaque peerCauses : Nat → BitVec 8
/-- Cycles a control message of the package to itself takes, one count per draw: such messages are untimed (R334; log entry 12, DESIGN CHOICE). -/
opaque ctlDelay : Nat → Nat
/-- When a target element of the plinth takes its applied value in the apply span: draw and element (R331; log entry 12, DESIGN CHOICE). -/
opaque applyDelay : Nat → Nat → Nat

/-- Cycles the loader takes for a launch, one count per draw (R370; log entry 12, DESIGN CHOICE). -/
opaque loadDelay : Nat → Nat
/-- The words of a strand that the loader makes of bytes that are no launch image: cycle, queue and strand (R369; log entry 14, DESIGN
CHOICE). -/
opaque foreignWords : Nat → Nat → Nat → List W32
/-- Multiples of 4096 cycles by which the armature puts off a throttle point beyond the first one it may choose, one per draw
(R322; log entry 12, DESIGN CHOICE). -/
opaque throttleWait : Nat → Nat
/-- The power in milliwatts that a consumer of R7 would take in a cycle: cycle and consumer (R423; log entry 12, DESIGN CHOICE). -/
opaque powerUse : Nat → Nat → Nat
/-- Every hart is in WFI or its island is OFF, one answer per draw (R425; log entry 30, DESIGN CHOICE). -/
opaque hartsWait : Nat → Bool
/-- The SRAM bank of a row, and the rows that fail the march at a boot: the silicon's own (R412; log entry 22, DESIGN CHOICE). -/
opaque bankOf : Nat → Nat
opaque marchRows : Nat → List Nat

/-- The AES-256 key unwrap of KEYLOAD under the transport key (R416); none where the unwrap fails (log entry 21, DESIGN CHOICE). -/
opaque keyUnwrap : List Byte → Option (BitVec 256)
/-- SHA-384 (R412, R414; log entry 21, DESIGN CHOICE). -/
opaque sha384 : List Byte → BitVec 384
/-- The ECDSA P-384 check of R412: public key, digest, signature (log entry 21, DESIGN CHOICE). -/
opaque ecdsaOk : List Byte → BitVec 384 → List Byte → Bool
/-- The ECDSA P-384 signature of R415: private key and digest (log entry 21, DESIGN CHOICE). -/
opaque ecdsaSign : BitVec 384 → BitVec 384 → List Byte
/-- HKDF-SHA-384 of R415: secret, context bytes and label (log entry 21, DESIGN CHOICE). -/
opaque hkdf384 : BitVec 384 → List Byte → List Byte → BitVec 384

end Sys2Proof.Config
end

