-- ==== Sys2Proof/Machine/State.lean ====
section
/-!
DEFINITION. Machine/State.lean: everything the manual gives one DLN-768A package to remember, as plain data; the reasons a
step can stop; and the package right after reset. Memories are one list of cells in canonical form (Ops.lean). The cores that
hold anything beyond their reset state are a zipper: the core in focus, its pair's array, and the others. No file's image
shapes any of it.
-/
namespace Sys2Proof.Machine

/-- Why a step stops with a fault. -/
inductive Fault where
  /-- Raised by an event that names a core, a window, a mailbox, a hart, a slot or a VF the part does not have (R2, R6):
  nothing of the manual says what such an event would be. Safe: the model stops where the part has no such unit. -/
  | noSuchUnit
  deriving DecidableEq, Repr

/-- Why an instruction has no meaning. -/
inductive Refusal where
  /-- Raised by the arm of an instruction that has no meaning in this model. Safe: nothing can be proved of a next state. -/
  | notModelled (mnemonic : String)
  deriving DecidableEq, Repr

/-! ## A strand -/

/-- The kinds of register a result lands in (R345). -/
inductive RegKind where
  | scalar | pred | vector
  deriving DecidableEq, Repr

/-- One register of a result in flight: the register as the instruction named it, the value, and the bits it writes
(R48, R217). -/
structure Landing where
  reg  : BitVec 5
  val  : VReg
  mask : VReg
  deriving DecidableEq, Repr

/-- A result in flight (R64, R65). `lands` is the cycle at whose end it lands; none while that cycle is not fixed (R194). -/
structure Flight where
  kind   : RegKind
  regs   : List Landing
  lands  : Option Nat
  issued : Nat
  latch  : Bool
  pend   : Bool            -- the destination is marked pending though the cycle is known (R193, R249)
  late   : Bool            -- a GLOBAL access's: it lands as usual though a trap is taken (R342)
  access : Option Nat      -- the pending access, gather or walk that forms the value
  bad    : BitVec 64       -- words of a vector that are marked bad with it; bit 0 for another register (R396, R397)
  beaten : Option Nat      -- the last cycle in which an instruction issued later has written the register at latency 1 (R64)
  deriving DecidableEq, Repr

/-- A hardware loop that is active (R79 to R83). -/
structure Loop where
  lc     : BitVec 2
  first  : Nat             -- byte offset of the first body word
  last   : Nat             -- byte offset of the end word
  stages : BitVec 3        -- D of LOOPS; 0 for LOOP
  trips  : BitVec 32       -- n
  brk    : Bool            -- marked by LBRK
  deriving DecidableEq, Repr

/-- A PERT state (R234). -/
structure Pert where
  mem : BitVec 8
  ctr : BitVec 32
  key : BitVec 64
  deriving DecidableEq, Repr

/-- What a strand held before the WAITG whose count it is serving: the WAITG is attempted again after a trap (R86, R87, R348). -/
structure Serving where
  pc    : Nat
  loops : List Loop
  lc    : Vector (BitVec 32) 4
  rotb  : BitVec 4
  deriving DecidableEq, Repr

/-- What one strand holds (R47, R63, R90, R234, R296). -/
structure Strand where
  image   : List W32             -- the strand's instruction image
  pc      : Nat                  -- byte offset within the image
  regs    : Vector Word 32
  dead    : BitVec 32            -- bit n: s_n is dead (R50)
  upset   : BitVec 32            -- bit n: s_n holds a parity error (R396, R397)
  lc      : Vector (BitVec 32) 4
  loops   : List Loop            -- innermost first
  rotb    : BitVec 4
  deadchk : Bool                 -- SCTL[0]
  xpc     : Word
  pert    : Pert
  tickets : Vector (BitVec 16) 64
  flights : List Flight          -- in issue order
  timed   : Bool
  halted  : Bool
  next    : Nat                  -- the cycle in which the next instruction is due
  idleFrom : Nat                 -- what it waits for before that cycle is an idle count or a WAIT from this one on (R430)
  held    : Bool                 -- that instruction was due and holds its issue (R348)
  waitg   : Option Serving       -- a WAITG is serving its count (R87)
  asleep  : Bool                 -- strand C in SLEEP (R377)
  deriving DecidableEq, Repr

/-! ## The access unit -/

/-- How a load's bytes become its result (R196 to R199). -/
inductive LoadForm where
  | scalar (bytes : Nat) (signed : Bool)
  | vector
  | bcast (bytes : Nat)
  | strided (bytes : Nat)
  deriving DecidableEq, Repr

/-- What a pending access does when it performs (R191, R202, R203, R210). -/
inductive AccKind where
  | load (form : LoadForm)
  | store
  | atomic (op : AtomOp) (bytes : Nat) (v : Word)
  | cas (bytes : Nat) (expect : Word) (v : Word)
  | post (win : Nat)                        -- a REMOTE store
  | mbxSend (mbox : Nat) | mbxQuery (mbox : Nat)   -- the mailbox side of MBXS and MBXQ
  | streamRead (openIt : Bool) (stamp : W32)       -- the reads of STRM.CHK and STRM.OPEN (R152, R153)
  deriving DecidableEq, Repr

/-- The page table entry's part that stays with a translation (R110). -/
structure Pte where
  raw   : Word
  base  : Nat        -- VA of the page
  size  : Nat        -- bytes of the page
  deriving DecidableEq, Repr

/-- A pending access of strand A (R190). -/
structure Access where
  id      : Nat
  kind    : AccKind
  ptr     : Word                 -- pointer of the first byte
  va      : List (Nat × Nat)     -- GLOBAL: pieces (VA, bytes), until translated
  pieces  : List (Nat × Nat)     -- memory addresses and lengths, in element order
  copies  : List Nat             -- address offsets at which a multicast repeats its pieces (R105); [0] otherwise
  data    : List Byte
  was     : List (Nat × List Byte)   -- a store's values before later stores joined it, each with the first id that does not see it (R205)
  fwd     : List (Nat × Byte)    -- bytes a load takes from earlier stores (R193)
  desc    : Bool                 -- a strided access with a negative stride (R114)
  nat     : Nat                  -- natural perform offset (R191, R210)
  lat     : Nat                  -- latency (R191, R199)
  rights  : Bool × Bool          -- the page must permit reads, writes (R112, R202)
  p       : Option Nat           -- perform cycle
  issued  : Nat
  pc      : Nat
  timed   : Bool
  ptes    : List Word            -- GLOBAL: page entries used, piece by piece
  done   : Bool                  -- it has performed in this cycle; it stays pending to the cycle's end (R190)
  cancelled : Bool               -- cancelled at trap entry (R342)
  rid     : Option (BitVec 16)   -- the outstanding record it waits on (R350)
  walk    : Option (Nat × Nat × Nat)   -- a page not present that its walk holds until u: VA, base and size of its region (R351)
  deriving DecidableEq, Repr

/-- A page fault record still outstanding: its RID, the region the failing walk's level maps, whether a copy waits on it, and
whether its reply has come (R350, R356). -/
structure PageWait where
  rid    : BitVec 16
  base   : Nat
  size   : Nat
  copy   : Option Nat
  access : Option Nat
  deriving DecidableEq, Repr

/-- What strand A's next issue still waits for (R204, R206, R207): accesses by id. -/
structure Gate where
  all     : List Nat      -- before any instruction of strand A
  acq     : List (Nat × BitVec 2)   -- before the next access in the scope (R204)
  wc      : Nat           -- also for the write-combining entries that hold bytes of accesses below this id (R206, R207, R301)
  deriving DecidableEq, Repr

/-! ## The array half, the copy engine, the chisel and the gather unit -/

/-- A tile command accepted by a half (R271, R276). -/
structure TileCmd where
  id     : Nat
  kind   : Nat               -- 0 MMA, 1 MMAP, 2 MMAPT (R275)
  z      : Nat
  x      : Nat
  y      : Nat
  fw     : BitVec 128
  spec   : Option Word       -- token specification (R43)
  pops   : Bool
  second : Bool              -- the context that issued it
  stamp  : W32
  pc     : Nat
  timed  : Bool
  target : Nat
  start  : Option Nat
  last   : Nat               -- L (R261)
  kfrom  : Nat               -- first K step still to do
  acc1   : Bool              -- ACC taken as 1 (R276)
  redone : Bool              -- a replay redoes it (R401)
  resumes : Option Nat       -- the stopped command of the array that it goes on with (R361)
  hurt   : Bool              -- its queue entry holds a parity error (R396, R397)
  deriving DecidableEq, Repr

/-- An OLOAD in progress (R267). -/
structure OloadOp where
  id    : Nat
  pc    : Nat
  second : Bool
  x     : Nat
  src   : Nat                -- memory address of the first byte
  len   : Nat                -- bytes
  c     : Nat
  spec  : Option Word
  done  : Nat                -- beats read
  bytes : List Byte
  deriving DecidableEq, Repr

/-- A drain of an accumulator in progress (R279). -/
structure DrainOp where
  id   : Nat
  pc   : Nat
  second : Bool
  z    : Nat
  pos  : Nat
  c    : Nat
  spec : Option Word
  data : List Byte
  deriving DecidableEq, Repr

/-- An OLOAD.S accepted and not completed (R156). -/
structure OloadS where
  id      : Nat
  x       : Nat
  block   : Nat
  due     : Nat              -- its stamp's cycle
  early   : Nat              -- the first cycle in which it may drain: issue + 1
  spec    : Option Word
  pc      : Nat
  second  : Bool
  ends    : Option Nat       -- the cycle in which it completes
  popped  : Bool             -- it has popped its tokens, in the cycle of its issue
  closed  : Bool             -- its stream has closed (R155)
  deriving DecidableEq, Repr

/-- An entry of a verified timetable (R142). -/
structure TtEntry where
  discard : Bool
  kind    : Nat
  size    : Nat              -- bytes
  drain   : Nat
  deriving DecidableEq, Repr

/-- An open stream (R147 to R162). -/
structure Stream where
  handle : Word
  hva    : Nat               -- VA of the header
  start  : Nat               -- T as a GCYC value
  rate   : Nat
  bcap   : Nat
  total  : Nat
  tt     : List TtEntry
  pages  : List Pte
  next   : Nat               -- next block to drain
  gone   : Nat               -- bytes drained
  lastD  : Option Nat        -- cycle of the last drain
  taken  : Nat               -- OLOAD.S accepted so far
  charged : Bool
  failed : Bool
  overrun : Bool
  integ  : Bool
  corr   : Bool
  late   : Bool
  lates  : List (Nat × Nat × Option OloadS)   -- late blocks whose last byte has not arrived: block, the cycle in which it does, and
                             -- the OLOAD.S that names it (R157)
  pc     : Nat
  vf     : Nat
  second  : Bool             -- context 1 opened it
  deriving DecidableEq, Repr

/-- A beat of a copy that has been read: its cycle, and its bytes; none where a unit failed (R168, R185). -/
structure CopyBeat where
  beat : Nat
  due  : Nat
  data : List (Option Byte)
  deriving DecidableEq, Repr

/-- A copy command, accepted or running (R164 to R168, R172 to R183). -/
structure CopyCmd where
  id      : Nat
  kind    : Nat              -- 0 COPY, 1 COPYT, 2 COPYK
  src     : Word             -- pointers: of the first byte, or of the tensor map's element (0, ..., 0)
  dst     : Word
  srcAt   : Nat              -- where they lie: memory address, VA or window offset
  dstAt   : Nat
  copies  : List Nat         -- the members of an MCAST destination; [0] otherwise (R105)
  vf      : Nat
  ctl     : Word
  map     : List (Int × Nat) -- COPYT: stride and extent of each dimension
  esz     : Nat
  beats   : Nat              -- beats in all; fewer once the command has stopped
  spec    : Option Word
  stamp   : W32
  pc      : Nat
  second  : Bool
  timed   : Bool
  target  : Nat
  start   : Nat
  busy    : Nat              -- the first cycle in which the engine is free (R166)
  read    : Nat              -- beats read
  readAt  : Nat              -- cycle of the next read
  wrote   : Nat              -- beats written
  wroteAt : Nat              -- cycle of the last write planned
  buf     : List CopyBeat
  head    : List (Option Byte)      -- what a read that has halted has read of its beat (R170)
  part    : Nat              -- bytes of its beat that a write that has halted has written (R170)
  ovl     : Option (Nat × Nat)      -- the bytes where source and destination overlap (R171)
  old     : List (Nat × Byte)       -- what those held before this command wrote them
  bad     : List Nat         -- units that failed their tag or their code (R185, R397)
  halted  : Option (BitVec 16)      -- the record it waits on (R170)
  hold    : Bool             -- it has halted: the engine stays with it
  atWrite : Bool             -- it halted in a write
  walk    : Option (Bool × Nat × Nat × Nat)   -- a page not present that it holds until u: in a write, VA, base and size of its region (R351)
  stopped : Bool             -- it pushes nothing and makes no arrival
  hurt    : Bool             -- its buffer entry holds a parity error (R396, R397)
  deriving DecidableEq, Repr

/-- A gather or scatter accepted (R247 to R251). -/
structure GatherOp where
  id    : Nat
  kind  : Nat                -- 0 VGATH, 1 VSCAT, 2 VSCATA.f32, 3 VSCATA.i32
  pc    : Nat
  second : Bool
  lanes : List (Nat × Nat × W32 × Nat)   -- lane, address, data, cycle in which it performs
  ends  : Nat                -- landing or completion cycle
  spec  : Option Word
  got   : List (Nat × W32)   -- VGATH: lanes read
  hurt  : BitVec 64          -- words of a scatter's data that are marked bad (R397)
  deriving DecidableEq, Repr

/-- A write-combining entry (R117, R186): the 256-byte unit, the page entry of its view, its bytes, and the cycle in which it is
written back; the oldest first. -/
structure WcEntry where
  unit    : Nat
  pte     : Word
  bytes   : List (Nat × Byte)
  due     : Nat
  byA     : Bool             -- strand A created it
  first   : Option Nat       -- the oldest access of strand A whose bytes it holds
  cmds    : List Nat         -- the copy commands whose bytes it holds
  pc      : Nat
  second  : Bool             -- the context that created it
  deriving DecidableEq, Repr

/-- A TLB entry; lists are most recently used first (R114). -/
structure TlbEntry where
  vf  : Nat
  pte : Pte
  deriving DecidableEq, Repr

/-! ## Traps and records -/

/-- An exception that is due: its code, TVAL, whether it is imprecise, and the strand (R335, R338). -/
structure Exc where
  code : BitVec 6
  tval : Word
  strand : StrandId
  impr : Bool
  deriving DecidableEq, Repr

/-- A fault record (R352) with what the reporting needs: VF and core, and its refusals so far (R355). -/
structure Rec where
  w0 : Word
  w1 : Word
  w2 : Word
  w3 : Word
  refused : Nat
  due : Nat
  deriving DecidableEq, Repr

/-- Where a context stands with its handler (R340 to R346). -/
inductive Handler where
  | none
  | entering (h : Nat)          -- the handler's first issue is due at h
  | running
  | switched (c : Nat)          -- context 0 is behind the CTXSW it issued in cycle c (R359)
  | returning (u : Nat)         -- RETT has issued; the context resumes at u
  deriving DecidableEq, Repr

/-- What the trap frame holds of one strand (R344). -/
structure SavedStrand where
  st   : Strand
  idle : Nat
  held : Bool
  deriving DecidableEq, Repr

/-- The trap frame (R344, R345). -/
structure Frame where
  tcause : Word
  tval   : Word
  tcyc   : Nat
  sc     : SavedStrand
  sa     : SavedStrand
  sv     : SavedStrand
  sm     : SavedStrand
  segv   : Bool
  gate   : Gate
  pfr    : List Rec
  deriving DecidableEq, Repr

/-- A schedule segment that is open (R291 to R293). -/
structure Segment where
  start : Nat
  word  : W32
  ext   : W32
  sig   : List Byte             -- the byte string of R293 so far
  void  : Bool
  deriving DecidableEq, Repr

/-- A command in the half's retained window (R399 to R401). -/
inductive RetCmd where
  | mzero (z c : Nat)
  | oload (x src len tag c : Nat)
  | mdrain (z pos tag c : Nat)
  | tile (t : TileCmd)
  deriving DecidableEq, Repr

/-! ## A context and a core -/

/-- The launch group a context runs (R283, R299). -/
structure Group where
  launch : Nat
  vf     : Nat
  n      : Nat                  -- group index
  x      : Nat
  y      : Nat
  z      : Nat
  failed : Option (Nat × Word)  -- the cycle of its trap and the TCAUSE with which it ends (R343, R371)
  deriving DecidableEq, Repr

/-- What each context holds (R358). -/
structure Ctx where
  c : Strand
  a : Strand
  v : Strand
  m : Strand
  vregs   : Vector VReg 32      -- by physical number (R48)
  vdead   : BitVec 32
  vupset  : BitVec 2048         -- bit 64p + w: word w of physical register p is marked bad (R396 to R398)
  preds   : Vector PReg 8
  pupset  : BitVec 8            -- bit n: p_n holds a parity error (R396, R397)
  tokens  : Vector Nat 16
  acc     : List Access         -- pending accesses in issue order
  auHalt  : Bool                -- the access unit is halted (R350)
  waits   : List PageWait
  gate    : Gate
  fq      : List (BitVec 128)
  fqHurt  : List Nat             -- the places in it whose words hold a parity error (R396)
  tq      : List TileCmd        -- accepted and not completed, in order of acceptance
  replies : List (Nat × BitVec 64)   -- with the cycle from which each may be applied (R356)
  tick    : Word
  rid     : BitVec 16
  handler : Handler
  frame   : Option Frame
  bcount  : Nat
  pendTick : Bool
  pendSig  : Bool
  pendUrg  : Bool
  group   : Option Group
  deriving DecidableEq, Repr

/-- One event counter with its control word (R429). -/
structure Counter where
  count : BitVec 48
  ctl   : Word
  deriving DecidableEq, Repr

/-- The engines of a core (R164, R186, R258, R258, R354, R399). -/
structure Engines where
  copyBuf : List CopyCmd        -- sorted by target cycle (R164)
  copyRun : List CopyCmd        -- started and not completed
  stream  : Option Stream
  serial  : Nat
  oloads  : List OloadOp
  olds    : List OloadS
  drains  : List DrainOp
  gathers : List GatherOp
  wc      : List WcEntry
  mres    : List (Nat × Nat × List Byte × TileCmd)     -- MRES image reads: issue cycle, address, bytes read, the command (R276)
  stop    : Option (Nat × Nat × TileCmd)               -- a stopped command: when its image is written, KDONE (R360)
  stopped : Option TileCmd      -- the command whose image is written, until the core switches back (R361)
  img     : List Byte           -- the image being written (R360)
  carried : List (Nat × Nat)    -- bad words that an OLOAD, an MDRAIN or an image read has read: its id, the offset in its destination (R397)
  rbrec   : List (Nat × Nat × BitVec 16)               -- result buffer records: position, arrival, tag (R255)
  retained : List RetCmd
  retOver : Bool                -- the window has overflowed, or no TSM has opened one
  redo    : List (Nat × RetCmd × Option Word × Nat)    -- retained commands a replay has still to issue: cycle, command, token
                                                       -- specification still to push, pc (R401)
  aflt    : List (Nat × BitVec 6 × TileCmd)            -- faults at start that the array has found: f, the code, the command (R349, R400)
  recs    : List Rec            -- the record buffer of 8 (R354)
  recWait : List Rec            -- records that found it full: their agents hold (R355)
  deriving DecidableEq, Repr

/-- One core (R2, R47, R101, R283, R289, R337). -/
structure Core where
  idx     : Nat
  ctx     : Ctx                 -- the running context
  shadow  : Ctx                 -- the other one
  second  : Bool                -- the running context is context 1
  otherDomain : Word            -- DOMAIN and SYNCMASK of the context that is not running (log entry 33, DEDUCED)
  otherMask : BitVec 4
  partw   : Word
  domain  : Word
  syncmask : BitVec 4
  trapbase : Word
  tcause  : Word
  tval    : Word
  wcwait  : BitVec 16
  eng     : Engines
  seg     : Option Segment
  slip    : Nat                 -- SLIP of R402
  replay  : Option (Nat × Nat)  -- a replay in progress: f and S
  deferred : Option Exc         -- a deferred trap of the running context that is due (R349)
  otherSeg : Option Segment     -- the segment, the slip and the deferred trap of the context that is not running (R293)
  otherSlip : Nat
  otherDeferred : Option Exc
  request : Bool                -- a pre-emption request is pending (R374)
  parking : Option (Nat × Nat × Nat)   -- the core parks: boundary count, PC and strand of the OPB (R376)
  stopped : Bool                -- issues nothing until reset (R381 step 1, R408)
  lastVf  : Option Nat          -- the VF whose groups it ran last (R370)
  ended   : Option (Nat × Nat)  -- the cycle in which a group left it, and the group's VF: it ran the group in that cycle (R429)
  tlbC    : List TlbEntry
  tlbA    : List TlbEntry
  tlbX    : List TlbEntry       -- the copy engine's stream TLB
  tlbV    : List TlbEntry
  tlbM    : List TlbEntry
  counters : Vector Counter 8
  deriving DecidableEq, Repr

/-- A slot record (R265). -/
structure SlotRec where
  owner  : Option Nat           -- 0 the even core, 1 the odd core
  ready  : Nat
  tag    : BitVec 16
  poison : Option (BitVec 6)
  deriving DecidableEq, Repr

/-- A tile command that has started: the half, the command and the operand bytes it reads (R272, R273). -/
structure TileRun where
  half  : Nat
  cmd   : TileCmd
  xb    : List Byte
  yb    : List Byte
  asb   : List Byte
  bsb   : List Byte
  spoil : Option Nat            -- first cycle in which a slot it reads was written under it (R282)
  flt   : Option Nat            -- the cycle of the K step that consumes an uncorrectable word (R400)
  finished : Bool               -- it has completed; its sum waits for that of an earlier command on its accumulator (R274)
  upTo    : Option Nat          -- the K step at which it stops (R275)
  away  : Bool                  -- it has been stopped, and holds its place for the command that resumes it (R274, R361)
  given : Bool                  -- its accumulator has since taken an image in its place (R276)
  deriving DecidableEq, Repr

/-- The array of a core pair (R258, R262). -/
structure MArray where
  idx   : Nat
  mmode : BitVec 3
  slots : Vector SlotRec 16
  runs  : List TileRun          -- started, with sums not yet in their accumulators, in start order
  lastE : Option Nat            -- L of the even half's last started command
  lastO : Option Nat
  deriving DecidableEq, Repr

/-! ## Virtual functions, launches and the dispatcher -/

/-- A completion record the endpoint has sent or still holds (R365, R420). -/
structure Completion where
  vf     : Nat
  tag    : BitVec 16
  kind   : BitVec 8
  status : BitVec 8
  data   : Word
  core   : BitVec 10
  cyc    : Nat
  bytes  : List Byte            -- COPYOUT data
  deriving DecidableEq, Repr

/-- An image's data record: space (0 GLOBAL, 1 CLUSTER, 2 LOCAL), offset and bytes (R26, R28). -/
structure DataRec where
  space : Nat
  off   : Nat
  bytes : List Byte
  zeros : Nat                    -- zero bytes that follow: the part of a `.tile` that no data directive fills (R29)
  deriving DecidableEq, Repr

/-- A STAMP32 or ALIGNG relocation (R36): strand, index of the word it writes, and n of G + n. -/
structure Reloc where
  strand : StrandId
  word   : Nat
  n      : Int
  deriving DecidableEq, Repr

/-- A SIG relocation (R35, R36): the SEGB's extension word, and the segment as glas models it: for each cycle after the SEGB's in
which a strand issues, its distance from the SEGB and the words issued, extension words included, in the order of R293. -/
structure SigReloc where
  strand : StrandId
  word   : Nat
  issues : List (Nat × List (StrandId × Nat))
  deriving DecidableEq, Repr

/-- A launch image as an object (log entry 14, DESIGN CHOICE). -/
structure Image where
  vf     : Nat
  va     : Word
  size   : Nat                   -- its bytes in GLOBAL space
  c      : List W32
  a      : List W32
  v      : List W32
  m      : List W32
  relocs : List Reloc
  sigs   : List SigReloc
  data   : List DataRec
  mask   : BitVec 4
  deriving DecidableEq, Repr

/-- A launch that has been dispatched and has not completed, or is parked (R366 to R376). -/
structure Launch where
  id     : Nat
  vf     : Nat
  queue  : Nat
  tag    : BitVec 16
  first  : Nat
  count  : Nat
  partw  : Word
  dom    : BitVec 4
  sig    : Nat
  timed  : Bool
  urg    : Bool
  gx     : Nat
  gy     : Nat
  gz     : Nat
  image  : Image                 -- relocated under g
  g      : Nat
  slice  : Nat                   -- the slice counter
  todo   : List (Nat × Nat × Nat)    -- groups not started: core, group, s1 (0, or a parked group's boundary count)
  live   : List (Nat × Nat)      -- groups running: core and group
  parked : Bool
  fail   : Option (Nat × Nat × Word) -- cycle, core, TCAUSE of the first failing group
  since  : Nat                   -- GCYC up to which the slice has been counted
  deriving DecidableEq, Repr

/-- A LAUNCH at the head of its queue that has passed checks 1 to 7 and 9 of R369: what its record says, and its window records as
256-bit numbers. -/
structure Head where
  launch : Launch
  wins   : List Nat
  deriving DecidableEq, Repr

/-- An error record (R409). -/
structure ErrRec where
  w0 : Word
  w1 : Word
  w2 : Word
  w3 : Word
  deriving DecidableEq, Repr

/-- One virtual function (R363 to R381, R431). -/
structure Vf where
  on      : Bool
  pairs   : List Nat
  mboxes  : List Nat
  harts   : List Nat
  keys    : List Nat
  slices  : List (Nat × Nat × Nat)
  plinth  : Nat
  podIdx  : List Nat
  root    : Option Nat
  queues  : Vector (List Capsule) 4
  busy    : Vector Bool 4        -- the head of the queue has been dispatched and has not completed
  heads   : Vector (Option Head) 4   -- the head is a LAUNCH that has passed its checks
  signals : Vector Word 64
  slice   : BitVec 32
  weight  : BitVec 8
  scale   : BitVec 48
  nom     : BitVec 48
  toffset : Word
  tbase   : Word
  paused  : Bool
  pausing : Bool
  gtsp    : Word
  resetting : Option (Nat × BitVec 16)   -- RESET-VF accepted: step and tag
  dirty   : Option (Nat × Nat)
  dirtyB  : Bool                 -- the second bitmap is active
  swapAt  : Option Nat
  swapping : Bool
  snaps   : Nat
  errq    : Option Nat
  errTail : Nat
  errOvf  : Nat
  errLast : Option ErrRec        -- the newest record of the error queue (R409)
  addr    : Nat                  -- the endpoint's fabric address, and the ports it is bound to (R418)
  ports   : List Nat
  ring    : Option (Nat × Nat × Nat × Bool)    -- completion ring: host address, n of 2^n entries, host key, writable (R420)
  ringTail : Nat
  sends   : List (Nat × Nat × Nat)   -- one a record written into the ring: its entry's host address, the host key, and the tail that the
                                 -- 8-byte send after it carries (R420)
  held    : List Completion
  deriving DecidableEq, Repr

/-! ## The pod -/

/-- A window record (R323). -/
structure Window where
  allow : Nat
  size  : Nat
  hops  : Nat
  route : BitVec 40
  plog  : Nat
  phase : Nat
  slotf : Nat
  valid : Bool
  rule  : Nat
  tsp   : Nat
  tclu  : Nat
  tcore : Nat
  tgt   : Nat
  left  : Nat
  launch : Nat                   -- the launch that has configured it (R100)
  seq   : Nat                    -- next sequence number
  queue : List Packet            -- the egress queue (R325)
  sent  : List Packet            -- departed in this step and not acknowledged (R319)
  tried : List Nat               -- sequence numbers already retransmitted
  deriving DecidableEq, Repr

/-- A core that has issued STEP at the boundary that is active: whether it voted error, its pending result, and the STEP's PC
(R327, R329). -/
structure Stepper where
  core : Nat
  err  : Bool
  id   : Nat
  pc   : Nat
  deriving DecidableEq, Repr

/-- The package's part in the superstep (R320 to R334). -/
structure Pod where
  x : Nat
  y : Nat
  z : Nat
  ex : Nat
  ey : Nat
  ez : Nat
  holder  : Option Nat           -- the pod launch that holds the package
  stepno  : Nat
  bounds  : List Nat             -- boundaries that come, or whose U has not come (R328)
  opened  : List Nat             -- those of them that a STEP accepted by the package names (R327)
  waiting : List (Nat × Nat)     -- cores whose STEP has been accepted, with its boundary
  bound   : Option Nat           -- the boundary B that is active, from B to U − 1
  later   : List Nat             -- boundaries that have begun inside an active one, oldest first (R328)
  steppers : List Stepper
  closed  : Bool                 -- the vote of the active boundary is closed
  causes  : BitVec 8             -- recorded for the step in progress
  nextCauses : BitVec 8          -- recorded from the cutoff on, for the next step
  own     : BitVec 8             -- this package's cause bits as closed
  ownErr  : Bool                 -- its vote as closed
  result  : Option Word
  plinth  : List Packet          -- entries of the step in order of arrival
  nextPlinth : List Packet       -- what arrives from B on for the next step (R332)
  used    : Nat                  -- share bytes taken
  seen    : List (Nat × Nat × Nat)
  applies : List (Nat × Nat × List Byte)   -- the apply span: cycle, address and final bytes of each element (R330, R331)
  stepTol : BitVec 8
  parentAt : Option Nat          -- the exchange whose parent message is awaited
  trim    : Int                  -- direction of the clock trim
  routeA  : List (Nat × Nat)
  routeB  : List (Nat × Nat)
  bankB   : Bool
  swap    : Bool
  ctl     : List (Nat × Nat × CtlMsg)  -- control messages sent: the last cycle in which the link carries it, port and message
  heard   : Option Nat           -- the exchange whose parent message has come (R320)
  sentG   : List (Nat × Nat)     -- exchange messages sent: port and GCYC (R320)
  out     : List (Nat × Nat × Nat × Packet)   -- first cycle, output port, input port and packet put on a link (R318)
  deriving DecidableEq, Repr

/-! ## The maquette -/

/-- A queued mailbox entry: its 512 bytes and the cycle from which it is visible (R209, R210). -/
structure MbEntry where
  id    : Nat                    -- of the MBXS that fills it; 0 for an observation
  bytes : List Byte
  vis   : Nat
  bad   : Bool                   -- it holds an error that cannot be corrected (R397)
  deriving DecidableEq, Repr

/-- A step mailbox (R209 to R211, R388 to R393). -/
structure Mailbox where
  idx    : Nat
  vf     : Nat
  on     : Bool                  -- ASSIGNED
  hart   : Nat
  aie    : Bool
  pver   : BitVec 16
  ever   : BitVec 16
  retire : Bool
  epi    : Nat
  budget : Nat
  wdog   : Bool
  aev    : Bool
  lastr  : Nat
  ahead  : Bool
  staging : Bool
  timer  : Option (Nat × Nat)    -- the step timer: twelfths of a hart cycle counted so far, and its draw (R391)
  seq    : BitVec 16
  sys    : Option Nat            -- pending system observation: its KIND
  sysEver : BitVec 16
  acts   : List MbEntry
  obs    : List MbEntry
  obswin : List Byte             -- 512 bytes
  deriving DecidableEq, Repr

/-- Mailbox m as configuration leaves it (R388 to R390). -/
def Mailbox.idle (m : Nat) : Mailbox where
  idx := m
  vf := 0
  on := false
  hart := 0
  aie := false
  pver := 0
  ever := 0
  retire := false
  epi := 0
  budget := 0
  wdog := false
  aev := false
  lastr := 0
  ahead := false
  staging := false
  timer := none
  seq := 0
  sys := none
  sysEver := 0
  acts := []
  obs := []
  obswin := List.replicate 512 0

/-- What the manual gives a hart beyond RISC-V (R385 to R388, R422), and what its last access gave it. -/
structure Hart where
  idx     : Nat
  mqkey   : Word
  timecmp : Word
  mtip    : Bool                 -- the machine timer interrupt is pending
  got     : List Byte            -- the bytes its last load read
  fault   : Bool                 -- its last access took an access fault
  seen    : Nat                  -- the latest GCYC a read has returned to it (R386)
  deriving DecidableEq, Repr

/-- A line of the maquette's caches that holds second-tier bytes: the MQKEY of its fill, of which KEY is its tag, its address in lines, its bytes, whether a hart has
written it, and the hart that used it last (R384, R385, R387; log entry 35, DESIGN CHOICE). -/
structure HartLine where
  key   : Word
  line  : Nat
  bytes : List Byte
  dirty : Bool
  hart  : Nat
  bad   : List Nat               -- words of it that hold an error which cannot be corrected (R396; log entry 35, DEDUCED)
  deriving DecidableEq, Repr

/-! ## Rings, logs, keys, power and boot -/

/-- A fault ring (R353). -/
structure Ring where
  set  : Bool
  base : Nat
  logn : Nat
  wt   : Nat
  head : BitVec 32
  tail : BitVec 32
  deriving DecidableEq, Repr

/-- A key slot (R416). -/
structure KeySlot where
  slot  : Nat
  key   : BitVec 256
  valid : Bool
  gen   : BitVec 16
  vf    : BitVec 4
  pend  : List (Nat × Option (BitVec 256))   -- each KEYLOAD, or KEYCLR, that waits for the controllers, with the cycle in which it takes effect
  deriving DecidableEq, Repr

/-- The metadata of a sealed unit of 256 bytes in the second tier: the view and the slot load under which it was last sealed,
its write count, its tag, and whether nothing has been written over it through another view (R116, R184, R185; log entry 20, DEDUCED). -/
structure SealedUnit where
  unit  : Nat
  view  : Word
  gen   : BitVec 16
  count : BitVec 58
  tag   : BitVec 128
  holds : Bool
  deriving DecidableEq, Repr

/-- The management endpoint: its fabric address, the ports it is bound to, and its completion ring with the tail (R418, R420). Its commands have
no completion record (R365 gives one to a capsule), so the part writes nothing into the ring. -/
structure Endpoint where
  addr  : Nat
  ports : List Nat
  ring  : Option (Nat × Nat × Nat × Bool)    -- as a VF's
  tail  : Nat
  deriving DecidableEq, Repr

/-- Power, boot and trust (R412 to R428). -/
structure Service where
  power   : Nat                  -- 0 to 4: S0 to S4
  quiet   : Nat                  -- idle cycles in a row (R425)
  exitAt  : Option Nat           -- the cycle in which an exit to S0 completes
  entered : Nat                  -- the cycle in which the package last entered a state below S0 (R428)
  ltol    : Word
  halved  : Bool
  change  : Option (Nat × Bool)  -- a throttle point that has been delivered: T and the new H
  viral   : Bool
  running : Bool                 -- boot step 5 is done: capsules are accepted
  bootst  : Word
  mr0     : BitVec 384
  mr1     : BitVec 384
  mr2     : BitVec 384
  mr3     : BitVec 384
  attKey  : BitVec 384
  firmware : List Byte           -- the image in flash: header, key, signature (log entry 22, DESIGN CHOICE)
  fwKey   : List Byte
  fwSig   : List Byte
  fwVer   : Nat
  maqFw   : List (BitVec 384)    -- digests of the maquette firmware images, in load order
  fuseHash : BitVec 384
  fuseRoll : Nat
  fuseRepair : List Nat
  flashRepair : List Nat
  secret  : BitVec 384
  capsSeen : Bool                -- the first capsule has been accepted (R414)
  physLog : Option Nat
  logTail : Nat
  logDrop : Nat
  lastLog : Option ErrRec        -- the newest record (R409)
  patrol  : Nat
  reports : List (List Byte)     -- attestation reports answered
  flashErr : Bool                -- the flash cannot be read (R413)
  marchHang : Bool               -- the march does not finish (R413)
  snapAt  : Nat                  -- the cycle that the last SNAPCTR to come in names (R429)
  mgmt    : Endpoint
  refusals : List (Nat × Nat × Nat)   -- commands that report a failure: cycle, 0 KEYLOAD or 1 RESUME-VF, and its slot or VF (R416, R434)
  deriving DecidableEq, Repr

/-! ## The schedule of the model -/

/-- The events that the part itself brings about, as the schedule holds them; Schedule.lean gives each its meaning, which is
that of the constructor of Instr it stands for (log entry 13, DESIGN CHOICE). -/
inductive Wake where
  | resultLanding (k : Nat) | accessPerform (k id : Nat) | translationWalk (k id : Nat) | wcWrite (k unit : Nat) (late : Bool)
  | handlerStart (k : Nat) | tick (k : Nat) (ctx : Bool) | deferredTrap (k : Nat)
  | copyStart (k : Nat) | copyBeat (k id : Nat) | copyComplete (k id : Nat)
  | streamStart (k : Nat) | drain (k : Nat) | streamLateDecode (k blk : Nat) | streamOver (k : Nat)
  | reservationEnd (k : Nat) | oloadSComplete (k id : Nat)
  | tileStart (k : Nat) | tileComplete (k id : Nat) | oloadComplete (k id : Nat) | mdrainComplete (k id : Nat)
  | mresImageRead (k id : Nat) | stopImageWrite (k id : Nat) | replay (k : Nat)
  | gatherPerform (k id : Nat) | gatherComplete (k id : Nat)
  | groupStart (k : Nat) | groupEnd (k : Nat) | switchBack (k : Nat) | park (k : Nat)
  | sliceExpiry (l : Nat) | launchDispatch | launchComplete (l : Nat) | serve (vf q : Nat)
  | resetVfClear (vf : Nat) | completionRetry (vf : Nat) | recordWrite | recordRetry (k : Nat) | reply (r : BitVec 64)
  | dirtySwap (vf w : Nat) | dirtySwapComplete (vf : Nat) | vfPaused (vf : Nat) | keySlotSwitch (slot : Nat)
  | halvingRequest | halvingEndRequest | powerWatch | thermalHalving (h : Bool)
  | powerStateEntry | powerExitComplete | packageReset | bootRepair | bootMarch | bootMeasure | bootRun
  | realignExchange | realignTimeout | slotDepart (w : Nat) | linkArrive (cyc port inPort : Nat) | retransmit (w : Nat) | ackReceive (w seq : Nat)
  | boundaryStart | voteCutoff | applySpan | boundaryResume | scrubSlot (addr : Nat) | patrol (addr : Nat)
  | lineScrub (slot : BitVec 8) (l w : Nat) | plinthScrub (i : Nat)
  | actionDelivery (m : Nat) | watchdogExpiry (m : Nat) | hartTimer (h : Nat) | snapshot
  deriving DecidableEq, Repr

/-- Something that is due: cycle, rank within the cycle, order within the rank, and the event (log entry 13, DESIGN CHOICE). -/
structure Due where
  cyc  : Nat
  rank : Nat
  key  : Nat
  ev   : Wake
  deriving DecidableEq, Repr

/-- An update that takes effect at the end of its cycle (R89, R176, R231, R298). -/
inductive Staged where
  | csr (core : Nat) (second : Bool) (st : StrandId) (n : BitVec 12) (op : Nat) (v : Word)
  | rot (core : Nat) (second : Bool) (st : StrandId)
  | push (core : Nat) (second : Bool) (agent : Nat) (ch : Nat) (spec : Word) (pc : Nat)
  | bini (core : Nat) (st : StrandId) (key : Nat) (count : Word)
  | arrive (core : Nat) (second : Bool) (agent : Nat) (key : Nat) (av : Word) (pc : Nat)
  | expect (core : Nat) (st : StrandId) (key : Nat) (n : Nat)
  | mmode (core : Nat) (mode : BitVec 3)
  | orel (core : Nat) (x : Nat)
  | pert (core : Nat) (second : Bool) (st : StrandId) (p : Pert)
  | fmt (core : Nat) (second : Bool) (w : BitVec 128)
  | mzero (core : Nat) (z : Nat)
  | rbrec (core : Nat) (pos arrival : Nat) (tag : BitVec 16) (z id : Nat)
  | slotRec (core : Nat) (x ready : Nat) (tag : BitVec 16)
  | tlbi (core : Nat) (vf : Nat) (va : Option Nat)
  | yield (launch : Nat)
  | segEnd (core : Nat)
  | frameHead (core : Nat) (second : Bool)
  | mbctl (m : Nat) (v : Word)
  | obs (m : Nat)
  | pfp (core : Nat)
  deriving DecidableEq, Repr

/-- What is due to issue in the cycle on the focused core, fixed at the start of the cycle (R176, R178, R290, R292, R375). -/
structure Planned where
  st   : StrandId
  word : W32
  ext  : W32
  deriving DecidableEq, Repr

/-- The plan of one core's issue phase. -/
structure Plan where
  due   : List Planned
  alive : List StrandId
  apart : BitVec 4              -- strands SYNCMASK names whose S = 1 instruction lacks a partner in the cycle (R290)
  tok0  : Vector Nat 16         -- token counts at the start of the cycle
  pops  : Vector Nat 16         -- pops the strands are granted in the cycle
  deriving DecidableEq, Repr

/-- How an attempted issue ended (R336, R348). -/
inductive Verdict where
  | none | issued | held | trapped (e : Exc)
  deriving DecidableEq, Repr

/-- A barrier word (R295), by key: 64·core + N for a core's own, 49152 + 64·cluster + N for a window (R294). -/
structure Bar where
  key   : Nat
  live  : Bool
  phase : BitVec 16
  pend  : Nat
  count : Nat
  deriving DecidableEq, Repr

/-- Something the outside does, and when it arrives (R363, R319, R356). -/
structure Arrival where
  cyc : Nat
  ev  : Instr
  deriving DecidableEq, Repr

/-- An event of the cycle that an event counter may count: level (0 core, 1 cluster, 2 package), unit, source, count (R430). -/
structure Tally where
  level : Nat
  unit  : Nat
  src   : Nat
  n     : Nat
  deriving DecidableEq, Repr

/-- The whole package. -/
structure State where
  gcyc    : Nat                  -- GCYC (R5)
  mem     : List Host.Cell       -- every memory of the package, canonical
  core    : Core                 -- the core in focus
  arr     : MArray               -- its pair's array
  cur     : StrandId             -- the strand whose instruction is being executed
  others  : List Core            -- the other cores that are not as reset left them
  arrs    : List MArray
  bars    : List Bar
  winHold : List (Nat × Nat)     -- cluster barrier windows held: cluster, launch (R294)
  vfs     : Vector Vf 16
  images  : List Image
  launches : List Launch
  nextId  : Nat                  -- identifiers of launches, accesses and commands
  rr      : Nat × Nat            -- the dispatcher's round: VF served last, dispatches given
  done    : List Completion      -- completions sent, oldest first
  windows : Vector Window 64
  pod     : Pod
  mboxes  : List Mailbox
  harts   : List Hart
  lines   : List HartLine
  rings   : Vector Ring 18       -- 0 to 15 the VFs', 16 retryable, 17 terminal
  lists   : List Rec             -- the reporting port's requests in order of arrival
  rrPort  : Nat × Nat
  keys    : List KeySlot
  sealed  : List SealedUnit
  bad     : List Nat             -- 64-bit words marked uncorrectable, by address / 8 (R398)
  soft    : List Nat             -- 64-bit words with a single-bit error
  charge  : Nat                  -- reservations charged, in sixteenths of a byte per cycle (R147)
  svc     : Service
  clusterCnt : List (Nat × Nat × Counter)   -- cluster, number, counter (R429)
  packageCnt : Vector Counter 32
  snapshot : List (Nat × BitVec 48)         -- the snapshot block
  hartDiv : List (Nat × Nat)     -- maquette group clock dividers (R422)
  cal     : List Due
  inbox   : List Arrival
  staged  : List Staged
  plan    : Plan
  verdict : Verdict
  fresh   : Nat                  -- draws of free values so far (log entry 11, DESIGN CHOICE)
  tally   : List Tally           -- events of the cycle that counters count
  deriving DecidableEq, Repr

/-! ## Reset -/

/-- A strand with no launch: halted, registers zero and live (R63; log entry 10, DESIGN CHOICE). -/
def Strand.idle : Strand where
  image := []
  pc := 0
  regs := Vector.replicate 32 0
  dead := 0
  upset := 0
  lc := Vector.replicate 4 0
  loops := []
  rotb := 0
  deadchk := false
  xpc := 0
  pert := ⟨0, 0, 0⟩
  tickets := Vector.replicate 64 0
  flights := []
  timed := false
  halted := true
  next := 0
  idleFrom := 0
  held := false
  waitg := none
  asleep := false

/-- A context with no group (R176, R216, R295, R347; log entry 10, DESIGN CHOICE). -/
def Ctx.idle : Ctx where
  c := .idle
  a := .idle
  v := .idle
  m := .idle
  vregs := Vector.replicate 32 0
  vdead := 0
  vupset := 0
  preds := Vector.replicate 8 0
  pupset := 0
  tokens := Vector.replicate 16 0
  acc := []
  auHalt := false
  waits := []
  gate := ⟨[], [], 0⟩
  fq := []
  fqHurt := []
  tq := []
  replies := []
  tick := 0
  rid := 0
  handler := .none
  frame := none
  bcount := 0
  pendTick := false
  pendSig := false
  pendUrg := false
  group := none

/-- Engines with nothing accepted. -/
def Engines.idle : Engines where
  copyBuf := []
  copyRun := []
  stream := none
  serial := 0
  oloads := []
  olds := []
  drains := []
  gathers := []
  wc := []
  mres := []
  stop := none
  stopped := none
  img := []
  carried := []
  rbrec := []
  retained := []
  retOver := true
  redo := []
  aflt := []
  recs := []
  recWait := []

/-- Core k as reset leaves it: CSRs at their resets (R101, R187, R283, R289, R337 to R339). -/
def Core.idle (k : Nat) : Core where
  idx := k
  ctx := .idle
  shadow := .idle
  second := false
  otherDomain := 0
  otherMask := 0
  partw := 0
  domain := 0
  syncmask := 0
  trapbase := 0
  tcause := 0
  tval := 0
  wcwait := 0x40
  eng := .idle
  seg := none
  slip := 0
  replay := none
  deferred := none
  otherSeg := none
  otherSlip := 0
  otherDeferred := none
  request := false
  parking := none
  stopped := false
  lastVf := none
  ended := none
  tlbC := []
  tlbA := []
  tlbX := []
  tlbV := []
  tlbM := []
  counters := Vector.replicate 8 ⟨0, 0⟩

/-- A slot as R258 sets it. -/
def SlotRec.idle : SlotRec := ⟨none, 0, 0, none⟩

/-- Array j as R258 sets it: SOLO-even, every slot unclaimed. -/
def MArray.idle (j : Nat) : MArray where
  idx := j
  mmode := 0
  slots := Vector.replicate 16 .idle
  runs := []
  lastE := none
  lastO := none

/-- A VF that no partition configures (R109, R367, R373, R431). -/
def Vf.idle : Vf where
  on := false
  pairs := []
  mboxes := []
  harts := []
  keys := []
  slices := []
  plinth := 0
  podIdx := []
  root := none
  queues := Vector.replicate 4 []
  busy := Vector.replicate 4 false
  heads := Vector.replicate 4 none
  signals := Vector.replicate 64 0
  slice := 0
  weight := 1
  scale := 0
  nom := 0
  toffset := 0
  tbase := 0
  paused := false
  pausing := false
  gtsp := 0
  resetting := none
  dirty := none
  dirtyB := false
  swapAt := none
  swapping := false
  snaps := 0
  errq := none
  errTail := 0
  errOvf := 0
  errLast := none
  addr := 0
  ports := []
  ring := none
  ringTail := 0
  sends := []
  held := []

/-- A window record with VALID 0 (R323; log entry 10, DESIGN CHOICE). -/
def Window.idle : Window where
  allow := 0
  size := 0
  hops := 0
  route := 0
  plog := 0
  phase := 0
  slotf := 0
  valid := false
  rule := 0
  tsp := 0
  tclu := 0
  tcore := 0
  tgt := 0
  left := 0
  launch := 0
  seq := 0
  queue := []
  sent := []
  tried := []

/-- The pod state of a package that is alone (R320; log entry 10, DESIGN CHOICE). -/
def Pod.idle : Pod where
  x := 0
  y := 0
  z := 0
  ex := 1
  ey := 1
  ez := 1
  holder := none
  stepno := 0
  bounds := []
  opened := []
  waiting := []
  bound := none
  later := []
  steppers := []
  closed := false
  causes := 0
  nextCauses := 0
  own := 0
  ownErr := false
  result := none
  plinth := []
  nextPlinth := []
  used := 0
  seen := []
  applies := []
  stepTol := 8
  parentAt := none
  trim := 0
  routeA := []
  routeB := []
  bankB := false
  swap := false
  ctl := []
  heard := none
  sentG := []
  out := []

/-- Service state at package reset, before boot step 1 (R412 to R414, R424; log entries 10 and 22, DESIGN CHOICE). -/
def Service.idle : Service where
  power := 0
  quiet := 0
  exitAt := none
  entered := 0
  ltol := 0
  halved := false
  change := none
  viral := false
  running := false
  bootst := 0
  mr0 := 0
  mr1 := 0
  mr2 := 0
  mr3 := 0
  attKey := 0
  firmware := []
  fwKey := []
  fwSig := []
  fwVer := 0
  maqFw := []
  fuseHash := 0
  fuseRoll := 0
  fuseRepair := []
  flashRepair := []
  secret := 0
  capsSeen := false
  physLog := none
  logTail := 0
  logDrop := 0
  lastLog := none
  patrol := 0
  reports := []
  flashErr := false
  marchHang := false
  snapAt := 0
  mgmt := ⟨0, [], none, 0⟩
  refusals := []

/-- A plan in which nothing is due. -/
def Plan.empty : Plan := ⟨[], [], 0, Vector.replicate 16 0, Vector.replicate 16 0⟩

/-- The package right after package reset: GCYC 0, no launch, nothing in any memory, and boot step 1 due (R285, R412; log entry 14
says how a program comes to run from here). -/
def State.reset : State where
  gcyc := 0
  mem := []
  core := .idle 0
  arr := .idle 0
  cur := .C
  others := []
  arrs := []
  bars := []
  winHold := []
  vfs := Vector.replicate 16 .idle
  images := []
  launches := []
  nextId := 1
  rr := (0, 0)
  done := []
  windows := Vector.replicate 64 .idle
  pod := .idle
  mboxes := []
  harts := []
  lines := []
  rings := Vector.replicate 18 ⟨false, 0, 0, 0, 0, 0⟩
  lists := []
  rrPort := (0, 0)
  keys := []
  sealed := []
  bad := []
  soft := []
  charge := 0
  svc := .idle
  clusterCnt := []
  packageCnt := Vector.replicate 32 ⟨0, 0⟩
  snapshot := []
  hartDiv := []
  cal := [⟨0, 0, 0, .packageReset⟩]
  inbox := []
  staged := []
  plan := .empty
  verdict := .none
  fresh := 0
  tally := []

end Sys2Proof.Machine
end

