-- ==== Sys2Proof/Machine/Ops.lean ====
section
/-!
DEFINITION. Machine/Ops.lean: the named operations over memory, registers and the schedule; issuing and retiring an
instruction; taking an exception and returning from one.
-/
namespace Sys2Proof.Machine

/-- The outcome of a step of this machine. -/
abbrev Out := Host.Outcome State Fault Refusal

/-! ## Memory -/

/-- The addresses rise strictly from lo on and no listed byte is 0, the value an unlisted address reads as (log entry 10, DESIGN CHOICE). -/
def Memory.wfFrom : Nat → List Host.Cell → Bool
  | _, [] => true
  | lo, (a, b) :: m => decide (lo ≤ a) && b != 0 && Memory.wfFrom (a + 1) m

/-- The canonical form of memory. -/
def Memory.wf (m : List Host.Cell) : Bool := Memory.wfFrom 0 m

/-- The byte at an address; 0 where nothing is listed. -/
def memRead : List Host.Cell → Nat → Byte
  | [], _ => 0
  | (x, b) :: m, a => if a = x then b else if a < x then 0 else memRead m a

/-- Write one byte, keeping the canonical form. -/
def memWrite : List Host.Cell → Nat → Byte → List Host.Cell
  | [], a, b => if b = 0 then [] else [(a, b)]
  | (x, c) :: m, a, b =>
    if a < x then (if b = 0 then (x, c) :: m else (a, b) :: (x, c) :: m)
    else if a = x then (if b = 0 then m else (a, b) :: m)
    else (x, c) :: memWrite m a b

/-- The n bytes from a on. -/
def memBytes (m : List Host.Cell) (a n : Nat) : List Byte := (List.range n).map fun j => memRead m (a + j)

/-- Write bytes from a on. -/
def memPut (m : List Host.Cell) (a : Nat) : List Byte → List Host.Cell
  | [] => m
  | b :: bs => memWrite (memPut m (a + 1) bs) a b

/-- Every byte from lo up to hi reads 0 afterwards. -/
def memZero (m : List Host.Cell) (lo hi : Nat) : List Host.Cell := m.filter fun c => c.1 < lo || hi ≤ c.1

/-- Little-endian value of a byte list (R9). -/
def leNat : List Byte → Nat
  | [] => 0
  | b :: bs => b.toNat + 256 * leNat bs

/-- The n little-endian bytes of a number (R9). -/
def leBytes : Nat → Nat → List Byte
  | 0, _ => []
  | n + 1, x => BitVec.ofNat 8 x :: leBytes n (x / 256)

/-- Where the memories lie in the one address space of the model (log entry 14, DESIGN CHOICE). -/
def poolAddr (k off : Nat) : Nat := 2 ^ 40 + k * 2 ^ 21 + off
def clusterAddr (c off : Nat) : Nat := 2 ^ 41 + c * 2 ^ 23 + off
def slotAddr (a x : Nat) : Nat := 2 ^ 42 + (a * 16 + x) * 2 ^ 15
def accAddr (a z : Nat) : Nat := 2 ^ 43 + (a * 4 + z) * 2 ^ 16

/-! ## The partition word (R101, R102) -/

def partSB (w : Word) : Nat := (fld w 8 5).toNat
def partRB4 (w : Word) : Nat := (fld w 3 5).toNat
def partC (w : Word) : Nat := 1 + (fld w 0 1).toNat
/-- S of R102, as an integer: a word that is not valid may leave no scratchpad. -/
def partS (w : Word) : Int := 96 - 2 * (partC w : Int) - 4 * (partRB4 w : Int) - (partSB w : Int)
/-- Bytes of LOCAL (R102). -/
def localSize (w : Word) : Nat := 16384 * (partS w).toNat
/-- Pool offset of the stream buffer, the result buffer and the trap area of context x (R102). -/
def resultBase (w : Word) : Nat := localSize w + 16384 * partSB w
def trapBase (w : Word) (x : Nat) : Nat := resultBase w + 65536 * partRB4 w + 16384 * x
/-- A valid partition word (R102). -/
def partValid (w : Word) : Bool :=
  partSB w ≤ 16 && partRB4 w ≤ 23 && w.toNat / 8192 = 0 && fld w 1 2 = 0 && 1 ≤ partS w

/-! ## Strands, contexts and cores -/

def Ctx.strand (x : Ctx) : StrandId → Strand
  | .C => x.c | .A => x.a | .V => x.v | .M => x.m

def Ctx.setStrand (x : Ctx) (st : StrandId) (t : Strand) : Ctx :=
  match st with
  | .C => { x with c := t } | .A => { x with a := t } | .V => { x with v := t } | .M => { x with m := t }

/-- The running context of the core in focus. -/
def State.ctx (s : State) : Ctx := s.core.ctx
def State.setCtx (s : State) (x : Ctx) : State := { s with core := { s.core with ctx := x } }
def State.mapCtx (s : State) (f : Ctx → Ctx) : State := s.setCtx (f s.core.ctx)
/-- The strand whose instruction is being executed. -/
def State.str (s : State) : Strand := s.core.ctx.strand s.cur
def State.setStr (s : State) (t : Strand) : State := s.mapCtx fun x => x.setStrand s.cur t
def State.mapEng (s : State) (f : Engines → Engines) : State := { s with core := { s.core with eng := f s.core.eng } }
def State.mapArr (s : State) (f : MArray → MArray) : State := { s with arr := f s.arr }

/-- Insert a core by its index. -/
def insCore (c : Core) : List Core → List Core
  | [] => [c]
  | d :: ds => if c.idx ≤ d.idx then c :: d :: ds else d :: insCore c ds

/-- Core k, wherever it is kept. -/
def State.coreAt (s : State) (k : Nat) : Core :=
  if s.core.idx = k then s.core else (s.others.find? fun c => c.idx = k).getD (.idle k)

/-- Array j, wherever it is kept. -/
def State.arrAt (s : State) (j : Nat) : MArray :=
  if s.arr.idx = j then s.arr else (s.arrs.find? fun a => a.idx = j).getD (.idle j)

/-- Bring core k and its pair's array into focus. -/
def focus (k : Nat) (s : State) : State :=
  if s.core.idx = k then s else
    let c := s.coreAt k
    let a := s.arrAt (k / 2)
    { s with
      core := c
      others := insCore s.core (s.others.filter fun d => d.idx ≠ k)
      arr := a
      arrs := if s.arr.idx = k / 2 then s.arrs else s.arr :: s.arrs.filter fun d => d.idx ≠ k / 2 }

/-- Every core that holds more than reset left it. -/
def State.cores (s : State) : List Core := insCore s.core s.others

/-- Apply f with core k in focus and go back to the core that was. -/
def withCore (k : Nat) (f : State → State) (s : State) : State := focus s.core.idx (f (focus k s))

/-- The array half of the core in focus: 0 even, 1 odd (R3). -/
def State.half (s : State) : Nat := s.core.idx % 2

/-- The group's launch, where the running context has one. -/
def State.launchOf (s : State) (x : Ctx) : Option Launch :=
  match x.group with
  | some g => s.launches.find? fun l => l.id = g.launch
  | none => none

/-- The VF of the launch the core runs, or ran last, whose stores are still to perform (R98). -/
def State.vfOf (s : State) : Nat := match s.core.ctx.group with | some g => g.vf | none => s.core.lastVf.getD 0

/-! ## The schedule of the model (log entry 13, DESIGN CHOICE) -/

def dueBefore (a b : Due) : Bool :=
  a.cyc < b.cyc || (a.cyc = b.cyc && (a.rank < b.rank || (a.rank = b.rank && a.key < b.key)))

def insDue (d : Due) : List Due → List Due
  | [] => [d]
  | e :: es => if e = d then e :: es else if dueBefore d e then d :: e :: es else e :: insDue d es

def addDue (cyc rank key : Nat) (ev : Wake) (s : State) : State := { s with cal := insDue ⟨cyc, rank, key, ev⟩ s.cal }

/-- Stage an update for the end of the cycle. -/
def stage (u : Staged) (s : State) : State := { s with staged := s.staged ++ [u] }

/-- A new identifier. -/
def takeId (s : State) : Nat × State := (s.nextId, { s with nextId := s.nextId + 1 })

/-- One more draw of a free value (log entry 11, DESIGN CHOICE). -/
def draw (s : State) : Nat × State := (s.fresh, { s with fresh := s.fresh + 1 })

/-- Events of the cycle for the event counters (R429, R430): of a level and unit, of the core in focus, and the bytes of cluster
SRAM and second tier read or written. -/
def countAt (level unit src n : Nat) (s : State) : State :=
  if n = 0 then s else { s with tally := s.tally ++ [⟨level, unit, src, n⟩] }
def count (src n : Nat) (s : State) : State := countAt 0 s.core.idx src n s
def countBytes (write : Bool) (a n : Nat) (s : State) : State :=
  if a < 2 ^ 38 then countAt 2 0 (if write then 0x81 else 0x80) n s
  else if 2 ^ 41 ≤ a && a < 2 ^ 42 then countAt 1 ((a - 2 ^ 41) / 2 ^ 23) (if write then 0x41 else 0x40) n s
  else s

/-! ## Registers -/

/-- s_n of a strand; s0 reads as zero (R48). -/
def Strand.get (t : Strand) (n : BitVec 5) : Word :=
  if n = 0 then 0 else t.regs[n.toNat]'n.isLt

/-- A write that lands in s_n; s0 discards it, a dead register becomes live, and a parity error goes (R48, R50, R397). -/
def Strand.put (t : Strand) (n : BitVec 5) (v : Word) : Strand :=
  if n = 0 then t else
    { t with
      regs := t.regs.set n.toNat v n.isLt
      dead := t.dead &&& ~~~((1 : BitVec 32) <<< n.toNat)
      upset := t.upset &&& ~~~((1 : BitVec 32) <<< n.toNat) }

/-- The physical vector register a name selects (R48). -/
def physV (rotb : BitVec 4) (n : BitVec 5) : Fin 32 :=
  if n.toNat < 16 then ⟨n.toNat, n.isLt⟩
  else ⟨16 + (n.toNat - 16 + rotb.toNat) % 16, by omega⟩

def Ctx.getV (x : Ctx) (n : BitVec 5) : VReg := x.vregs[(physV x.v.rotb n).val]'(physV x.v.rotb n).isLt
def Ctx.getP (x : Ctx) (n : BitVec 3) : PReg := if n = 0 then BitVec.allOnes 1024 else x.preds[n.toNat]'n.isLt
def Ctx.putP (x : Ctx) (n : BitVec 3) (v : PReg) : Ctx := if n = 0 then x else { x with preds := x.preds.set n.toNat v n.isLt }

/-- Scalar, vector and predicate reads of the executing strand. -/
def State.rs (s : State) (n : BitVec 5) : Word := s.str.get n
def State.rv (s : State) (n : BitVec 5) : VReg := s.core.ctx.getV n
def State.rp (s : State) (n : BitVec 3) : PReg := s.core.ctx.getP n

/-- A register that an instruction reads, whether a last-use bit names it (R50), and whether its bad words go on with its data as a scatter's
do (R397). -/
structure Use where
  kind  : RegKind
  reg   : BitVec 5
  last  : Bool
  moves : Bool
  deriving DecidableEq, Repr

def useS (n : BitVec 5) (l : Bool := false) : Use := ⟨.scalar, n, l, false⟩
def useV (n : BitVec 5) (l : Bool := false) : Use := ⟨.vector, n, l, false⟩
def useP (n : BitVec 3) : Use := ⟨.pred, n.setWidth 5, false, false⟩
/-- The data of a scatter. -/
def useData (n : BitVec 5) : Use := ⟨.vector, n, false, true⟩

/-- A flight names a register (R194; for a vector, by the name used). -/
def Flight.names (f : Flight) (k : RegKind) (n : BitVec 5) : Bool := f.kind = k && f.regs.any fun r => r.reg = n

/-- The register is pending: the landing cycle of a result for it is not fixed (R194). Scalars are the strand's own; vector
registers are strand V's, and strand A's loads fill them (R200). -/
def Ctx.isPending (x : Ctx) (st : StrandId) (u : Use) : Bool :=
  let fs := match u.kind with
    | .scalar => if u.reg = 0 then [] else (x.strand st).flights
    | .vector => x.a.flights ++ x.v.flights
    | .pred => []
  fs.any fun f => f.names u.kind u.reg && (f.pend || f.lands = none)

/-- The register is dead (R50). -/
def Ctx.isDead (x : Ctx) (st : StrandId) (u : Use) : Bool :=
  match u.kind with
  | .scalar => u.reg ≠ 0 && (x.strand st).dead.getLsbD u.reg.toNat
  | .vector => x.vdead.getLsbD (physV x.v.rotb u.reg).val
  | .pred => false

/-- The 64 mark bits of physical vector register p (R398). -/
def vectorMarks (p : Fin 32) (m : BitVec 64) : BitVec 2048 := m.setWidth 2048 <<< (64 * p.val)

/-- The register holds an error that cannot be corrected (R396, R397; log entry 24, DEDUCED). -/
def Ctx.isUpset (x : Ctx) (st : StrandId) (u : Use) : Bool :=
  match u.kind with
  | .scalar => u.reg ≠ 0 && (x.strand st).upset.getLsbD u.reg.toNat
  | .vector => x.vupset &&& vectorMarks (physV x.v.rotb u.reg) (BitVec.allOnes 64) ≠ 0
  | .pred => u.reg ≠ 0 && x.pupset.getLsbD u.reg.toNat

/-- The kind number of R339. -/
def RegKind.num : RegKind → Nat
  | .scalar => 1 | .pred => 2 | .vector => 3

/-- A read of a dead register with DEADCHK = 0 returns an undefined value: the register gets a free value (R51; log entry 11, DESIGN CHOICE). -/
def refreshDead (u : Use) (s : State) : State :=
  if s.ctx.isDead s.cur u then
    match u.kind with
    | .scalar =>
      let t := s.str
      { s.setStr { t with regs := t.regs.set u.reg.toNat (Config.freeWord s.fresh) u.reg.isLt } with fresh := s.fresh + 1 }
    | .vector =>
      let x := s.ctx
      let p := physV x.v.rotb u.reg
      { s.setCtx { x with vregs := x.vregs.set p.val (Config.freeVec s.fresh) p.isLt } with fresh := s.fresh + 1 }
    | .pred => s
  else s

/-- A last-use bit kills the register it names; s0 is not affected (R50). -/
def kill (u : Use) (s : State) : State :=
  if u.last then
    match u.kind with
    | .scalar =>
      if u.reg = 0 then s else
        let t := s.str
        s.setStr { t with dead := t.dead ||| ((1 : BitVec 32) <<< u.reg.toNat) }
    | .vector =>
      let x := s.ctx
      s.setCtx { x with vdead := x.vdead ||| ((1 : BitVec 32) <<< (physV x.v.rotb u.reg).val) }
    | .pred => s
  else s

/-- The 64-bit words that a mask covers whole. -/
def wholeWords (m : VReg) : BitVec 64 :=
  (List.range 64).foldl (fun w i => if (m.extractLsb' (64 * i) 64 : Word) = BitVec.allOnes 64 then w ||| ((1 : BitVec 64) <<< i) else w) 0

/-- One register of a result lands (R48, R50, R217): the bits of the mask change. A dead vector register of which only some
bits are written holds free values elsewhere. A write of a whole word takes its error mark off (R398). -/
def landOne (kind : RegKind) (r : Landing) (st : StrandId) (s : State) : State :=
  match kind with
  | .scalar => s.mapCtx fun x => x.setStrand st ((x.strand st).put r.reg (r.val.setWidth 64))
  | .pred =>
    let n := r.reg.setWidth 3
    let m := r.mask.setWidth 1024
    s.mapCtx fun x =>
      { x.putP n ((x.getP n &&& ~~~m) ||| (r.val.setWidth 1024 &&& m)) with
        pupset := if m = BitVec.allOnes 1024 then x.pupset &&& ~~~((1 : BitVec 8) <<< n.toNat) else x.pupset }
  | .vector =>
    let x := s.ctx
    let p := physV x.v.rotb r.reg
    let partly := r.mask ≠ BitVec.allOnes 4096
    let dead := x.vdead.getLsbD p.val
    let old := if dead && partly then Config.freeVec s.fresh else x.vregs[p.val]'p.isLt
    let new := if partly then (old &&& ~~~r.mask) ||| (r.val &&& r.mask) else r.val
    let clean := if x.vupset = 0 then 0 else x.vupset &&& ~~~(vectorMarks p (wholeWords r.mask))
    { s.setCtx { x with
        vregs := x.vregs.set p.val new p.isLt, vdead := x.vdead &&& ~~~((1 : BitVec 32) <<< p.val), vupset := clean } with
      fresh := if dead && partly then s.fresh + 1 else s.fresh }

def landAll (kind : RegKind) (st : StrandId) : List Landing → State → State
  | [], s => s
  | r :: rs, s => landAll kind st rs (landOne kind r st s)

/-- Words that a result carries as bad are marked in their register (R396, R397). -/
def markReg (kind : RegKind) (st : StrandId) (m : BitVec 64) (r : BitVec 5) (s : State) : State :=
  s.mapCtx fun x =>
    match kind with
    | .vector => { x with vupset := x.vupset ||| vectorMarks (physV x.v.rotb r) m }
    | .pred => { x with pupset := x.pupset ||| ((1 : BitVec 8) <<< r.toNat) }
    | .scalar => x.setStrand st { x.strand st with upset := (x.strand st).upset ||| ((1 : BitVec 32) <<< r.toNat) }

/-- A later instruction writes s_d at latency 1 in cycle c: a result that would land in s_d in c is lost, and one whose landing cycle is not
fixed is lost if it turns out to be c (R64). -/
def Flight.under (c : Nat) (d : BitVec 5) (f : Flight) : Flight :=
  if f.kind ≠ .scalar then f
  else if f.lands = some c then { f with regs := f.regs.filter fun r => r.reg ≠ d }
  else if f.lands.isNone && f.regs.any (fun r => r.reg = d) then { f with beaten := some c }
  else f

/-- Write s_d at latency 1 (R64). -/
def putS (d : BitVec 5) (v : Word) (s : State) : State :=
  let t := s.str
  s.setStr ({ t with flights := t.flights.map (Flight.under s.gcyc d) }.put d v)

/-- Results of latency 1 in the registers of a kind (R64, R67). -/
def putNow (kind : RegKind) (regs : List Landing) (s : State) : State :=
  let t := s.str
  let fs := t.flights.map fun f =>
    if f.kind = kind && f.lands = some s.gcyc then
      { f with regs := f.regs.filter fun r => !regs.any fun q => q.reg = r.reg && q.mask = BitVec.allOnes 4096 } else f
  landAll kind s.cur regs (s.setStr { t with flights := fs })

/-- A result in flight that lands at the end of issue + lat − 1 (R64, R65). -/
def fly (kind : RegKind) (regs : List Landing) (lat : Nat) (s : State) : State :=
  let t := s.str
  let c := s.gcyc + lat - 1
  addDue c 8 s.core.idx (.resultLanding s.core.idx)
    (s.setStr { t with flights := t.flights ++ [⟨kind, regs, some c, s.gcyc, true, false, false, none, 0, none⟩] })

/-- A result formed by an access or a gather, that lands at the end of cycle `lands` (or is not fixed yet); it holds a latch. -/
def flyFrom (id : Nat) (kind : RegKind) (regs : List Landing) (lands : Option Nat) (pend : Bool) (s : State)
    (late : Bool := false) : State :=
  let t := s.str
  let s := s.setStr { t with flights := t.flights ++ [⟨kind, regs, lands, s.gcyc, true, pend, late, some id, 0, none⟩] }
  match lands with
  | some c => addDue c 8 s.core.idx (.resultLanding s.core.idx) s
  | none => s

/-- Change the results that come from access or gather id, in the strands and in the frames of both contexts. -/
def mapFlight (id : Nat) (f : Flight → Flight) (s : State) : State :=
  let g := fun (t : Strand) => { t with flights := t.flights.map fun x => if x.access = some id then f x else x }
  let sv := fun (v : SavedStrand) => { v with st := g v.st }
  let cx := fun (x : Ctx) => { x with
    a := g x.a, v := g x.v
    frame := x.frame.map fun fr => { fr with sa := sv fr.sa, sv := sv fr.sv } }
  { s with core := { s.core with ctx := cx s.core.ctx, shadow := cx s.core.shadow } }

/-- A scalar result of latency lat. -/
def result (lat : Nat) (d : BitVec 5) (v : Word) (s : State) : State :=
  if lat ≤ 1 then putS d v s else fly .scalar [⟨d, v.setWidth 4096, BitVec.allOnes 4096⟩] lat s

/-- Results in vector or predicate registers. -/
def results (kind : RegKind) (lat : Nat) (regs : List Landing) (s : State) : State :=
  if lat ≤ 1 then putNow kind regs s else fly kind regs lat s

/-! ## Records (R352 to R355) -/

/-- A fault record's words (R352). -/
def mkRec (s : State) (code : Nat) (pc str agent : Nat) (val : Word) (retry : Bool) (rid : BitVec 16) : Rec :=
  { w0 := val
    w1 := BitVec.ofNat 64 (pc % 2 ^ 32 + str * 2 ^ 32 + agent * 2 ^ 34 + code * 2 ^ 40 + (if retry then 2 ^ 46 else 0)
      + rid.toNat * 2 ^ 48)
    w2 := BitVec.ofNat 64 s.gcyc
    w3 := BitVec.ofNat 64 (s.core.idx + s.vfOf * 2 ^ 10 + (if s.core.second then 2 ^ 14 else 0))
    refused := 0
    due := s.gcyc + 1 }

/-- A record enters the core's record buffer, which holds 8, or waits for room in it; the reporting port is due in the next cycle
(R354, R355). -/
def raiseRec (r : Rec) (s : State) : State :=
  addDue (s.gcyc + 1) 9 0 .recordWrite (s.mapEng fun e =>
    if e.recs.length < 8 && e.recWait.isEmpty then { e with recs := e.recs ++ [r] } else { e with recWait := e.recWait ++ [r] })

/-- An engine's terminal record. -/
def report (code pc str agent : Nat) (val : Word) (s : State) : State := raiseRec (mkRec s code pc str agent val false 0) s

/-- The other context takes the place of the running one, with what the core keeps for it (R358; log entry 33, DEDUCED). -/
def Core.flip (c : Core) : Core :=
  { c with
    ctx := c.shadow, shadow := c.ctx, second := !c.second
    domain := c.otherDomain, otherDomain := c.domain, syncmask := c.otherMask, otherMask := c.syncmask
    seg := c.otherSeg, otherSeg := c.seg, slip := c.otherSlip, otherSlip := c.slip
    deferred := c.otherDeferred, otherDeferred := c.deferred }

/-- Context 0 of a core, and context 1. -/
def Core.zero (c : Core) : Ctx := if c.second then c.shadow else c.ctx
def Core.one (c : Core) : Ctx := if c.second then c.ctx else c.shadow

/-- Work on the other context. -/
def withShadow (f : State → State) (s : State) : State :=
  let t := f { s with core := s.core.flip }
  { t with core := t.core.flip }

/-- Work on the context numbered by `second`. -/
def inCtx (second : Bool) (f : State → State) (s : State) : State := if s.core.second = second then f s else withShadow f s

/-- A terminal record of a command that the context numbered by `second` has issued. -/
def reportAs (second : Bool) (code pc str agent : Nat) (val : Word) (s : State) : State :=
  inCtx second (report code pc str agent val) s

/-- The record of an agent has found the buffer full: the agent starts nothing new (R355). -/
def agentHolds (agent : Nat) (c : Core) : Bool := c.eng.recWait.any fun r => fld r.w1 34 4 = BitVec.ofNat 4 agent

/-! ## Taking an exception and returning from one -/

/-- The priority class of a code (R335). -/
def excClass (code : Nat) : Nat :=
  if code = 0x12 || code = 0x13 then 1
  else if code = 1 || code = 2 then 2
  else if 3 ≤ code && code ≤ 8 then 3
  else if code = 0x1B then 5
  else if code = 0x1C || code = 0x1D then 6
  else 4

/-- TCAUSE as entry writes it (R338). -/
def causeOf (e : Exc) : Word :=
  BitVec.ofNat 64 (e.code.toNat + (if e.code = 0x1C then 0 else e.strand.num * 2 ^ 10)
    + (if e.impr then 2 ^ 14 else 0) + (if e.code = 0x1C then 2 ^ 15 else 0))

/-- The context is in its handler, from t to u − 1 (R340, R346). -/
def Ctx.inHandler (x : Ctx) (c : Nat) : Bool :=
  match x.handler with
  | .none => false
  | .returning u => c < u
  | _ => true

/-- A strand as the frame holds it (R341, R344): the results whose landing cycle is fixed go into the frame; a WAITG that
is serving its count is held and attempted again (R86, R87, R348). -/
def saveStrand (t : Nat) (st : Strand) : SavedStrand :=
  let keep := { st with flights := st.flights.filter fun f => f.lands ≠ none && !f.late }
  match st.waitg with
  | some w =>
    if t < st.next && !st.halted then
      ⟨{ keep with pc := w.pc, loops := w.loops, lc := w.lc, rotb := w.rotb, waitg := none, held := false }, 0, true⟩
    else ⟨{ keep with waitg := none, held := false }, 0, !st.halted⟩
  | none =>
    let held := !st.halted && (st.held || st.next ≤ t)
    ⟨{ keep with held := false }, if held || st.halted then 0 else st.next - t, held⟩

/-- What stays in the strand: results whose landing cycle is not fixed (R342); it has left timed mode (R286). -/
def leaveStrand (st : Strand) : Strand :=
  { st with flights := st.flights.filter fun f => f.lands = none || f.late, held := false, waitg := none, timed := false }

/-- An access that entry cancels: not translated, or halted with the unit (R342). -/
def Access.untranslated (a : Access) : Bool := a.p.isNone

/-- The group ends with an error: nothing more issues, and what entry held back is dropped (R343). -/
def failGroup (cause : Word) (s : State) : State :=
  let x := s.ctx
  let keep := fun (f : Flight) => f.lands ≠ none || x.acc.any fun a => some a.id = f.access && !a.cancelled
  let halt := fun (t : Strand) => { t with halted := true, held := false, waitg := none, flights := t.flights.filter keep }
  addDue s.gcyc 9 s.core.idx (.groupEnd s.core.idx)
    (s.setCtx { x with
      c := halt x.c, a := halt x.a, v := halt x.v, m := halt x.m
      frame := none
      acc := x.acc.filter fun a => !a.cancelled
      handler := .none
      group := x.group.map fun g => { g with failed := some (((x.frame.map fun f => f.tcyc).getD s.gcyc), cause) } })

/-- The record tells of a page not present that the context numbered by `second` has found in cycle c, with its reply awaited. -/
def Rec.pageNow (c : Nat) (second : Bool) (r : Rec) : Bool :=
  fld r.w1 40 6 = 0x06 && bit r.w1 46 && !bit r.w1 47 && r.w2 = BitVec.ofNat 64 c && bit r.w3 14 = second

/-- Up to n of the records in a buffer attach to a frame: PEND := 1 (R351, R352). -/
def pendRecs (c : Nat) (second : Bool) : Nat → List Rec → List Rec
  | 0, rs => rs
  | _, [] => []
  | n + 1, r :: rs =>
    if r.pageNow c second then { r with w1 := r.w1 ||| BitVec.ofNat 64 (2 ^ 47) } :: pendRecs c second n rs
    else r :: pendRecs c second (n + 1) rs

/-- The records of a page not present that were found in the trap cycle before the trap attach to its frame, at most four (R351, R362). -/
def attachNow (s : State) : State :=
  let e := s.core.eng
  let b := s.core.second
  let found := ((e.recs ++ e.recWait).filter (Rec.pageNow s.gcyc b)).take 4
  if found.isEmpty then s else
  let m := (e.recs.filter (Rec.pageNow s.gcyc b)).length
  let s := s.mapEng fun e => { e with recs := pendRecs s.gcyc b 4 e.recs, recWait := pendRecs s.gcyc b (4 - m) e.recWait }
  let s := s.mapCtx fun x => { x with frame := x.frame.map fun f => { f with
    pfr := found.map fun r => { r with w1 := r.w1 ||| BitVec.ofNat 64 (2 ^ 47) } } }
  { s with core := { s.core with tcause := s.core.tcause ||| 0x2000 } }

/-- Taking an exception at the cycle of the state (R340 to R344). In the handler a precise exception is a double trap
(R343). -/
def enterTrap (e : Exc) (s : State) : State :=
  let t := s.gcyc
  let x := s.ctx
  if x.inHandler t then
    failGroup s.core.tcause
      (report e.code.toNat (x.strand e.strand).pc e.strand.num 0 (causeOf e) s)
  else
    let sc := saveStrand t x.c
    let fr : Frame :=
      { tcause := causeOf e, tval := e.tval, tcyc := t
        sc := sc, sa := saveStrand t x.a, sv := saveStrand t x.v, sm := saveStrand t x.m
        segv := s.core.seg.isSome, gate := x.gate, pfr := [] }
    let hnd := 4 * (fld s.core.trapbase 2 30).toNat
    let c := leaveStrand x.c
    attachNow <| count 0x0B 1 <| stage (.frameHead s.core.idx s.core.second) <| addDue (t + 40) 2 s.core.idx (.handlerStart s.core.idx)
      { s with core := { s.core with
          tcause := causeOf e
          tval := e.tval
          seg := s.core.seg.map fun g => { g with void := true }
          ctx := { x with
            c := { c with pc := hnd, loops := [], rotb := 0, halted := false, xpc := BitVec.ofNat 64 sc.st.pc,
                          asleep := false }
            a := leaveStrand x.a
            v := leaveStrand x.v
            m := leaveStrand x.m
            acc := x.acc.map fun a => if a.untranslated then { a with cancelled := true } else a
            handler := .entering (t + 40)
            frame := some fr } } }

/-- A precise exception of the strand whose instruction is being executed. -/
def precise (code : BitVec 6) (tval : Word) (s : State) : State :=
  let e : Exc := ⟨code, tval, s.cur, false⟩
  { enterTrap e s with verdict := .trapped e }

/-- Results in flight of two lists, in issue order each, in the order of their issues (R64). -/
def mergeFlights : List Flight → List Flight → List Flight
  | [], bs => bs
  | a :: as, bs => bs.filter (fun b => b.issued < a.issued) ++ a :: mergeFlights as (bs.filter fun b => a.issued ≤ b.issued)

/-- A strand as RETT leaves it: the frame's record, with what landed meanwhile (R346). A WAIT's remainder that is wider than the frame's
IDLE field runs whole (R87; log entry 34, DESIGN CHOICE). A SLEEP that it returns to is attempted again, and one that it does not return to
has ended (R377). -/
def restoreStrand (u t : Nat) (live : Strand) (f : SavedStrand) : Strand :=
  { f.st with
    regs := live.regs
    dead := live.dead
    upset := live.upset
    flights := mergeFlights live.flights (f.st.flights.map fun g => { g with lands := g.lands.map fun l => l + u - t })
    next := u + f.idle
    idleFrom := u
    held := false
    asleep := false }

/-- Strand C as RETT leaves it: the frame's record with PC := XPC, whose bits 1:0 do not count (log entry 34, DESIGN CHOICE); one that had
halted before the trap stays halted (R340, R346). -/
def restoreC (u t : Nat) (live : Strand) (f : SavedStrand) : Strand :=
  if f.st.halted then
    { live with halted := true, held := false, waitg := none, timed := f.st.timed
                flights := mergeFlights live.flights (f.st.flights.map fun g => { g with lands := g.lands.map fun l => l + u - t }) }
  else
    { restoreStrand u t { live with regs := f.st.regs, dead := f.st.dead, upset := f.st.upset } f with
      pc := live.xpc.toNat / 4 * 4, xpc := live.xpc }

/-- The return from the handler at the cycle of the state (R346). -/
def returnTrap (s : State) : State :=
  let x := s.ctx
  match x.frame with
  | none => s
  | some f =>
    let u := s.gcyc + 32
    let x' := { x with
      c := restoreC u f.tcyc x.c f.sc
      a := restoreStrand u f.tcyc x.a f.sa
      v := restoreStrand u f.tcyc x.v f.sv
      m := restoreStrand u f.tcyc x.m f.sm
      gate := f.gate
      handler := .returning u }
    let wake := fun (s : State) (g : Flight) =>
      match g.lands with | some l => addDue l 8 s.core.idx (.resultLanding s.core.idx) s | none => s
    (x'.c.flights ++ x'.a.flights ++ x'.v.flights ++ x'.m.flights).foldl wake
      (addDue u 2 s.core.idx (.handlerStart s.core.idx) (addDue u 9 s.core.idx (.groupEnd s.core.idx) (s.setCtx x')))

/-! ## Issue -/

/-- Why an instruction does not issue now: it holds (in timed mode that is a schedule violation, R287), it serves a wait that is
fixed in timed mode too, or its own description raises an exception. -/
inductive Stop where
  | hold
  | wait
  | trap (code : BitVec 6) (tval : Word)
  deriving DecidableEq, Repr

/-- What an instruction's effect gives beside the state: the target of a taken transfer, and cycles its own description adds to
the issue distance (R37, R79, R287). -/
structure Eff where
  st   : State
  goto : Option Nat
  skip : Option Nat      -- the next PC where LOOP and LOOPS give it; not a transfer (R79, R81)
  wait : Nat

/-- An effect that neither transfers nor waits; a taken transfer; a wait of n cycles. -/
def plain (s : State) : Eff := ⟨s, none, none, 0⟩
def jump (s : State) (t : Nat) : Eff := ⟨s, some t, none, 0⟩
def after (s : State) (n : Nat) : Eff := ⟨s, none, none, n⟩

/-- The latches and vector registers in flight that an instruction's result needs (R65, R341). -/
structure Need where
  latch : Bool
  vregs : Nat

def noNeed : Need := ⟨false, 0⟩
def oneLatch : Need := ⟨true, 0⟩
def latchV (n : Nat) : Need := ⟨true, n⟩

/-- The word being executed. -/
def State.word (s : State) : W32 := s.str.image.getD (s.str.pc / 4) 0

/-- The SYNCMASK rule fails for an S = 1 instruction of the executing strand (R290). -/
def syncStop (h : Hdr) (s : State) : Option Stop :=
  if h.s && s.core.syncmask.getLsbD s.cur.num && s.plan.apart.getLsbD s.cur.num then
    let due := s.plan.due.foldl
      (fun m p => if bit p.word 30 && s.core.syncmask.getLsbD p.st.num then m ||| (2 ^ p.st.num) else m) 0
    if s.str.timed then some (.trap 0x0D (BitVec.ofNat 64 (s.core.syncmask.toNat + 16 * due))) else some .hold
  else none

/-- The first dead register among the reads, where DEADCHK asks for the trap (R51, R339). -/
def deadStop (us : List Use) (s : State) : Option Stop :=
  if s.str.deadchk then
    match us.find? fun u => s.ctx.isDead s.cur u with
    | some u => some (.trap 0x02 (BitVec.ofNat 64 (s.word.toNat * 2 ^ 32 + u.kind.num * 256 + u.reg.toNat)))
    | none => none
  else none

/-- A register that is read holds an error that cannot be corrected, and the instruction does not carry it on (R397); TVAL is the register as R339 gives it. -/
def upsetStop (us : List Use) (s : State) : Option Stop :=
  match us.find? fun u => !u.moves && s.ctx.isUpset s.cur u with
  | some u => some (.trap 0x13 (BitVec.ofNat 64 (s.word.toNat * 2 ^ 32 + u.kind.num * 256 + u.reg.toNat)))
  | none => none

/-- No latch is free, or strand V holds too many vector registers in flight (R65, R341). -/
def latchStop (n : Need) (s : State) : Option Stop :=
  let fs := s.str.flights.filter fun f => f.latch
  let vs := (fs.filter fun f => f.kind = .vector).foldl (fun k f => k + f.regs.length) 0
  if n.latch && (8 ≤ fs.length || (s.cur = .V && 0 < n.vregs && 16 < vs + n.vregs)) then some .hold else none

/-- The access is pending in cycle c: from its issue through its perform cycle (R190). -/
def Access.pendingAt (c : Nat) (a : Access) : Bool := match a.p with | none => true | some p => c ≤ p

/-- The access with this identifier is pending. -/
def State.pendingId (s : State) (id : Nat) : Bool := s.ctx.acc.any fun a => a.id = id && a.pendingAt s.gcyc

/-- The write-combining entry holds bytes of an access of strand A below the id (R301). -/
def WcEntry.before (id : Nat) (e : WcEntry) : Bool := e.first.any fun a => decide (a < id)

/-- It holds bytes of strand A. -/
def WcEntry.hasA (e : WcEntry) : Bool := e.first.isSome

/-- Strand A's waits of R204, R206 and R207 are not over. -/
def gateStop (s : State) : Option Stop :=
  if s.cur = .A && (s.ctx.gate.all.any s.pendingId || s.core.eng.wc.any (WcEntry.before s.ctx.gate.wc))
  then some .wait else none

/-- The stage predicates of LOOPS, written in the issue cycle of a first body word (R83). -/
def stageValue (l : Loop) (lc : BitVec 32) (j : Nat) : PReg :=
  let n := l.trips.toNat
  let i := n + l.stages.toNat - lc.toNat
  if j ≤ i && i < n + j then BitVec.allOnes 1024 else 0

def stageLoop (l : Loop) (s : State) : State :=
  if l.stages ≠ 0 && l.first = s.str.pc then
    let lc := s.str.lc[l.lc.toNat]'l.lc.isLt
    let x := s.ctx
    let drop := fun (f : Flight) =>
      if f.kind = .pred && f.lands = some s.gcyc then { f with regs := f.regs.filter fun r => r.reg.toNat < 4 } else f
    let x := { x with v := { x.v with flights := x.v.flights.map drop }, a := { x.a with flights := x.a.flights.map drop } }
    let x := (((x.putP 4 (stageValue l lc 0)).putP 5 (stageValue l lc 1)).putP 6 (stageValue l lc 2)).putP 7 (stageValue l lc 3)
    s.setCtx { x with pupset := x.pupset &&& 0x0F }
  else s

/-- The executing word is the first body word of an active LOOPS of strand V: it writes the stage predicates (R83). -/
def State.staging (s : State) : Bool := s.cur = .V && s.str.loops.any fun l => l.stages ≠ 0 && l.first = s.str.pc

def stagePreds (s : State) : State :=
  if s.cur = .V then s.str.loops.foldr stageLoop s else s

/-- The state as the instruction reads it: its stage predicates written, dead registers holding free values (R51, R83). -/
def readied (us : List Use) (s : State) : State := us.foldl (fun s u => refreshDead u s) (stagePreds s)

/-- What happens before the instruction's own effect: its reads, and its last uses (R50). -/
def prepare (us : List Use) (s : State) : State :=
  let s := us.foldl (fun s u => kill u s) (readied us s)
  s.setStr { s.str with waitg := none }

/-- Every reason for which the instruction does not issue, in the order sync, waits, pending, errors, dead, own checks, latch
(R336; log entry 16, DEDUCED). Its own checks see the
values it will read. -/
def stops (h : Hdr) (us : List Use) (n : Need) (check : State → Option Stop) (s : State) : Option Stop :=
  match gateStop s with
  | some x => some x
  | none =>
  match syncStop h s with
  | some x => some x
  | none =>
    if us.any fun u => s.ctx.isPending s.cur u then some .hold else
    match upsetStop us (stagePreds s) with
    | some x => some x
    | none =>
    match deadStop us s with
    | some x => some x
    | none =>
      match check (readied us s) with
      | some x => some x
      | none => latchStop n s

/-- What the loop ends at a word do (R79, R80, R82): next PC if some loop goes back, the loops, and the counters. -/
def loopEnds (first last : Nat) : List Loop → Vector (BitVec 32) 4 → Option Nat × List Loop × Vector (BitVec 32) 4
  | [], lc => (none, [], lc)
  | l :: ls, lc =>
    if first ≤ l.last && l.last ≤ last then
      if !l.brk && 1 < (lc[l.lc.toNat]'l.lc.isLt).toNat then
        (some l.first, l :: ls, lc.set l.lc.toNat (lc[l.lc.toNat]'l.lc.isLt - 1) l.lc.isLt)
      else loopEnds first last ls (lc.set l.lc.toNat 0 l.lc.isLt)
    else
      let r := loopEnds first last ls lc
      (r.1, l :: r.2.1, r.2.2)

/-- The steps of ROTB that an issue of these words makes: one for each active LOOPS whose end word is among them, whether it goes
back, falls through or is left by a taken transfer (R83). -/
def endRots (first last : Nat) (ls : List Loop) : Nat :=
  (ls.filter fun l => l.stages ≠ 0 && first ≤ l.last && l.last ≤ last).length

/-- n steps of the executing strand's ROTB at the end of the cycle (R83). -/
def stageRots : Nat → State → State
  | 0, s => s
  | n + 1, s => stageRots n (stage (.rot s.core.idx s.core.second s.cur) s)

/-- The strand after an issue: next PC, loops, and the cycle of the next issue (R37, R63, R77, R79 to R83). `pc` is the word's. -/
def retire (h : Hdr) (long : Bool) (pc : Nat) (e : Eff) : State :=
  let s := e.st
  let t := s.str
  let next := s.gcyc + 1 + h.i.toNat + e.wait
  let last := if long then pc + 4 else pc
  match e.goto, e.skip with
  | some g, _ =>
    stageRots (endRots pc last t.loops)
      { s.setStr { t with pc := g, loops := t.loops.filter (fun l => l.first ≤ g && g ≤ l.last), next := next, held := false } with
        verdict := .issued }
  | none, some g => { s.setStr { t with pc := g, next := next, held := false } with verdict := .issued }
  | none, none =>
    let r := loopEnds pc last t.loops t.lc
    stageRots (endRots pc last t.loops)
      { s.setStr { t with pc := r.1.getD (last + 4), loops := r.2.1, lc := r.2.2, next := next, held := false } with
        verdict := .issued }

/-- The instruction is attempted again in the next cycle (R348). -/
def linger (s : State) : State := { s.setStr { s.str with held := true, next := s.gcyc + 1 } with verdict := .held }

/-- The instruction holds its issue in free mode; in timed mode it takes schedule violation (R287). -/
def stall (s : State) : State := if s.str.timed then precise 0x0D 0 s else linger s

/-- Issue one instruction of the executing strand: its stops, its reads, its effect, and what follows (R37, R63, R64). -/
def issue (h : Hdr) (long : Bool) (us : List Use) (n : Need) (check : State → Option Stop) (eff : State → Eff) (s : State) :
    Out :=
  match stops h us n check s with
  | some .hold => .next (stall s)
  | some .wait => .next (linger s)
  | some (.trap code tval) => .next (precise code tval s)
  | none => .next (retire h long s.str.pc (eff (prepare us s)))

/-- An instruction that makes no check of its own. -/
def noCheck (_ : State) : Option Stop := none

/-- A short instruction that writes one scalar (R64, R67). -/
def issueS (h : Hdr) (us : List Use) (lat : Nat) (d : BitVec 5) (v : State → Word) (s : State) : Out :=
  issue h false us (if lat ≤ 1 then noNeed else oneLatch) noCheck (fun s => plain (result lat d (v s) s)) s

/-! ## Events -/

/-- An event of core k; a core the part does not have is no such unit (R2). -/
def onCore (k : Nat) (f : State → State) (s : State) : Out :=
  if k < Config.cores then .next (f (focus k s)) else .fault .noSuchUnit

/-- An event of a unit that must exist. -/
def onUnit (ok : Bool) (f : State → State) (s : State) : Out := if ok then .next (f s) else .fault .noSuchUnit

end Sys2Proof.Machine
end

