-- ==== Sys2Proof/Machine/Cipher.lean ====
section
/-!
DEFINITION. Machine/Cipher.lean: AES-256-GCM as R184 uses it: a 96-bit IV, 256 bytes of text, no additional data, a tag of 128 bits. Keys, IVs
and blocks are read with their first byte most significant (log entry 21, PRESUMED: the cipher's own standards, FIPS 197 and SP 800-38D).
-/
namespace Sys2Proof.Machine

/-! ## The block cipher -/

/-- Multiplication by x in the field of 2^8 elements, and by any element. -/
def gfTwice (b : Byte) : Byte := (b <<< 1) ^^^ (if b.getLsbD 7 then 0x1B else 0)
def gfTimes (a b : Byte) : Byte :=
  ((List.range 8).foldl (fun (r : Byte × Byte) i => (if b.getLsbD i then r.1 ^^^ r.2 else r.1, gfTwice r.2)) (0, a)).1

/-- The inverse in the field, as the 254th power; 0 for 0. -/
def gfInverse (b : Byte) : Byte :=
  let two := gfTimes b b
  let three := gfTimes two b
  let twelve := gfTimes (gfTimes three three) (gfTimes three three)
  let fifteen := gfTimes twelve three
  let sixteenth := fun (x : Byte) => (List.range 4).foldl (fun y _ => gfTimes y y) x
  gfTimes (sixteenth fifteen) (gfTimes twelve two)

/-- SubBytes on one byte. -/
def subByte (b : Byte) : Byte :=
  let i := gfInverse b
  i ^^^ i.rotateLeft 1 ^^^ i.rotateLeft 2 ^^^ i.rotateLeft 3 ^^^ i.rotateLeft 4 ^^^ 0x63

def xorBytes (a b : List Byte) : List Byte := List.zipWith (· ^^^ ·) a b

/-- The 60 words of the key schedule. -/
def keyWords (key : List Byte) : List (List Byte) :=
  (List.range 52).foldl (fun ws j =>
    let t := ws.getD (j + 7) []
    let t := if j % 8 = 0 then
        xorBytes ((t.drop 1 ++ t.take 1).map subByte) [BitVec.ofNat 8 (2 ^ (j / 8)), 0, 0, 0]
      else if j % 8 = 4 then t.map subByte else t
    ws ++ [xorBytes (ws.getD j []) t]) ((List.range 8).map fun j => (key.drop (4 * j)).take 4)

/-- ShiftRows, and MixColumns on one column. -/
def shiftRows (b : List Byte) : List Byte := (List.range 16).map fun i => b.getD ((i + 4 * (i % 4)) % 16) 0
def mixColumn (c : List Byte) : List Byte :=
  (List.range 4).map fun r => gfTwice (c.getD r 0) ^^^ gfTimes (c.getD ((r + 1) % 4) 0) 3 ^^^ c.getD ((r + 2) % 4) 0 ^^^ c.getD ((r + 3) % 4) 0
def mixColumns (b : List Byte) : List Byte := (List.range 4).flatMap fun j => mixColumn ((b.drop (4 * j)).take 4)

/-- One round under four words of the schedule; the last round mixes no columns. -/
def aesRound (last : Bool) (k b : List Byte) : List Byte :=
  let t := shiftRows (b.map subByte)
  xorBytes (if last then t else mixColumns t) k

/-- The n bytes of a number, most significant first. -/
def bigBytes (n x : Nat) : List Byte := (leBytes n x).reverse
def bigNat (bs : List Byte) : Nat := leNat bs.reverse

/-- One block enciphered under a schedule. -/
def aesBlock (ws : List (List Byte)) (x : BitVec 128) : BitVec 128 :=
  let key := fun (r : Nat) => ((ws.drop (4 * r)).take 4).flatten
  let b := (List.range 14).foldl (fun b r => aesRound (r = 13) (key (r + 1)) b) (xorBytes (bigBytes 16 x.toNat) (key 0))
  BitVec.ofNat 128 (bigNat b)

def aesKey (key : BitVec 256) : List (List Byte) := keyWords (bigBytes 32 key.toNat)

/-! ## The mode -/

/-- The text xored with the key stream: enciphering and deciphering alike. -/
def gcmCipher (key : BitVec 256) (iv : BitVec 96) (text : List Byte) : List Byte :=
  let ws := aesKey key
  xorBytes text ((List.range ((text.length + 15) / 16)).flatMap fun j => bigBytes 16 (aesBlock ws (iv ++ BitVec.ofNat 32 (j + 2))).toNat)

/-- Multiplication in the field of 2^128 elements; the most significant bit is the constant term. -/
def ghashTimes (x h : BitVec 128) : BitVec 128 :=
  ((List.range 128).foldl (fun (r : BitVec 128 × BitVec 128) i =>
    (if x.getMsbD i then r.1 ^^^ r.2 else r.1, (r.2 >>> 1) ^^^ (if r.2.getLsbD 0 then (0xE1 : BitVec 128) <<< 120 else 0))) (0, h)).1

/-- The tag of a ciphertext of whole blocks. -/
def gcmTag (key : BitVec 256) (iv : BitVec 96) (cipher : List Byte) : BitVec 128 :=
  let ws := aesKey key
  let h := aesBlock ws 0
  let blocks := (List.range (cipher.length / 16)).map fun j => BitVec.ofNat 128 (bigNat ((cipher.drop (16 * j)).take 16))
  let g := (blocks ++ [BitVec.ofNat 128 (8 * cipher.length)]).foldl (fun y x => ghashTimes (y ^^^ x) h) 0
  g ^^^ aesBlock ws (iv ++ BitVec.ofNat 32 1)

end Sys2Proof.Machine
end

