-- ==== Sys2Proof/Machine/Numbers.lean ====
section
/-!
DEFINITION. Machine/Numbers.lean: number formats, exact arithmetic on their values and the rounding functions (R118 to R140). A
finite value is kept exact, as a sign, a magnitude m and an exponent e: m·2^e.
-/
namespace Sys2Proof.Machine

/-- The floating-point formats (R127, R128). -/
inductive FloatFmt where
  | f32 | bf16 | f8
  deriving DecidableEq, Repr

/-- Fraction bits. -/
def FloatFmt.frac : FloatFmt → Nat
  | .f32 => 23 | .bf16 => 7 | .f8 => 3

/-- Width in bits. -/
def FloatFmt.width : FloatFmt → Nat
  | .f32 => 32 | .bf16 => 16 | .f8 => 8

/-- Exponent of the smallest subnormal: the quantum at the bottom of the range (R127, R128). -/
def FloatFmt.qmin : FloatFmt → Int
  | .f32 => -149 | .bf16 => -133 | .f8 => -9

/-- Bits of the largest finite value, sign 0. -/
def FloatFmt.top : FloatFmt → Nat
  | .f32 => 0x7F7FFFFF | .bf16 => 0x7F7F | .f8 => 0x7E

/-- Canonical NaN (R127, R128). -/
def FloatFmt.nan : FloatFmt → Nat
  | .f32 => 0x7FC00000 | .bf16 => 0x7FC0 | .f8 => 0x7F

/-- A value of a floating-point format, exact (R127 to R130). -/
inductive Num where
  | nan
  | inf (neg : Bool)
  | fin (neg : Bool) (m : Nat) (e : Int)
  deriving DecidableEq, Repr

/-- The value a pattern denotes. -/
def Num.ofBits (f : FloatFmt) (b : Nat) : Num :=
  let p := f.frac
  let neg := b / 2 ^ (f.width - 1) % 2 = 1
  let ex := b / 2 ^ p % 2 ^ (f.width - 1 - p)
  let fr := b % 2 ^ p
  let emax := 2 ^ (f.width - 1 - p) - 1
  match f with
  | .f8 =>
    if ex = 15 && fr = 7 then .nan
    else if ex = 0 then .fin neg fr f.qmin else .fin neg (8 + fr) (f.qmin + ex - 1)
  | _ =>
    if ex = emax then (if fr = 0 then .inf neg else .nan)
    else if ex = 0 then .fin neg fr f.qmin else .fin neg (2 ^ p + fr) (f.qmin + ex - 1)

/-- The exact value of an integer; zero is +0. -/
def Num.ofInt (x : Int) : Num := .fin (x < 0) x.natAbs 0

/-- Rounding modes: RNE, RTZ (R133), and SR with its byte (R134). -/
inductive RMode where
  | rne | rtz | sr (g : Nat)
  deriving DecidableEq, Repr

/-- Does the magnitude a + r/2^k round up to a + 1? -/
def roundsUp (md : RMode) (a r k : Nat) : Bool :=
  match md with
  | .rne => 2 ^ k < 2 * r || (2 * r = 2 ^ k && a % 2 = 1 && 0 < k)
  | .rtz => false
  | .sr g => 2 ^ k * 256 ≤ r * 256 + g * 2 ^ k && 0 < k

/-- m·2^e as a multiple of 2^q, rounded by the mode (R133, R134). -/
def roundTo (md : RMode) (m : Nat) (e q : Int) : Nat :=
  if q ≤ e then m * 2 ^ (e - q).toNat
  else
    let k := (q - e).toNat
    let a := m / 2 ^ k
    let r := m % 2 ^ k
    if roundsUp md a r k then a + 1 else a

/-- Round an exact value into a format (R133, R134). -/
def Num.round (md : RMode) (f : FloatFmt) : Num → Nat
  | .nan => f.nan
  | .inf neg =>
    let s := if neg then 2 ^ (f.width - 1) else 0
    match f with
    | .f8 => s + f.top
    | _ => s + f.top + 1
  | .fin neg m e =>
    let s := if neg then 2 ^ (f.width - 1) else 0
    if m = 0 then s else
      let ex : Int := e + m.log2
      let q := max (ex - f.frac) f.qmin
      let b := (q - f.qmin).toNat * 2 ^ f.frac + roundTo md m e q
      if b ≤ f.top then s + b
      else match f, md with
        | .f8, _ => s + f.top
        | _, .rne => s + f.top + 1
        | _, _ => s + f.top

/-- Round an exact value to an integer between lo and hi (R135). -/
def Num.toInt (md : RMode) (lo hi : Int) : Num → Int
  | .nan => 0
  | .inf neg => if neg then lo else hi
  | .fin neg m e =>
    let y : Int := roundTo md m e 0
    let y := if neg then -y else y
    if y < lo then lo else if hi < y then hi else y

/-- Signed magnitude at exponent q ≤ e. -/
def scaled (neg : Bool) (m : Nat) (e q : Int) : Int :=
  let x : Int := m * 2 ^ (e - q).toNat
  if neg then -x else x

/-- An exact sum (R129, R130). -/
def Num.add : Num → Num → Num
  | .nan, _ | _, .nan => .nan
  | .inf a, .inf b => if a = b then .inf a else .nan
  | .inf a, .fin .. => .inf a
  | .fin .., .inf b => .inf b
  | .fin sa ma ea, .fin sb mb eb =>
    let q := min ea eb
    let t := scaled sa ma ea q + scaled sb mb eb q
    if t = 0 then .fin (sa && sb && ma = 0 && mb = 0) 0 q else .fin (t < 0) t.natAbs q

/-- An exact product (R129, R130). -/
def Num.mul : Num → Num → Num
  | .nan, _ | _, .nan => .nan
  | .inf a, .inf b => .inf (a != b)
  | .inf a, .fin b m _ => if m = 0 then .nan else .inf (a != b)
  | .fin a m _, .inf b => if m = 0 then .nan else .inf (a != b)
  | .fin sa ma ea, .fin sb mb eb => .fin (sa != sb) (ma * mb) (ea + eb)

/-- The sign inverted. -/
def Num.neg : Num → Num
  | .nan => .nan
  | .inf a => .inf !a
  | .fin a m e => .fin (!a) m e

/-- An exact sum of a list, from left to right; the sum of none is +0. -/
def Num.sum : List Num → Num
  | [] => .fin false 0 0
  | x :: xs => xs.foldl Num.add x

/-- x < y, for values that are not NaN; −0 and +0 are equal. -/
def Num.lt : Num → Num → Bool
  | .nan, _ | _, .nan => false
  | .inf a, .inf b => a && !b
  | .inf a, .fin .. => a
  | .fin .., .inf b => !b
  | .fin sa ma ea, .fin sb mb eb => let q := min ea eb; decide (scaled sa ma ea q < scaled sb mb eb q)

/-- x = y as values; NaN equals nothing. -/
def Num.eq : Num → Num → Bool
  | .nan, _ | _, .nan => false
  | x, y => !x.lt y && !y.lt x

/-- Two's complement value of the low w bits (R120). -/
def signedOf (w b : Nat) : Int := if 2 ^ (w - 1) ≤ b % 2 ^ w then (b % 2 ^ w : Int) - 2 ^ w else (b % 2 ^ w : Int)

/-- The pattern of an integer at width w (R120). -/
def patOf (w : Nat) (x : Int) : Nat := (x % (2 ^ w : Int)).toNat

/-- SAT_w and SATN_w as patterns (R121). -/
def satPat (w : Nat) (x : Int) : Nat :=
  let lo : Int := -(2 ^ (w - 1))
  let hi : Int := 2 ^ (w - 1) - 1
  patOf w (if x < lo then lo else if hi < x then hi else x)
def satnPat (w : Nat) (x : Int) : Nat :=
  let hi : Int := 2 ^ w - 1
  patOf w (if x < 0 then 0 else if hi < x then hi else x)

/-- One term of an spt2 element (R126), times 2^6. -/
def sptTerm (neg : Bool) (e : Nat) : Int := if e = 7 then 0 else let x : Int := 2 ^ (6 - e); if neg then -x else x

/-- The value of an spt2 code (R126): exact, and a zero sum is +0. -/
def sptNum (c : Nat) : Num :=
  let v := sptTerm (c / 128 % 2 = 1) (c / 16 % 8) + sptTerm (c / 8 % 2 = 1) (c % 8)
  .fin (v < 0) v.natAbs (-6)

/-- The weight of a bp12 element at perturbation e, a bf16 pattern (R131, R132). -/
def bp12Weight (b : Nat) (e : Int) : Nat :=
  let mu := Num.ofBits .f8 (b / 16)
  let l := signedOf 4 (b % 16)
  match mu with
  | .nan => 0x7FC0
  | _ =>
    if l = -8 || e = 0 then mu.round .rne .bf16
    else (Num.add mu (.fin (e < 0) e.natAbs (l - 7))).round .rne .bf16

/-- A block scale (R123): none for a NaN block. -/
def scaleNum (s12 : Nat) : Option Num :=
  let e := s12 / 16 % 256
  if e = 255 then none
  else if e = 0 then some (.fin false 0 0)
  else some (.fin false (16 + s12 % 16) (e - 131))

end Sys2Proof.Machine
end

