-- ==== Sys2Proof/Machine/Operands.lean ====
section
/-!
DEFINITION. Machine/Operands.lean: the operand forms: which registers an instruction's fields read, pointers, lanes of a
vector register, token specifications and immediates.
-/
namespace Sys2Proof.Machine

/-! ## Register fields (R40, R50) -/

def usesR3 (f : R3) : List Use := [useS f.a f.la, useS f.b f.lb]
def usesR2 (f : R2) : List Use := [useS f.a f.la]
def usesRI10 (f : RI10) : List Use := [useS f.a f.la]

/-- Immediates, sign-extended to 64 bits (R72, R73). -/
def sext10 (i : BitVec 10) : Word := i.signExtend 64
def sext16 (i : BitVec 16) : Word := i.signExtend 64

/-! ## Pointers (R71, R95) -/

/-- LEA: the signed value b is added to the offset; a pointer that leaves the offset field becomes non-canonical (R71). -/
def lea (a b : Word) : Word :=
  let t : Int := (fld a 0 48).toNat + b.toInt
  if 0 ≤ t ∧ t < 2 ^ 48 then fld a 48 16 ++ BitVec.ofInt 48 t
  else (0xF : BitVec 4) ++ fld a 48 12 ++ BitVec.ofInt 48 t

def ptrSpace (p : Word) : Nat := (fld p 60 4).toNat
def ptrClu (p : Word) : Nat := (fld p 53 7).toNat
def ptrCore (p : Word) : Nat := (fld p 50 3).toNat
def ptrWin (p : Word) : Nat := (fld p 54 6).toNat
def ptrOff (p : Word) : Nat := (fld p 0 48).toNat
/-- The package core index a PEER or BARRIER pointer names (R2, R3). -/
def ptrIdx (p : Word) : Nat := 8 * ptrClu p + ptrCore p

/-- A canonical pointer (R95, R97). -/
def canonical (p : Word) : Bool :=
  let sp := ptrSpace p
  if sp = 0 || sp = 2 || sp = 7 then fld p 48 12 = 0
  else if sp = 1 || sp = 4 then fld p 48 5 = 0 && ptrClu p < 96
  else if sp = 3 || sp = 6 then fld p 48 2 = 0 && ptrClu p < 96
  else sp = 5 && fld p 48 6 = 0

/-! ## Lanes (R118, R215) -/

/-- The lanes of width w of a register, as patterns. -/
def lanes (w : Nat) (v : VReg) : List Nat := (List.range (4096 / w)).map fun i => v.toNat / 2 ^ (w * i) % 2 ^ w

/-- A number from digits of width w, the first the lowest. -/
def packNat (w : Nat) : List Nat → Nat
  | [] => 0
  | x :: xs => x % 2 ^ w + 2 ^ w * packNat w xs

/-- A register from its lanes. -/
def ofLanes (w : Nat) (xs : List Nat) : VReg := BitVec.ofNat 4096 (packNat w xs)

/-- Every lane of width w holds x. -/
def splat (w x : Nat) : VReg := ofLanes w (List.replicate (4096 / w) x)

/-- The bytes of a register and back (R118). -/
def regBytes (v : VReg) : List Byte := (lanes 8 v).map fun x => BitVec.ofNat 8 x
def bytesReg (bs : List Byte) : VReg := ofLanes 8 (bs.map BitVec.toNat)

/-- Consecutive register names; v31 is followed by v16 when the group lies in v16 to v31 only by its physical mapping, which each
name takes separately (R219, R237). -/
def groupName (v : BitVec 5) (j : Nat) : BitVec 5 := v + BitVec.ofNat 5 j

/-- Element i of a group of k registers lies in name v + (i mod k), lane i / k (R219, R237): interleave the lanes. -/
def interleave (xss : List (List Nat)) (n : Nat) : List Nat :=
  let k := xss.length
  (List.range n).map fun i => (xss.getD (i % k) []).getD (i / k) 0

/-- The lanes of register j of a group of k, from the elements in order. -/
def deal (k j : Nat) (xs : List Nat) : List Nat := (List.range (xs.length / k)).map fun i => xs.getD (i * k + j) 0

/-! ## Token specifications (R43) -/

/-- The scalar register that the k field names. -/
def kReg (k : BitVec 3) : BitVec 5 := BitVec.ofNat 5 (24 + k.toNat)
def kUses (k : BitVec 3) : List Use := if k = 0 then [] else [useS (kReg k)]
def kSpec (k : BitVec 3) (s : State) : Option Word := if k = 0 then none else some (s.rs (kReg k))

/-- The channels a specification pops, in the order POP0, POP1, POP2. -/
def specPops : Option Word → List (Fin 16)
  | none => []
  | some w =>
    (if bit w 19 then [(fld w 15 4).toFin] else []) ++ (if bit w 14 then [(fld w 10 4).toFin] else [])
      ++ (if bit w 9 then [(fld w 5 4).toFin] else [])

/-- The channel it pushes. -/
def specPush : Option Word → Option (Fin 16)
  | none => none
  | some w => if bit w 4 then some (fld w 0 4).toFin else none

/-- Every named token is present (R43, R176). -/
def tokensThere (tok : Vector Nat 16) (chs : List (Fin 16)) : Bool :=
  chs.all fun c => (chs.filter fun d => d = c).length ≤ tok[c.val]'c.isLt

/-- Take the named tokens. -/
def takeTokens (tok : Vector Nat 16) (chs : List (Fin 16)) : Vector Nat 16 :=
  chs.foldl (fun t c => t.set c.val (t[c.val]'c.isLt - 1) c.isLt) tok

/-- The first channel in the order POP0, POP1, POP2 whose token is missing (R352). -/
def missingToken (tok : Vector Nat 16) : List (Fin 16) → Nat
  | [] => 0
  | c :: cs => if tok[c.val]'c.isLt = 0 then c.val else missingToken (takeTokens tok [c]) cs

/-! ## Stamps (R44, R52) -/

/-- A stamp as the context reads it: SLIP cycles later while a replay's slip is in force (R402). -/
def State.stamp (s : State) (t : W32) : W32 := t + BitVec.ofNat 32 s.core.slip

/-- (T − GCYC[31:0]) mod 2^32. -/
def stampDelta (t : W32) (c : Nat) : Nat := (t - BitVec.ofNat 32 c).toNat

/-- GCYC, the VF's words of the CSRs and CRC-32C (R141): reflected polynomial 0x82F63B78, initial and final value all ones. -/
def crcBits : Nat → W32 → W32
  | 0, c => c
  | n + 1, c => crcBits n (if c.getLsbD 0 then (c >>> 1) ^^^ 0x82F63B78 else c >>> 1)
def crcStep (c : W32) (b : Byte) : W32 := crcBits 8 (c ^^^ b.setWidth 32)
def crc32c (bs : List Byte) : W32 := ~~~(bs.foldl crcStep 0xFFFFFFFF)

end Sys2Proof.Machine
end

