-- ==== Sys2Proof/Machine/Flags.lean ====
section
/-!
DEFINITION. Machine/Flags.lean: the part has no flag register; conditions are computed where they are used. Here are the
branch and compare conditions, and the predicates that govern lanes.
-/
namespace Sys2Proof.Machine

/-- 1 or 0 as a scalar (R68). -/
def flag (b : Bool) : Word := if b then 1 else 0

/-- The signed minimum and maximum, and the unsigned ones (R68). -/
def minS (a b : Word) : Word := if a.slt b then a else b
def maxS (a b : Word) : Word := if a.slt b then b else a
def minU (a b : Word) : Word := if a.ult b then a else b
def maxU (a b : Word) : Word := if a.ult b then b else a

/-! ## Predicates over lanes (R217, R218) -/

/-- Bit i of a predicate. -/
def pbit (p : PReg) (i : Nat) : Bool := p.toNat.testBit i

/-- The bits that a predicated result at width w writes: every bit of each active lane. -/
def laneMask (w : Nat) (p : PReg) : VReg :=
  if p = BitVec.allOnes 1024 then BitVec.allOnes 4096
  else ofLanes w ((List.range (4096 / w)).map fun i => if pbit p i then 2 ^ w - 1 else 0)

/-- A predicate from its low bits. -/
def predOf (bs : List Bool) : PReg := BitVec.ofNat 1024 (packNat 1 (bs.map fun b => if b then 1 else 0))

/-! ## VCMP (R228) -/

/-- The condition on integers: 0 eq, 1 ne, 2 lt, 3 le. -/
def condInt (c : BitVec 2) (a b : Int) : Bool :=
  if c = 0 then a = b else if c = 1 then a ≠ b else if c = 2 then a < b else a ≤ b

/-- The condition on floats; `uo` is what a NaN gives. -/
def condNum (c : BitVec 2) (uo : Bool) (a b : Num) : Bool :=
  if a = .nan || b = .nan then uo
  else if c = 0 then a.eq b else if c = 1 then !a.eq b else if c = 2 then a.lt b else a.lt b || a.eq b

/-- R224's order: real value with −0 below +0; for values that are not NaN. -/
def belowNum (a b : Num) : Bool :=
  a.lt b || (a.eq b && (match a, b with | .fin sa 0 _, .fin sb 0 _ => sa && !sb | _, _ => false))

end Sys2Proof.Machine
end

