-- ==== Sys2Proof/Machine/System.lean ====
section
/-!
DEFINITION. Machine/System.lean: CSR access, TRAP, HALT, YIELD, SLEEP, the illegal-instruction trap, the tick and interrupts
(R39, R52, R53, R88 to R93, R347, R348, R377, R431, R432).
-/
namespace Sys2Proof.Machine

/-! ## CSRs -/

/-- A VF by number. -/
def State.vf (s : State) (n : Nat) : Vf := s.vfs.toList.getD n .idle

def State.setVf (s : State) (n : Nat) (v : Vf) : State :=
  if h : n < 16 then { s with vfs := s.vfs.set n v h } else s

/-- GTS of a VF in the cycle of the state (R432). -/
def gtsOf (s : State) (v : Vf) : Word :=
  if v.paused then v.gtsp
  else BitVec.ofInt 64 ((((s.gcyc : Int) - v.tbase.toNat) * v.scale.toNat) / 2 ^ 32) + v.toffset

/-- The value of a CSR for the executing strand (R52). -/
def csrRead (n : BitVec 12) (s : State) : Word :=
  let v := s.vf s.vfOf
  match n.toNat with
  | 0x000 => BitVec.ofNat 64 s.gcyc
  | 0x001 => gtsOf s v
  | 0x002 => v.scale.setWidth 64
  | 0x003 => v.toffset
  | 0x010 => s.core.partw
  | 0x011 => s.arr.mmode.setWidth 64
  | 0x012 => s.core.domain
  | 0x013 => s.core.syncmask.setWidth 64
  | 0x014 => s.str.rotb.setWidth 64
  | 0x015 => flag s.str.deadchk
  | 0x020 => s.core.trapbase
  | 0x021 => s.core.tcause
  | 0x022 => s.core.tval
  | 0x023 => s.str.xpc
  | 0x030 => s.core.wcwait.setWidth 64
  | 0x031 => s.pod.stepTol.setWidth 64
  | 0x040 => v.slice.setWidth 64
  | 0x041 => v.weight.setWidth 64
  | 0x042 => s.svc.ltol
  | _ => 0

/-- The bits of a writable CSR that are not reserved (R10, R90, R289, R337 to R339). -/
def csrMask (n : BitVec 12) : Word :=
  match n.toNat with
  | 0x013 => 0xF
  | 0x014 => 0xF
  | 0x015 => 1
  | 0x020 => 0xFFFFFF00FFFFFFFD
  | 0x021 => 0xEC3F
  | 0x022 | 0x023 => BitVec.allOnes 64
  | _ => 0

/-- CSRW, CSRS, CSRC (0, 1, 2) on an old value (R88). -/
def csrNew (op : Nat) (mask old v : Word) : Word :=
  (if op = 0 then v else if op = 1 then old ||| v else old &&& ~~~v) &&& mask

/-- The context numbered by `second` of the core in focus. -/
def State.ctxNum (s : State) (second : Bool) : Ctx := if s.core.second = second then s.core.ctx else s.core.shadow
def State.setCtxNum (s : State) (second : Bool) (x : Ctx) : State :=
  if s.core.second = second then s.setCtx x else { s with core := { s.core with shadow := x } }
def State.mapCtxNum (s : State) (second : Bool) (f : Ctx → Ctx) : State := s.setCtxNum second (f (s.ctxNum second))

/-- A CSR write of the cycle takes effect (R88, R89); the core is in focus. -/
def applyCsr (second : Bool) (st : StrandId) (n : BitVec 12) (op : Nat) (v : Word) (s : State) : State :=
  let m := csrMask n
  let own := fun (f : Strand → Strand) => s.mapCtxNum second fun x => x.setStrand st (f (x.strand st))
  match n.toNat with
  | 0x013 => { s with core := { s.core with syncmask := (csrNew op m (s.core.syncmask.setWidth 64) v).setWidth 4 } }
  | 0x014 => own fun t => { t with rotb := (csrNew op m (t.rotb.setWidth 64) v).setWidth 4 }
  | 0x015 => own fun t => { t with deadchk := bit (csrNew op m (flag t.deadchk) v) 0 }
  | 0x020 => { s with core := { s.core with trapbase := csrNew op m s.core.trapbase v } }
  | 0x021 => { s with core := { s.core with tcause := csrNew op m s.core.tcause v } }
  | 0x022 => { s with core := { s.core with tval := csrNew op m s.core.tval v } }
  | 0x023 => own fun t => { t with xpc := csrNew op m t.xpc v }
  | _ => s

/-- A CSR instruction that names an unassigned number, or writes an RO CSR, is illegal (R53). -/
def csrCheck (ok : Bool) (s : State) : Option Stop := if ok then none else some (.trap 0x01 (s.word.setWidth 64))

def execCsrr (h : Hdr) (f : Csr) (s : State) : Out :=
  issue h false [] noNeed (csrCheck (csrAssigned f.n)) (fun s => plain (putS f.d (csrRead f.n s) s)) s

/-- A CSR write takes effect from the next cycle (R88). -/
def issueCsr (h : Hdr) (f : Csr) (op : Nat) (s : State) : Out :=
  issue h false [useS f.d] noNeed (csrCheck (csrWritable f.n))
    (fun s => plain (stage (.csr s.core.idx s.core.second s.cur f.n op (s.rs f.d)) s)) s

def execCsrw (h : Hdr) (f : Csr) (s : State) : Out := issueCsr h f 0 s
def execCsrs (h : Hdr) (f : Csr) (s : State) : Out := issueCsr h f 1 s
def execCsrc (h : Hdr) (f : Csr) (s : State) : Out := issueCsr h f 2 s

/-! ## TRAP, HALT and illegal words -/

/-- The strand as TRAP leaves it: loop ends served, ROTB included, and IDLE 1 + I still to serve (R91). -/
def retireTrap (h : Hdr) (s : State) : State :=
  let r := retire h false s.str.pc (plain s)
  let n := r.staged.length - s.staged.length
  { r.setStr { r.str with rotb := r.str.rotb - BitVec.ofNat 4 n } with staged := s.staged }

/-- TRAP raises the trap instruction exception (R91); in the handler that is a double trap, reported at the TRAP's own PC (R343, R352). -/
def execTrap (h : Hdr) (f : I16) (s : State) : Out :=
  match stops h [] noNeed noCheck s with
  | some .hold => .next (stall s)
  | some .wait => .next (linger s)
  | some (.trap code tval) => .next (precise code tval s)
  | none =>
    let p := prepare [] s
    .next (precise 0x1B (f.imm.setWidth 64) (if s.ctx.inHandler s.gcyc then p else retireTrap h p))

/-- HALT stops the strand; in a handler it ends the launch group with the trap as its error (R93, R343). -/
def haltEff (s : State) : State :=
  if s.ctx.inHandler s.gcyc then failGroup s.core.tcause s
  else addDue s.gcyc 9 s.core.idx (.groupEnd s.core.idx)
    (s.setStr { s.str with halted := true, timed := false })

def execHalt (h : Hdr) (s : State) : Out := issue h false [] noNeed noCheck (fun s => plain (haltEff s)) s

/-- An illegal word (R39): TVAL holds the word, and above it the extension word of a long one. -/
def execIllegalInstruction (w ext : BitVec 32) (s : State) : Out := .next (precise 0x01 (ext ++ w) s)

/-! ## YIELD and SLEEP (R377) -/

def execYield (h : Hdr) (s : State) : Out :=
  issue h false [] noNeed noCheck
    (fun s => plain (match s.ctx.group with | some g => stage (.yield g.launch) s | none => s)) s

/-- An interrupt source of the context, or a pre-emption request, is pending (R347, R374). -/
def anySource (x : Ctx) : Bool := x.pendTick || x.pendSig || x.pendUrg

/-- SLEEP holds until a source is pending; in timed mode it is a schedule violation. One that holds for its S = 1 partner does not sleep
(R290). -/
def execSleep (h : Hdr) (s : State) : Out :=
  match stops h [] noNeed noCheck s with
  | some .hold => .next (stall (s.setStr { s.str with asleep := false }))
  | some .wait => .next (linger s)
  | some (.trap code tval) => .next (precise code tval s)
  | none =>
    if s.str.timed then .next (precise 0x0D 0 s)
    else if anySource s.ctx || s.core.request then
      let p := prepare [] s
      .next (retire h false s.str.pc (plain (p.setStr { p.str with asleep := false })))
    else .next (linger (s.setStr { s.str with asleep := true }))

/-! ## Interrupts (R347) -/

/-- A core takes part in the pod launch that holds the package, and its groups have not ended (R327). -/
def State.participates (s : State) (k : Nat) : Bool :=
  s.launches.any fun l => some l.id = s.pod.holder && (l.live.any (fun x => x.1 = k) || l.todo.any fun t => t.1 = k)

/-- The core is inside a superstep boundary (R333). -/
def State.atBoundary (s : State) : Bool := s.pod.bound.isSome && s.participates s.core.idx

/-- Strand A of a participating core is held from B to U − 1, but for a STEP that issues at B, the active boundary (R328). -/
def podHeld (c : Core) (st : StrandId) (s : State) : Bool :=
  s.pod.bound.isSome && st = .A && s.participates c.idx && c.ctx.group.any (fun g => some g.launch = s.pod.holder)
    && !(s.pod.bound = some s.gcyc && s.pod.waiting.contains (c.idx, s.gcyc))

/-- An interrupt may be taken in this cycle, but for a precise trap of the cycle (R347). -/
def canInterrupt (s : State) : Bool :=
  let x := s.ctx
  anySource x && bit s.core.trapbase 0 && !x.inHandler s.gcyc && x.group.isSome && !x.c.asleep
    && !(x.c.timed || x.a.timed || x.v.timed || x.m.timed) && !s.atBoundary && !s.core.stopped
    && s.core.parking.isNone && !(s.core.replay.any fun r => decide (s.gcyc < r.1 + r.2)) && !s.svc.viral

/-- One pending source is taken, in the order 3, 1, 2 (R347). -/
def takeInterrupt (s : State) : State :=
  let x := s.ctx
  if canInterrupt s then
    if x.pendUrg then enterTrap ⟨0x1C, 3, .C, false⟩ (s.setCtx { x with pendUrg := false })
    else if x.pendTick then enterTrap ⟨0x1C, 1, .C, false⟩ (s.setCtx { x with pendTick := false })
    else enterTrap ⟨0x1C, 2, .C, false⟩ (s.setCtx { x with pendSig := false })
  else s

def execInterruptTaken (k : Nat) (s : State) : Out := onCore k takeInterrupt s

end Sys2Proof.Machine
end

