-- ==== Sys2Proof/Machine/Sync.lean ====
section
/-!
DEFINITION. Machine/Sync.lean: token channels and named barriers (R176 to R179, R294 to R298).
-/
namespace Sys2Proof.Machine

/-! ## Tokens -/

/-- Pushes of the running context already made in this cycle to a channel (R178). -/
def stagedPushes (ch : Nat) (s : State) : Nat :=
  (s.staged.filter fun u => match u with
    | .push c sec agent h _ _ => c = s.core.idx && sec = s.core.second && agent < s.cur.num && h = ch
    | _ => false).length

/-- TKS decides at issue whether its push would fail (R178). -/
def tksSum (t : BitVec 4) (s : State) : Nat :=
  s.plan.tok0[t.toNat]'t.isLt - s.plan.pops[t.toNat]'t.isLt + stagedPushes t.toNat s

/-- The push lands at the end of the cycle (R178). -/
def execTks (h : Hdr) (f : Tk) (s : State) : Out :=
  issue h false [] noNeed (fun s => if 8 ≤ tksSum f.t s then some (.trap 0x0A 0) else none)
    (fun s => plain (stage (.push s.core.idx s.core.second s.cur.num f.t.toNat 0 s.str.pc) s)) s

/-- In timed mode an empty channel is token underflow, in free mode the strand holds (R179, R287). -/
def tkwCheck (t : BitVec 4) (s : State) : Option Stop :=
  if s.ctx.tokens[t.toNat]'t.isLt = 0 then (if s.str.timed then some (.trap 0x09 0) else some .hold) else none

def execTkw (h : Hdr) (f : Tk) (s : State) : Out :=
  issue h false [] noNeed (tkwCheck f.t)
    (fun s => plain ((count 0x11 1 s).mapCtx fun x => { x with tokens := takeTokens x.tokens [f.t.toFin] })) s

/-! ## Barriers -/

/-- The key of barrier word N as core k names it (R294). -/
def barKey (k n : Nat) : Nat := if n < 48 then 64 * k + n else 49152 + 64 * (k / 8) + n

/-- A barrier word by key; all zero where none is kept (R295). -/
def State.bar (s : State) (key : Nat) : Bar := (s.bars.find? fun b => b.key = key).getD ⟨key, false, 0, 0, 0⟩

/-- Where the error mark of a barrier word is kept (R396; log entry 14, DESIGN CHOICE). -/
def barAddr (key : Nat) : Nat := 2 ^ 44 + 8 * key

/-- A barrier word is written whole: an error mark goes (R398). -/
def cleanBars (p : Nat → Bool) (s : State) : State :=
  if s.bad.isEmpty then s else { s with bad := s.bad.filter fun w => !(2 ^ 41 ≤ w && p (w - 2 ^ 41)) }

def State.setBar (s : State) (b : Bar) : State :=
  { s with bars := (if b.live then [b] else []) ++ s.bars.filter fun c => c.key ≠ b.key }

/-- The word as BPH and LD.d read it (R295). -/
def Bar.word (b : Bar) : Word :=
  if b.live then BitVec.ofNat 64 (2 ^ 63 + b.phase.toNat * 2 ^ 32 + b.pend % 1024 * 2 ^ 16 + b.count % 1024) else 0

/-- A cluster window is open to the launch: DOMAIN.CLU, and the launch holds the cluster's windows (R284, R294). -/
def winOpen (s : State) : Bool :=
  bit s.core.domain 1 && (match s.ctx.group with
    | some g => s.winHold.any fun p => p.1 = s.core.idx / 8 && p.2 = g.launch
    | none => false)

def winCheck (b : BitVec 6) (s : State) : Option Stop :=
  if 48 ≤ b.toNat && !winOpen s then some (.trap 0x07 0) else none

/-- Permission, with TVAL := N (R297). -/
def barRefuse (b : BitVec 6) : Option Stop := some (.trap 0x07 (b.setWidth 64))

def setTicket (b : BitVec 6) (v : BitVec 16) (s : State) : State :=
  s.setStr { s.str with tickets := s.str.tickets.set b.toNat v b.isLt }

def barOf (b : BitVec 6) (s : State) : Bar := s.bar (barKey s.core.idx b.toNat)

/-- An earlier BINI of the cycle has made the word live (R298). -/
def biniTaken (key : Nat) (s : State) : Bool :=
  s.staged.any fun u => match u with | .bini _ _ k n => k = key && n ≠ 0 | _ => false

def biniCheck (f : Bd) (s : State) : Option Stop :=
  let n := s.rs f.d
  match winCheck f.b s with
  | some x => some x
  | none =>
    if 1023 < n.toNat then barRefuse f.b
    else if n ≠ 0 && ((barOf f.b s).live || biniTaken (barKey s.core.idx f.b.toNat) s) then some (.trap 0x08 0)
    else none

def execBini (h : Hdr) (f : Bd) (s : State) : Out :=
  issue h false [useS f.d] noNeed (biniCheck f)
    (fun s =>
      let s' := stage (.bini s.core.idx s.cur (barKey s.core.idx f.b.toNat) (s.rs f.d)) s
      plain (if s.rs f.d = 0 then s' else setTicket f.b 0 s')) s

/-- The scope an access counts in: 0 core, 1 clu, 2 pkg, 3 none but MARK's, 4 REMOTE (R204, R207, R212; log entry 17, DEDUCED). -/
def Access.scope (k : Nat) (a : Access) : Nat :=
  match a.kind with
  | .mbxQuery _ | .mbxSend _ => 4
  | .post _ => 4
  | .streamRead .. => 3
  | _ =>
    match ptrSpace a.ptr with
    | 0 => 2
    | 2 => 0
    | 3 => if ptrIdx a.ptr = k then 0 else 1
    | 1 | 4 => 1
    | 5 => 4
    | _ => 3

/-- It writes only: a store. -/
def Access.isStore (a : Access) : Bool := match a.kind with | .store | .post _ => true | _ => false

/-- Pending accesses of strand A within a scope (R204, R206): all kinds, or loads and atomics only. -/
def pendingIn (scope : Nat) (stores : Bool) (s : State) : List Access :=
  s.ctx.acc.filter fun a => a.pendingAt s.gcyc && a.scope s.core.idx ≤ scope && (stores || !a.isStore)

/-- In strand A BARV first waits as FENCE.rel.clu does (R297). -/
def barvCheck (b : BitVec 6) (s : State) : Option Stop :=
  if s.cur = .A && pendingIn 1 true s ≠ [] then some .wait else
  match winCheck b s with
  | some x => some x
  | none => if (barOf b s).live then none else barRefuse b

/-- One arrival, applied at the end of the cycle; the ticket takes PHASE (R297). -/
def execBarv (h : Hdr) (f : B0) (s : State) : Out :=
  issue h false [] noNeed (barvCheck f.b)
    (fun s => plain (setTicket f.b (barOf f.b s).phase
      (stage (.arrive s.core.idx s.core.second s.cur.num (barKey s.core.idx f.b.toNat) 0 s.str.pc) s))) s

def bexpCheck (f : Bd) (s : State) : Option Stop :=
  match winCheck f.b s with
  | some x => some x
  | none => if 1023 < (s.rs f.d).toNat || !(barOf f.b s).live then barRefuse f.b else none

def execBexp (h : Hdr) (f : Bd) (s : State) : Out :=
  issue h false [useS f.d] noNeed (bexpCheck f)
    (fun s => plain (stage (.expect s.core.idx s.cur (barKey s.core.idx f.b.toNat) (s.rs f.d).toNat) s)) s

/-- BWT passes when PHASE differs from the ticket (R297). -/
def bwtCheck (b : BitVec 6) (s : State) : Option Stop :=
  match winCheck b s with
  | some x => some x
  | none =>
    if !(barOf b s).live then barRefuse b
    else if (barOf b s).phase = s.str.tickets[b.toNat]'b.isLt then some .hold else none

def execBwt (h : Hdr) (f : B0) (s : State) : Out :=
  issue h false [] noNeed (bwtCheck f.b) (fun s => plain (setTicket f.b (barOf f.b s).phase s)) s

/-- BPH returns the word and sets the ticket; 0 for a word that is not live (R297). -/
def execBph (h : Hdr) (f : Bd) (s : State) : Out :=
  issue h false [] noNeed (winCheck f.b)
    (fun s => plain (putS f.d (barOf f.b s).word (setTicket f.b (if (barOf f.b s).live then (barOf f.b s).phase else 0) s))) s

/-! ## What the cycle's updates do to a word (R298); used when the cycle ends -/

/-- BINI: 0 kills, another count initialises a word that is not live. -/
def Bar.init (b : Bar) (n : Nat) : Bar :=
  if n = 0 then ⟨b.key, false, 0, 0, 0⟩ else if b.live then b else ⟨b.key, true, 0, n, n⟩

/-- One arrival. -/
def Bar.arrive (b : Bar) : Bar :=
  if b.live then (if b.pend ≤ 1 then { b with phase := b.phase + 1, pend := b.count } else { b with pend := b.pend - 1 }) else b

/-- An expectation; PEND stops at 1023. -/
def Bar.expect (b : Bar) (n : Nat) : Bar := if b.live then { b with pend := min 1023 (b.pend + n) } else b

end Sys2Proof.Machine
end

