-- ==== Sys2Proof/Machine/Views.lean ====
section
/-!
DEFINITION. Machine/Views.lean: bytes of the memories and their error marks, the second tier and its views: sealing, the
write-combining buffer, the dirty bitmaps, the page walk and the TLBs; accesses of the host path and the controllers to GLOBAL, and the
error logs (R109 to R117, R184 to R187, R379, R397, R398, R408 to R411).
-/
namespace Sys2Proof.Machine

/-! ## Bytes and error marks (R398) -/

/-- Word number w (address / 8) is covered whole by n bytes from a on. -/
def wholeWord (a n w : Nat) : Bool := a ≤ 8 * w && 8 * w + 8 ≤ a + n

/-- Word number w has a byte among the n from a on. -/
def touchesWord (a n w : Nat) : Bool := a < 8 * w + 8 && 8 * w < a + n

/-- A write into a memory: a write of a whole 64-bit word clears its error marks, a partial write leaves them. -/
def State.poke (a : Nat) (bs : List Byte) (s : State) : State :=
  countBytes true a bs.length { s with
    mem := memPut s.mem a bs
    bad := s.bad.filter fun w => !wholeWord a bs.length w
    soft := s.soft.filter fun w => !wholeWord a bs.length w }

def State.peek (s : State) (a n : Nat) : List Byte := memBytes s.mem a n

/-- Some byte read lies in a word marked uncorrectable. -/
def State.badAt (s : State) (a n : Nat) : Bool := s.bad.any (touchesWord a n)

/-- Words a read finds with a single-bit error. -/
def State.softAt (s : State) (a n : Nat) : List Nat := s.soft.filter (touchesWord a n)

/-! ## The physical error log (R409, R411) and the viral state (R408) -/

/-- An error record of the cycle; an error of a coded word has a syndrome (R409). -/
def mkErr (s : State) (type unit core vf : Nat) (addr : Word) (detail : Nat) : ErrRec :=
  let syn := if 1 ≤ type && type ≤ 3 then (Config.syndrome s.gcyc addr.toNat).toNat else 0
  ⟨addr, BitVec.ofNat 64 (type + unit * 2 ^ 8 + core % 1024 * 2 ^ 16 + vf % 16 * 2 ^ 26 + syn * 2 ^ 32 + 2 ^ 40), BitVec.ofNat 64 s.gcyc,
    BitVec.ofNat 64 detail⟩

def ErrRec.bytes (r : ErrRec) : List Byte :=
  leBytes 8 r.w0.toNat ++ leBytes 8 r.w1.toNat ++ leBytes 8 r.w2.toNat ++ leBytes 8 r.w3.toNat

/-- A CORR event that repeats the newest record's unit and address within 2^20 cycles of its CYC (R409). -/
def repeats (r last : ErrRec) : Bool :=
  fld r.w1 0 8 = 1 && fld last.w1 0 8 = 1 && fld r.w1 8 4 = fld last.w1 8 4 && r.w0 = last.w0
    && r.w2.toNat ≤ last.w2.toNat + 2 ^ 20

/-- A record with one more event merged into it. -/
def ErrRec.again (l : ErrRec) : ErrRec := { l with w1 := l.w1 + BitVec.ofNat 64 (2 ^ 40) }

/-- The physical log takes an event; a repeated one goes into its newest record. -/
def logPhys (r : ErrRec) (s : State) : State :=
  match s.svc.physLog with
  | none => s
  | some pa =>
    if s.svc.lastLog.any (repeats r) then
      let l := (s.svc.lastLog.getD r).again
      { s.poke (pa + 64 + 32 * ((s.svc.logTail + 4095) % 4096)) l.bytes with svc := { s.svc with lastLog := some l } }
    else if s.svc.logTail < leNat (s.peek pa 8) + 4096 then
      let s' := s.poke (pa + 64 + 32 * (s.svc.logTail % 4096)) r.bytes
      let s' := s'.poke (pa + 8) (leBytes 8 (s.svc.logTail + 1))
      { s' with svc := { s'.svc with logTail := s.svc.logTail + 1, lastLog := some r } }
    else
      { s.poke (pa + 24) (leBytes 8 (s.svc.logDrop + 1)) with svc := { s.svc with logDrop := s.svc.logDrop + 1 } }

def packetFlits (p : Packet) : Nat := (p.bytes.length + 191) / 192

/-- The flits of a packet on a port that would leave from cycle c on are not sent. -/
def cutPacket (c : Nat) (e : Nat × Nat × Nat × Packet) : Nat × Nat × Nat × Packet :=
  let p := e.2.2.2
  let late := (List.range (packetFlits p)).filter fun i => decide (c ≤ e.1 + i) && !p.lost.contains i
  (e.1, e.2.1, e.2.2.1, { p with lost := p.lost ++ late })

/-- From this cycle on no Zudal flit leaves: no control message, and nothing more of the packets on the ports (R408). -/
def cutLinks (s : State) : State :=
  { s with pod := { s.pod with
    ctl := s.pod.ctl.filter fun m => decide (m.1 < s.gcyc)
    out := (s.pod.out.filter fun e => decide (e.1 < s.gcyc)).map (cutPacket s.gcyc) } }

/-- A fatal error: the package enters the viral state and logs it; its links send nothing more (R408). -/
def goViral (s : State) : State :=
  if s.svc.viral then s else
    logPhys (mkErr s 7 7 0x3FF 0 0 0) (cutLinks { s with svc := { s.svc with viral := true } })

/-! ## Page entries (R110) -/

def pteKey (raw : Word) : Nat := (fld raw 56 8).toNat
def pteVf (raw : Word) : Nat := (fld raw 52 4).toNat
def pteCmp (raw : Word) : Bool := bit raw 49
def pteLay (raw : Word) : Bool := bit raw 48
def ptePa (raw : Word) : Nat := (fld raw 16 22).toNat * 65536
/-- The view (LAY, CMP, KEY) of an entry (R116). -/
def pteView (raw : Word) : Word := raw &&& 0xFF03000000000000

/-- Page offset q in a tile-swizzled page (R113). -/
def swizzle (q : Nat) : Nat := q ^^^ (q / 1024 % 16 * 64)

/-- The physical runs of n bytes at page offset q: whole in a linear page, by lines of 64 bytes in a swizzled one (R113). -/
def pageRuns (raw : Word) : Nat → Nat → Nat → List (Nat × Nat)
  | 0, _, _ => []
  | fuel + 1, q, n =>
    if n = 0 then []
    else if pteLay raw then
      let k := min n (64 - q % 64)
      (ptePa raw + swizzle q, k) :: pageRuns raw fuel (q + k) (n - k)
    else [(ptePa raw + q, n)]

/-! ## The walk (R109, R111) -/

/-- How a walk ends. -/
inductive Walk where
  | found (p : Pte)
  | absent (base size : Nat)      -- the region the failing level maps (R350)
  | denied
  deriving DecidableEq, Repr

/-- Reserved bits of a leaf, and of an entry that points to a table (R110). -/
def leafReserved (raw : Word) : Bool := raw &&& 0x000CFFC00000FFE0 ≠ 0
def tableReserved (raw : Word) : Bool := raw &&& 0xFFFFFFC00000FFFC ≠ 0

/-- Walk from a table; levels are the page sizes still ahead with the number of entries of their tables. -/
def walkFrom (m : List Host.Cell) (va : Nat) : List (Nat × Nat) → Nat → Walk
  | [], _ => .denied
  | (size, entries) :: ls, table =>
    let raw := BitVec.ofNat 64 (leNat (memBytes m (table + 8 * (va / size % entries)) 8))
    if !bit raw 0 then .absent (va / size * size) size
    else if bit raw 1 then
      if leafReserved raw || ptePa raw % size ≠ 0 then .denied else .found ⟨raw, va / size * size, size⟩
    else if tableReserved raw then .denied
    else walkFrom m va ls (ptePa raw)

def walk (s : State) (vf va : Nat) : Walk :=
  match (s.vf vf).root with
  | none => .denied
  | some root => walkFrom s.mem va [(2 ^ 30, 2 ^ 18), (2 ^ 21, 2 ^ 9), (2 ^ 16, 2 ^ 5)] root

/-- A key slot by number; an empty one where none is kept (R416). -/
def State.keySlot (s : State) (k : Nat) : KeySlot := (s.keys.find? fun x => x.slot = k).getD ⟨k, 0, false, 0, 0, []⟩

/-- The checks of R112 and R183, and of a slot with no key (R416). `cmp` is what CMP must be, where the access asks for one value. -/
def permit (s : State) (vf : Nat) (read write : Bool) (cmp : Option Bool) (timed : Bool) (raw : Word) : Option (BitVec 6) :=
  if pteVf raw ≠ vf then some 0x07
  else if (read && !bit raw 2) || (write && !bit raw 3) then some 0x07
  else if cmp.any fun c => c ≠ pteCmp raw then some 0x07
  else if pteKey raw ≠ 0 && (s.keySlot (pteKey raw)).vf.toNat ≠ vf then some 0x07
  else if pteKey raw ≠ 0 && !(s.keySlot (pteKey raw)).valid then some 0x07
  else if timed && !bit raw 4 then some 0x0D
  else none

/-! ## TLBs (R114) -/

/-- The TLBs that anything translates through: strand A's stream TLB and the copy engine's. -/
inductive TlbId where
  | a | x
  deriving DecidableEq, Repr

def Core.tlb (c : Core) : TlbId → List TlbEntry
  | .a => c.tlbA
  | .x => c.tlbX
def Core.setTlb (c : Core) (t : TlbId) (l : List TlbEntry) : Core :=
  match t with
  | .a => { c with tlbA := l }
  | .x => { c with tlbX := l }

def TlbEntry.holds (vf va : Nat) (e : TlbEntry) : Bool := e.vf = vf && e.pte.base ≤ va && va < e.pte.base + e.pte.size

/-- Enter a translation as the most recently used of n. -/
def tlbEnter (n vf : Nat) (p : Pte) (l : List TlbEntry) : List TlbEntry :=
  (⟨vf, p⟩ :: l.filter fun e => !e.holds vf p.base).take n

/-- The walk result through a TLB. -/
def lookup (t : TlbId) (vf va : Nat) (s : State) : Walk :=
  match (s.core.tlb t).find? (TlbEntry.holds vf va) with
  | some e => .found e.pte
  | none => walk s vf va

/-- The TLB holds the page. -/
def inTlb (t : TlbId) (vf va : Nat) (s : State) : Bool := (s.core.tlb t).any (TlbEntry.holds vf va)

/-- A translation enters a stream TLB as the most recently used. -/
def enterStream (t : TlbId) (vf : Nat) (p : Pte) (s : State) : State :=
  { s with core := s.core.setTlb t (tlbEnter 16 vf p (s.core.tlb t)) }

/-- A translation that has been used, and the walk for the next page in the stream's direction (R114). The next page becomes the most
recently used one, found or already held (log entry 34, DESIGN CHOICE). -/
def touchTlb (t : TlbId) (vf : Nat) (p : Pte) (desc : Bool) (s : State) : State :=
  let s := enterStream t vf p s
  if desc && p.base = 0 || !desc && 2 ^ 48 ≤ p.base + p.size then s
  else match lookup t vf (if desc then p.base - 1 else p.base + p.size) s with
    | .found q => enterStream t vf q s
    | _ => s

/-- The result of translating an access: physical runs with their page entries, or the first failure with its region. -/
inductive Xlate where
  | ok (runs : List (Nat × Nat × Word))
  | bad (code : BitVec 6) (va base size : Nat)
  deriving DecidableEq, Repr

/-- The rights an access asks for (R112). -/
structure Rights where
  read  : Bool
  write : Bool
  cmp   : Option Bool   -- what CMP must be; none for a stream, which reads both (R112, R183)
  timed : Bool
  desc  : Bool
  deriving DecidableEq, Repr

/-- Translate n bytes from va on, page by page (R111, R112). -/
def xlateRun (t : TlbId) (r : Rights) (vf : Nat) : Nat → Nat → Nat → State → Xlate × State
  | 0, _, _, s => (.ok [], s)
  | fuel + 1, va, n, s =>
    if n = 0 then (.ok [], s) else
    match lookup t vf va s with
    | .absent b z => (.bad 0x06 va b z, s)
    | .denied => (.bad 0x07 va 0 0, s)
    | .found p =>
      let s := touchTlb t vf p r.desc s
      match permit s vf r.read r.write r.cmp r.timed p.raw with
      | some c => (.bad c va 0 0, s)
      | none =>
        let k := min n (p.base + p.size - va)
        match xlateRun t r vf fuel (va + k) (n - k) s with
        | (.ok rs, s) => (.ok ((pageRuns p.raw (k / 64 + 2) (va - p.base) k).map (fun x => (x.1, x.2, p.raw)) ++ rs), s)
        | (b, s) => (b, s)

/-- Translate a list of pieces in the order given. -/
def xlateAll (t : TlbId) (r : Rights) (vf : Nat) : List (Nat × Nat) → State → Xlate × State
  | [], s => (.ok [], s)
  | (va, n) :: ps, s =>
    match xlateRun t r vf (n / 65536 + 2) va n s with
    | (.ok rs, s) =>
      match xlateAll t r vf ps s with
      | (.ok qs, s) => (.ok (rs ++ qs), s)
      | (b, s) => (b, s)
    | (b, s) => (b, s)

/-! ## Writes of a memory controller (R184, R379) -/

/-- The page's bit is set in the VF's active dirty bitmap. -/
def markDirty (vf pa n : Nat) (s : State) : State :=
  match (s.vf vf).dirty with
  | none => s
  | some (b0, b1) =>
    let base := if (s.vf vf).dirtyB then b1 else b0
    (List.range ((pa + n - 1) / 65536 + 1 - pa / 65536)).foldl (fun s j =>
      let i := pa / 65536 + j
      s.poke (base + i / 8) [memRead s.mem (base + i / 8) ||| (1 <<< (i % 8))]) s

/-- The tags of the units written no longer hold. -/
def breakTags (pa n : Nat) (s : State) : State :=
  { s with sealed := s.sealed.map fun u => if pa < 256 * u.unit + 256 && 256 * u.unit < pa + n then { u with holds := false } else u }

/-- A plain write of physical bytes for a VF; none is performed in the viral state (R408). -/
def tierWrite (vf pa : Nat) (bs : List Byte) (s : State) : State :=
  if bs.isEmpty || s.svc.viral then s else markDirty vf pa bs.length (breakTags pa bs.length (s.poke pa bs))

/-- The metadata of a unit; count 0 where it has never been sealed (log entry 20, DEDUCED). -/
def State.unitMeta (s : State) (u : Nat) : SealedUnit := (s.sealed.find? fun x => x.unit = u).getD ⟨u, 0, 0, 0, 0, false⟩

/-- The initialisation vector of R184. -/
def gcmIv (key unit : Nat) (count : BitVec 58) : BitVec 96 := BitVec.ofNat 8 key ++ BitVec.ofNat 30 unit ++ count

/-- Seal and write a whole unit (R184). The IV holds the write count after its increment, which counts this write (log entry 34, DESIGN
CHOICE). -/
def sealUnit (raw : Word) (u : Nat) (plain : List Byte) (s : State) : State :=
  if s.svc.viral then s else
  let k := s.keySlot (pteKey raw)
  let m := s.unitMeta u
  let count := m.count + 1
  let iv := gcmIv k.slot u count
  let c := gcmCipher k.key iv plain
  let s := tierWrite (pteVf raw) (256 * u) c s
  { s with sealed := ⟨u, pteView raw, k.gen, count, gcmTag k.key iv c, true⟩ :: s.sealed.filter fun x => x.unit ≠ u }

/-- A unit read through a view; none where its tag fails (R185). -/
def unitRead (raw : Word) (u : Nat) (s : State) : Option (List Byte) :=
  if pteKey raw = 0 then some (s.peek (256 * u) 256)
  else
    let m := s.unitMeta u
    let k := s.keySlot (pteKey raw)
    let iv := gcmIv k.slot u m.count
    let c := s.peek (256 * u) 256
    if m.holds && m.view = pteView raw && m.gen = k.gen && k.valid && gcmTag k.key iv c = m.tag then some (gcmCipher k.key iv c) else none

/-- Write a whole unit through a view. -/
def unitWrite (raw : Word) (u : Nat) (bs : List Byte) (s : State) : State :=
  if pteKey raw = 0 then tierWrite (pteVf raw) (256 * u) bs s else sealUnit raw u bs s

/-- Bytes over a unit's bytes. -/
def overlay (u : Nat) (new : List (Nat × Byte)) (old : List Byte) : List Byte :=
  (List.range 256).map fun i => ((new.find? fun x => x.1 = 256 * u + i).map Prod.snd).getD (old.getD i 0)

/-- The bytes of one unit among bytes from pa on. -/
def unitPart (u pa : Nat) (bs : List Byte) : List (Nat × Byte) :=
  (bs.zipIdx.filter fun x => (pa + x.2) / 256 = u).map fun x => (pa + x.2, x.1)

/-! ## GLOBAL from outside the cores -/

/-- Translate for the host path, which holds no TLB. -/
def hostXlate (s : State) (vf : Nat) (read write : Bool) : Nat → Nat → Nat → Option (List (Nat × Nat × Word))
  | 0, _, _ => none
  | fuel + 1, va, n =>
    if n = 0 then some [] else
    if 2 ^ 48 < va + n then none else
    match walk s vf va with
    | .found p =>
      match permit s vf read write (some false) false p.raw with
      | some _ => none
      | none =>
        let k := min n (p.base + p.size - va)
        (hostXlate s vf read write fuel (va + k) (n - k)).map fun rs =>
          (pageRuns p.raw (k / 64 + 2) (va - p.base) k).map (fun x => (x.1, x.2, p.raw)) ++ rs
    | _ => none

def hostRuns (s : State) (vf : Nat) (read write : Bool) (va n : Nat) : Option (List (Nat × Nat × Word)) :=
  hostXlate s vf read write (n / 65536 + 3) va n

/-- A write at a memory controller: whole or partial units of a sealed page are sealed again (R184, R186). -/
def ctlWrite (raw : Word) (pa : Nat) (bs : List Byte) (s : State) : State :=
  if pteKey raw = 0 then tierWrite (pteVf raw) pa bs s
  else if bs.isEmpty then s
  else ((List.range ((pa + bs.length - 1) / 256 + 1 - pa / 256)).map fun j => pa / 256 + j).foldl
    (fun s u =>
      let part := unitPart u pa bs
      if part.length = 256 then sealUnit raw u (overlay u part []) s
      else match unitRead raw u s with
        | some old => sealUnit raw u (overlay u part old) s
        | none => s) s

/-- Bytes of runs, in order; none where a tag fails. -/
def ctlRead (s : State) : List (Nat × Nat × Word) → Option (List Byte)
  | [] => some []
  | (pa, n, raw) :: rs =>
    let bytes := (List.range n).map fun j =>
      if pteKey raw = 0 then some (memRead s.mem (pa + j))
      else (unitRead raw ((pa + j) / 256) s).map fun bs => bs.getD ((pa + j) % 256) 0
    if bytes.all Option.isSome then (ctlRead s rs).map fun bs => bytes.filterMap id ++ bs else none

/-- Write bytes over runs. -/
def ctlWriteRuns : List (Nat × Nat × Word) → List Byte → State → State
  | [], _, s => s
  | (pa, n, raw) :: rs, bs, s => ctlWriteRuns rs (bs.drop n) (ctlWrite raw pa (bs.take n) s)

/-- A write of the part into a VF's GLOBAL space; none where it cannot be made. -/
def hostPut (vf va : Nat) (bs : List Byte) (s : State) : Option State :=
  (hostRuns s vf false true va bs.length).map fun rs => ctlWriteRuns rs bs s

def hostGet (vf va n : Nat) (s : State) : Option (List Byte) :=
  (hostRuns s vf true false va n).bind fun rs => ctlRead s rs

/-! ## Logged events (R409 to R411) -/

/-- A VF's virtual error queue takes a record; the record before TAIL, and OVF for one that finds the queue full (R410). A repeated
event goes into its newest record. -/
def logGuest (vf : Nat) (r : ErrRec) (s : State) : State :=
  let v := s.vf vf
  match v.errq with
  | none => s
  | some va =>
    if v.errLast.any (repeats r) then
      let l := (v.errLast.getD r).again
      ((hostPut vf (va + 64 + 32 * ((v.errTail + 63) % 64)) l.bytes s).getD s).setVf vf { v with errLast := some l }
    else
    let lost := { v with errOvf := v.errOvf + 1 }
    match hostGet vf va 8 s with
    | none => s.setVf vf lost
    | some h =>
      if v.errTail < leNat h + 64 then
        match hostPut vf (va + 64 + 32 * (v.errTail % 64)) r.bytes s with
        | none => s.setVf vf lost
        | some s' =>
          ((hostPut vf (va + 8) (leBytes 8 (v.errTail + 1)) s').getD s').setVf vf { v with errTail := v.errTail + 1, errLast := some r }
      else ((hostPut vf (va + 16) (leBytes 8 (v.errOvf + 1)) s).getD s).setVf vf lost

/-- An event of a VF with an address in guest terms (or 0), and where it lies (R409, R411). -/
def logEvent (type unit core vf : Nat) (guest phys : Word) (detail : Nat) (s : State) : State :=
  let p := mkErr s type unit core vf phys detail
  logPhys p (logGuest vf { p with w0 := guest } s)

/-- The LOCAL pointer of an address of the core's own scratchpad; 0 for another one (R409: an address in guest terms, or none). -/
def localPtr (a : Nat) (s : State) : Word :=
  let base := poolAddr s.core.idx 0
  if base ≤ a && a < base + localSize s.core.partw then BitVec.ofNat 64 (2 * 2 ^ 60 + (a - base)) else 0

/-- The UNIT of an address of the model (R409; log entry 23, DESIGN CHOICE). -/
def unitOf (s : State) (a : Nat) : Nat :=
  if a < 2 ^ 38 then 5
  else if a < 2 ^ 41 then
    let k := (a - 2 ^ 40) / 2 ^ 21
    let o := (a - 2 ^ 40) % 2 ^ 21
    if resultBase (s.coreAt k).partw ≤ o && o < trapBase (s.coreAt k).partw 0 then 4 else 0
  else if a < 2 ^ 42 then 3
  else if a < 2 ^ 43 then 1
  else if a < 2 ^ 44 then 2
  else 7

/-- The VF that owns a core; 16, which a record shows as 0, where none does. -/
def vfOfCore (s : State) (k : Nat) : Nat := ((List.range 16).find? fun v => (s.vf v).pairs.contains (k / 2)).getD 16

/-- The VF whose slice of a cluster's SRAM holds an offset (R103); 16 where none does. -/
def vfOfSlice (s : State) (c o : Nat) : Nat :=
  ((List.range 16).find? fun v => (s.vf v).slices.any fun x => x.1 = c && decide (x.2.1 ≤ o) && decide (o < x.2.1 + x.2.2)).getD 16

/-- CORE and VF of an address (R409): a pool's are its core's, an array's those of its pair's even core; a word of a cluster's SRAM has the VF of
its slice. -/
def ownerOf (s : State) (a : Nat) : Nat × Nat :=
  let core := fun (k : Nat) => if k < Config.cores then (k, vfOfCore s k) else (0x3FF, 16)
  if a < 2 ^ 40 then (0x3FF, 16)
  else if a < 2 ^ 41 then core ((a - 2 ^ 40) / 2 ^ 21)
  else if a < 2 ^ 42 then (0x3FF, vfOfSlice s ((a - 2 ^ 41) / 2 ^ 23) ((a - 2 ^ 41) % 2 ^ 23))
  else if a < 2 ^ 43 then core (2 * ((a - 2 ^ 42) / 2 ^ 19))
  else if a < 2 ^ 44 then core (2 * ((a - 2 ^ 43) / 2 ^ 18))
  else (0x3FF, 16)

/-- The memory visits a marked word again: in its scrub slot, or in its controller's patrol, which has a period (R398). -/
def nextScrub (w : Nat) (s : State) : State :=
  let d := draw s
  let n := Config.scrubDelay d.1
  if Config.tierBytes ≤ 8 * w then addDue (s.gcyc + 1 + n % 2 ^ 26) 9 0 (.scrubSlot (8 * w)) d.2
  else if s.svc.patrol = 0 then s
  else addDue (s.gcyc + 1 + n % s.svc.patrol) 9 0 (.patrol (8 * w)) d.2

/-- The scrubber of the maquette's caches, and that of the plinth, visits a marked word again (R398). -/
def scrubLater (ev : Wake) (s : State) : State :=
  let d := draw s
  addDue (s.gcyc + 1 + Config.scrubDelay d.1 % 2 ^ 26) 9 0 ev d.2

/-- Where the registers of a context of a core lie in its pool (R102). -/
def vectorBase (c : Core) (second : Bool) : Nat := trapBase c.partw (partC c.partw + if second then 1 else 0)

/-- The word of a vector register, with its pool's scrubber, that a marked word of storage stands for. -/
def vectorBad (w : Nat) (s : State) : Bool :=
  let a := 8 * w
  if a < 2 ^ 40 || 2 ^ 41 ≤ a then false
  else
    let c := s.coreAt ((a - 2 ^ 40) / 2 ^ 21)
    let o := (a - 2 ^ 40) % 2 ^ 21
    [false, true].any fun x =>
      let b := vectorBase c x
      decide (b ≤ o) && decide (o < b + 16384) && (if x then c.one else c.zero).vupset.getLsbD ((o - b) / 8)

/-- The scrubber of the pool finds the marked words of a vector register of the core in focus again (R398). -/
def visitVector (second : Bool) (p : Fin 32) (m : BitVec 64) (s : State) : State :=
  ((List.range 64).filter m.getLsbD).foldl (fun s w =>
    nextScrub ((poolAddr s.core.idx (vectorBase s.core second) + 512 * p.val) / 8 + w) s) s

/-- Mark the words of n bytes from a on: a gather, a scatter, an OLOAD or an MDRAIN carries a bad word on; its memory visits each again
(R397, R398). -/
def State.markBad (a n : Nat) (s : State) : State :=
  (List.range ((n + 7) / 8)).foldl (fun s j =>
    let w := a / 8 + j
    if s.bad.contains w then s else nextScrub w { s with bad := w :: s.bad, soft := s.soft.filter fun x => x ≠ w }) s

/-- A read finds single-bit errors: corrected at its normal cycle, logged, and written back in the memory's next scrub slot
(R397). -/
def noteSoft (a n : Nat) (guest : Word) (s : State) : State :=
  (s.softAt a n).foldl (fun s w => count 0x0D 1 <| nextScrub w <|
    logEvent 1 (unitOf s (8 * w)) s.core.idx s.vfOf guest (BitVec.ofNat 64 (8 * w)) 0 s) s

/-- Consumption of an uncorrectable word is logged (R397). -/
def noteBad (a : Nat) (guest : Word) (s : State) : State :=
  logEvent 2 (unitOf s a) s.core.idx s.vfOf guest (BitVec.ofNat 64 a) 0 s

/-- A unit of 256 bytes that a read has found failing its tag or its code (R185, R397, R409). -/
def noteUnit (code u : Nat) (guest : Word) (s : State) : State :=
  if code = 0x13 then noteBad (256 * u) guest s
  else logEvent 6 (unitOf s (256 * u)) s.core.idx s.vfOf guest (BitVec.ofNat 64 (256 * u)) 0 s

/-! ## The write-combining buffer (R117, R186) -/

/-- The read-modify-write of an entry (R186): where the tag fails the bytes are lost, with a terminal record (R185); a bad word is
fatal (R397). The read is no access of a guest: its events have no address in guest terms (R409). -/
def wcFlush (e : WcEntry) (s : State) : State :=
  let log := fun (type a : Nat) => logEvent type 5 s.core.idx (pteVf e.pte) 0 (BitVec.ofNat 64 a) 0
  match s.bad.find? (touchesWord (256 * e.unit) 256) with
  | some w => goViral (log 2 (8 * w) s)
  | none =>
    let s := noteSoft (256 * e.unit) 256 0 s
    match unitRead e.pte e.unit s with
    | some old => unitWrite e.pte e.unit (overlay e.unit e.bytes old) s
    | none =>
      let d := draw (log 6 (256 * e.unit) s)
      reportAs e.second 0x12 e.pc 1 (if e.byA then 1 else 2) (Config.freeWord d.1) d.2

/-- Drop or flush from the buffer. -/
def dropWc (f : WcEntry → Bool) (s : State) : State := s.mapEng fun g => { g with wc := g.wc.filter fun e => !f e }

/-- Later bytes over earlier ones. -/
def mergeBytes (old new : List (Nat × Byte)) : List (Nat × Byte) := new ++ old.filter fun x => !new.any fun y => y.1 = x.1

/-- An entry leaves the buffer for want of room: at once, or with its core's beats of the cycle where it holds bytes of a copy (R186, R192). -/
def wcEvict (e : WcEntry) (s : State) : State :=
  if e.cmds.isEmpty then wcFlush e (dropWc (fun x => x.unit = e.unit) s)
  else if e.due ≤ s.gcyc then s
  else addDue s.gcyc 7 (2 * s.core.idx + 2) (.wcWrite s.core.idx e.unit true)
    (s.mapEng fun g => { g with wc := g.wc.map fun x => if x.unit = e.unit then { x with due := s.gcyc } else x })

/-- All 32 entries are in use: the oldest is written back in this cycle (R186). -/
def wcRoom (s : State) : State := (s.core.eng.wc.take (s.core.eng.wc.length - 31)).foldl (fun s e => wcEvict e s) s

/-- The place of the entry's read-modify-write in the cycle c in which it is due: behind its core's own stores, and before every copy
beat (R192). -/
def wcDue (c unit : Nat) (s : State) : State :=
  addDue c 6 (2 * s.core.idx + 1) (.wcWrite s.core.idx unit false) s

/-- Who writes: an access of strand A or a copy command, its PC and its context. -/
structure Writer where
  access : Option Nat
  cmd    : Option Nat
  pc     : Nat
  second : Bool
  deriving DecidableEq, Repr

/-- The bytes of an entry, and whose they are, once these have joined it. -/
def WcEntry.take (w : Writer) (all : List (Nat × Byte)) (e : WcEntry) : WcEntry :=
  { e with
    bytes := all
    first := if e.first.isSome then e.first else w.access
    cmds := w.cmd.toList ++ e.cmds.filter fun c => some c ≠ w.cmd }

/-- Bytes of one unit reach the write-combining buffer (R117, R186). A unit that a write completes is written in that write's place in the
cycle, whatever the entry holds (log entry 34, DESIGN CHOICE). -/
def wcArrive (w : Writer) (raw : Word) (u : Nat) (bs : List (Nat × Byte)) (s : State) : State :=
  let s := dropWc (fun e => e.unit = u && pteView e.pte ≠ pteView raw) s
  let old := s.core.eng.wc.find? fun e => e.unit = u
  let all := match old with | some e => mergeBytes e.bytes bs | none => bs
  if 256 ≤ all.length then unitWrite raw u (overlay u all []) (dropWc (fun e => e.unit = u) s)
  else match old with
    | some _ => s.mapEng fun g => { g with wc := g.wc.map fun e => if e.unit = u then e.take w all else e }
    | none =>
      let e : WcEntry := ⟨u, raw, all, s.gcyc + s.core.wcwait.toNat, w.access.isSome, w.access, w.cmd.toList, w.pc, w.second⟩
      if s.core.wcwait = 0 then wcFlush e s
      else wcRoom (wcDue e.due u (s.mapEng fun g => { g with wc := g.wc ++ [e] }))

/-- The units of n bytes from pa on. -/
def unitsOf (pa n : Nat) : List Nat :=
  if n = 0 then [] else (List.range ((pa + n - 1) / 256 + 1 - pa / 256)).map fun j => pa / 256 + j

/-- The page's writes pass through the write-combining buffer (R186). -/
def combines (raw : Word) : Bool := pteKey raw ≠ 0 || pteCmp raw

/-- One run of a write: page entry, physical address, bytes. -/
abbrev Run := Word × Nat × List Byte

/-- The bytes of a write unit by unit, over all of its runs. -/
def byUnit (rs : List Run) : List (Word × Nat × List (Nat × Byte)) :=
  (rs.flatMap fun r => (unitsOf r.2.1 r.2.2.length).map fun u => (r.1, u, unitPart u r.2.1 r.2.2)).foldl
    (fun us x =>
      if us.any fun y => y.1 = x.1 && y.2.1 = x.2.1 then
        us.map fun y => if y.1 = x.1 && y.2.1 = x.2.1 then (y.1, y.2.1, mergeBytes y.2.2 x.2.2) else y
      else us ++ [x]) []

/-- A write of a core through its views: plain runs at once, the units of the others through the buffer, a whole one with no read
(R186). -/
def viewWrite (w : Writer) (rs : List Run) (s : State) : State :=
  let s := (rs.filter fun r => !combines r.1).foldl
    (fun s r => tierWrite (pteVf r.1) r.2.1 r.2.2 (dropWc (fun e => (unitsOf r.2.1 r.2.2.length).contains e.unit) s)) s
  (byUnit (rs.filter fun r => combines r.1)).foldl (fun s x => wcArrive w x.1 x.2.1 x.2.2 s) s

/-- Bytes that a write has replaced leave the entry of their unit. -/
def WcEntry.without (new : List (Nat × Byte)) (e : WcEntry) : WcEntry :=
  { e with bytes := e.bytes.filter fun x => !new.any fun y => y.1 = x.1 }

/-- An atomic's write through its views: its bytes are written back at once, in the atomics' place of the cycle, and replace what the buffer
holds of them (R192, R202). -/
def viewWriteNow (w : Writer) (rs : List Run) (s : State) : State :=
  let s := viewWrite w (rs.filter fun r => !combines r.1) s
  (byUnit (rs.filter fun r => combines r.1)).foldl (fun s x =>
    let s := dropWc (fun e => e.unit = x.2.1 && pteView e.pte ≠ pteView x.1) s
    let s := s.mapEng fun g => { g with wc := g.wc.map fun e => if e.unit = x.2.1 then e.without x.2.2 else e }
    wcFlush ⟨x.2.1, x.1, x.2.2, s.gcyc, w.access.isSome, w.access, [], w.pc, w.second⟩ (dropWc (fun e => e.bytes.isEmpty) s)) s

/-- A byte as the core in focus reads it through a view: from its own buffer, or from the controller (R186); none where the tag
fails. -/
def viewByte (raw : Word) (s : State) (a : Nat) : Option Byte :=
  match s.core.eng.wc.find? fun e => e.unit = a / 256 && pteView e.pte = pteView raw with
  | some e =>
    match e.bytes.find? fun x => x.1 = a with
    | some x => some x.2
    | none => (unitRead raw (a / 256) s).map fun bs => bs.getD (a % 256) 0
  | none => if pteKey raw = 0 then some (memRead s.mem a) else (unitRead raw (a / 256) s).map fun bs => bs.getD (a % 256) 0

/-- Bytes through a view, or the address of the first byte whose unit fails its tag. -/
def viewRead (raw : Word) (s : State) : Nat → Nat → Except Nat (List Byte)
  | _, 0 => .ok []
  | a, n + 1 =>
    match viewByte raw s a with
    | none => .error a
    | some b => match viewRead raw s (a + 1) n with | .ok bs => .ok (b :: bs) | e => e

end Sys2Proof.Machine
end

