-- ==== Sys2Proof/Machine/Records.lean ====
section
/-!
DEFINITION. Machine/Records.lean: step failures, the latch records of a trap frame, and the reporting port with its rings (R341, R345,
R352 to R355, R406).
-/
namespace Sys2Proof.Machine

/-! ## Step failures (R406) and causes (R329) -/

/-- Record a cause for the step in progress; from the cutoff on it counts for the next step (R328, R406). -/
def recordCause (bit : Nat) (s : State) : State :=
  let m : BitVec 8 := 1 <<< bit
  if s.pod.closed then { s with pod := { s.pod with nextCauses := s.pod.nextCauses ||| m } }
  else { s with pod := { s.pod with causes := s.pod.causes ||| m } }

/-- A step failure of the core in focus: logged, and a FAULT cause where it takes part in a pod launch. -/
def stepFail (code : Nat) (s : State) : State :=
  let s := logEvent 5 7 s.core.idx s.vfOf 0 0 code s
  if bit s.core.domain 3 then recordCause 5 s else s

/-! ## The latch records of a trap frame (R341, R345) -/

/-- The strands in their order. -/
def strandOrder : List StrandId := [.C, .A, .V, .M]

def Frame.strand (f : Frame) : StrandId → SavedStrand
  | .C => f.sc | .A => f.sa | .V => f.sv | .M => f.sm

/-- The latch records of a strand from VVAL unit u on, and the units they take. -/
def latchRecs (tcyc : Nat) : List Flight → Nat → List Byte × List Byte
  | [], _ => ([], [])
  | f :: fs, u =>
    let units := if f.kind = .scalar then 0 else f.regs.length
    let r := latchRecs tcyc fs (u + units)
    let reg := (f.regs.head?.map fun g => g.reg.toNat).getD 0
    let val := if f.kind = .scalar then ((f.regs.head?.map fun g => (g.val.setWidth 64 : Word).toNat).getD 0) else 0
    let w0 := f.kind.num + reg * 2 ^ 8 + (f.regs.length - 1) % 8 * 2 ^ 16 + (if units = 0 then 0 else u % 256) * 2 ^ 24
      + (f.lands.getD tcyc + 1 - tcyc) % 2 ^ 16 * 2 ^ 32
    (leBytes 8 w0 ++ leBytes 8 val ++ r.1,
      (if units = 0 then [] else f.regs.flatMap fun g => regBytes g.val) ++ r.2)

/-- Latch records of the four strands one after another. -/
def allLatches (f : Frame) : List StrandId → Nat → List (Nat × List Byte) × List Byte
  | [], _ => ([], [])
  | st :: sts, u =>
    let r := latchRecs f.tcyc (f.strand st).st.flights u
    let q := allLatches f sts (u + r.2.length / 512)
    ((0x0E00 + 128 * st.num, r.1.take 128) :: q.1, r.2 ++ q.2)

/-- The frame's latch records and vector values. -/
def latchPieces (f : Frame) : List (Nat × List Byte) :=
  let lat := allLatches f strandOrder 0
  lat.1 ++ [(0x1000, lat.2.take 8192)]

/-- Where the trap area of the running context lies. -/
def trapArea (s : State) : Nat := poolAddr s.core.idx (trapBase s.core.partw (if s.core.second then 1 else 0))

/-- The context's frame stands in its trap area: the handler runs, has handed the core over, or has returned. -/
def Ctx.framed (x : Ctx) : Bool :=
  match x.handler with
  | .none | .entering _ => false
  | _ => true

/-- A value that its unit forms when the frame already stands in memory goes into its latch record there (R341). -/
def relatchHere (s : State) : State :=
  match s.ctx.frame with
  | some f => if s.ctx.framed then (latchPieces f).foldl (fun s p => s.poke (trapArea s + p.1) p.2) s else s
  | none => s

def relatch (s : State) : State :=
  if s.core.ctx.frame.isNone && s.core.shadow.frame.isNone then s else withShadow relatchHere (relatchHere s)

/-! ## The reporting port (R353 to R355) -/

def recCore (r : Rec) : Nat := (fld r.w3 0 10).toNat
def recVf (r : Rec) : Nat := (fld r.w3 10 4).toNat
def recRetry (r : Rec) : Bool := bit r.w1 46

def Rec.bytes (r : Rec) : List Byte :=
  leBytes 8 r.w0.toNat ++ leBytes 8 r.w1.toNat ++ leBytes 8 r.w2.toNat ++ leBytes 8 r.w3.toNat

def State.ring (s : State) (n : Nat) : Ring := s.rings.toList.getD n ⟨false, 0, 0, 0, 0, 0⟩
def State.setRing (s : State) (n : Nat) (r : Ring) : State :=
  if h : n < 18 then { s with rings := s.rings.set n r h } else s

/-- A ring has room (R353). -/
def Ring.room (r : Ring) : Bool := r.set && 6 ≤ r.logn && r.logn ≤ 16 && r.tail - r.head ≠ BitVec.ofNat 32 (2 ^ r.logn)

/-- One copy of a record. -/
def ringWrite (n : Nat) (r : Rec) (s : State) : State :=
  let g := s.ring n
  breakTags (g.base + 32 * (g.tail.toNat % 2 ^ g.logn)) 32 (s.poke (g.base + 32 * (g.tail.toNat % 2 ^ g.logn)) r.bytes)

def ringStep (n : Nat) (s : State) : State := s.setRing n { s.ring n with tail := (s.ring n).tail + 1 }

/-- The next list to serve: weighted round robin, weight 0 only when every other list is empty (R354). -/
def nextList (s : State) : Option (Nat × Nat) :=
  let has := fun v => s.lists.any fun r => recVf r = v
  let wt := fun v => (s.ring v).wt
  let v := s.rrPort.1
  if has v && s.rrPort.2 < wt v then some (v, s.rrPort.2 + 1)
  else
    let order := (List.range 16).map fun j => (v + 1 + j) % 16
    match order.find? fun w => has w && 0 < wt w with
    | some w => some (w, 1)
    | none => (order.find? has).map fun w => (w, 0)

/-- Each core's oldest record, once due, enters its VF's list. -/
def drainRecs : List Core → List Rec → Nat → List Rec
  | [], ls, _ => ls
  | c :: cs, ls, now =>
    match c.eng.recs with
    | r :: _ => drainRecs cs (if r.due ≤ now && !(ls.any fun q => recCore q = c.idx) then ls ++ [r] else ls) now
    | [] => drainRecs cs ls now

/-- The record leaves its core's buffer, or is refused back to it (R355). -/
def settleRec (k : Nat) (ok : Bool) (s : State) : State :=
  withCore k (fun s =>
    match s.core.eng.recs with
    | [] => s
    | r :: rs =>
      if ok then count 0x0C 1 (s.mapEng fun e => { e with recs := rs ++ e.recWait.take 1, recWait := e.recWait.drop 1 })
      else
        let due := s.gcyc + 64 * 2 ^ min r.refused 6
        addDue due 9 0 (.recordRetry k) (s.mapEng fun e => { e with recs := { r with refused := r.refused + 1, due := due } :: rs })) s

/-- One write of the port: both copies before either TAIL advances, or a refusal. -/
def portWrite (s : State) : State :=
  match nextList s with
  | none => s
  | some (v, given) =>
    match s.lists.find? fun r => recVf r = v with
    | none => s
    | some r =>
      let s := { s with lists := s.lists.filter (fun q => recCore q ≠ recCore r), rrPort := (v, given) }
      let n := if recRetry r then 16 else 17
      if (s.ring n).room && (s.ring v).room then
        settleRec (recCore r) true (ringStep v (ringStep n (ringWrite v r (ringWrite n r s))))
      else settleRec (recCore r) false s

/-- The port's cycle: records enter the lists, one is served, and it goes on while anything waits. -/
def recordStep (s : State) : State :=
  let s := portWrite { s with lists := drainRecs s.cores s.lists s.gcyc }
  if !s.lists.isEmpty || s.cores.any fun c => match c.eng.recs with | r :: _ => decide (r.due ≤ s.gcyc + 1) | [] => false then
    addDue (s.gcyc + 1) 9 0 .recordWrite s
  else s

def execRecordWrite (s : State) : Out := .next (recordStep s)
def execRecordRetry (k : Nat) (s : State) : Out := onUnit (k < Config.cores) (addDue s.gcyc 9 0 .recordWrite) s

end Sys2Proof.Machine
end

