-- ==== Sys2Proof/Machine/Windows.lean ====
section
/-!
DEFINITION. Machine/Windows.lean: posting a write through a remote window (R323 to R325).
-/
namespace Sys2Proof.Machine

/-- The pod index of the package (R4). -/
def State.podIdx (s : State) : Nat := s.pod.x + 8 * s.pod.y + 64 * s.pod.z

def State.window (s : State) (w : Nat) : Window := s.windows.toList.getD w .idle
def State.setWindow (s : State) (w : Nat) (x : Window) : State :=
  if h : w < 64 then { s with windows := s.windows.set w x h } else s

/-- Plinth bytes charged for a write of n bytes (R324). -/
def postCharge (n : Nat) : Nat := 32 * ((n + 16 + 31) / 32)

/-- The rule works on words of 4 bytes (R324). -/
def Window.typed (w : Window) : Bool := 2 ≤ w.rule && w.rule ≤ 5

/-- Posts of strand A on their way through window w, of all cores, in cycles of which p holds: writes and charge. -/
def postsAhead (w : Nat) (p : Nat → Bool) (s : State) : Nat × Nat :=
  s.cores.foldl (fun n k => k.ctx.acc.foldl (fun n a =>
    match a.kind with
    | .post v =>
      if v = w && !a.done && a.p.all p then
        (n.1 + a.pieces.length, n.2 + a.pieces.foldl (fun m x => m + postCharge x.2) 0)
      else n
    | _ => n) n) (0, 0)

/-- The next cycle is the boundary cycle at which LEFT becomes ALLOW (R324, R328). -/
def nextIsBoundary (s : State) : Bool := s.pod.bounds.contains (s.gcyc + 1)

/-- The allowance covers writes of these lengths, posted in the next cycle. -/
def allowanceCovers (w : Nat) (lens : List Nat) (s : State) : Bool :=
  let x := s.window w
  let left := if nextIsBoundary s then x.allow else x.left
  let ahead := (postsAhead w (fun p => !nextIsBoundary s || decide (s.gcyc < p)) s).2
  ahead + lens.foldl (fun m n => m + postCharge n) 0 ≤ left

/-- The egress queue has room for n more in the next cycle, at whose start a boundary empties it (R325). -/
def windowRoom (w n : Nat) (s : State) : Bool :=
  (if nextIsBoundary s then 0 else (s.window w).queue.length)
    + (postsAhead w (fun p => !nextIsBoundary s || decide (s.gcyc < p)) s).1 + n ≤ 512

/-- The egress queue has room for n more in this cycle. -/
def windowHolds (w n : Nat) (s : State) : Bool :=
  (s.window w).queue.length + (postsAhead w (fun p => !nextIsBoundary s || decide (p ≤ s.gcyc)) s).1 + n ≤ 512

/-- The first slot cycle of a window at or after c (R325). -/
def slotFrom (w : Window) (c : Nat) : Nat :=
  let p := 2 ^ w.plog
  let r := c % p
  if w.phase ≤ r && r < w.phase + w.slotf then c
  else if r < w.phase then c - r + w.phase else c - r + p + w.phase

/-- The head of a window's queue is looked at in cycle c, after a boundary that starts in it (R325). -/
def departAt (c w : Nat) (s : State) : State := addDue c 1 (w + 1) (.slotDepart w) s

/-- The output ports of a route (R323). -/
def routePorts (w : Window) : List Nat := (List.range w.hops).map fun h => (fld w.route (5 * h) 5).toNat

/-- Post one write in the cycle of the state: it is charged and enters the egress queue with its post stamp (R324). -/
def postWrite (agent w off : Nat) (bytes : List Byte) (s : State) : State :=
  let x := s.window w
  let p : Packet :=
    { sender := s.podIdx, tgt := x.tgt, win := w, seq := x.seq, off := off, rule := x.rule, tsp := x.tsp, tclu := x.tclu
      tcore := x.tcore, vf := s.vfOf, cyc := s.gcyc, core := s.core.idx, agent := agent, route := routePorts x, bytes := bytes
      hdrOk := true, crcOk := true, poison := false, lost := [], again := false, bad := false }
  let s := s.setWindow w { x with left := x.left - postCharge bytes.length, seq := (x.seq + 1) % 2 ^ 32, queue := x.queue ++ [p] }
  departAt (if x.hops = 0 then s.gcyc + 1 else slotFrom x (s.gcyc + 1)) w s

end Sys2Proof.Machine
end

