-- ==== Sys2Proof/Machine/Access.lean ====
section
/-!
DEFINITION. Machine/Access.lean: strand A's access unit: the checks of a pointer, when an access performs, the pending window, and
the halts of free-mode page faults (R95 to R100, R190 to R214, R304 to R306, R350, R351).
-/
namespace Sys2Proof.Machine

/-! ## Checks of a pointer (R97 to R100, R284, R294, R313) -/

/-- What an access wants of its space (R96). -/
inductive Reach where
  | load (d : Bool)      -- d: it is LD.d, which BARRIER space admits
  | store | atomic | mailbox | copySrc | copyDst | coded | localOnly
  deriving DecidableEq, Repr

def Reach.admits : Reach → Nat → Bool
  | .load _, sp => sp ≤ 3
  | .store, sp => sp ≤ 5
  | .atomic, sp => sp ≤ 3
  | .mailbox, sp => sp = 7
  | .copySrc, sp => sp ≤ 3
  | .copyDst, sp => sp ≤ 5
  | .coded, sp => sp ≤ 1
  | .localOnly, sp => sp = 2

def Vf.ownsCore (v : Vf) (k : Nat) : Bool := v.pairs.contains (k / 2)
def Vf.ownsCluster (v : Vf) (c : Nat) : Bool := v.pairs.any fun p => p / 4 = c
/-- Base and size of the VF's slice of a cluster (R103). -/
def Vf.sliceOf (v : Vf) (c : Nat) : Option (Nat × Nat) :=
  if v.ownsCluster c then (v.slices.find? fun x => x.1 = c).map Prod.snd else none

/-- The running launch has configured the window (R98, R100). -/
def windowOpen (w : Nat) (s : State) : Bool :=
  (s.window w).valid && match s.ctx.group with | some g => (s.window w).launch = g.launch | none => false

/-- The size of the space a pointer names, where the place has one (R96, R98). -/
def spaceSize (p : Word) (s : State) : Option Nat :=
  let v := s.vf s.vfOf
  match ptrSpace p with
  | 0 => some (2 ^ 48)
  | 1 => (v.sliceOf (ptrClu p)).map Prod.snd
  | 2 => some (localSize s.core.partw)
  | 3 => if v.ownsCore (ptrIdx p) then some (localSize (s.coreAt (ptrIdx p)).partw) else none
  | 4 => if (v.sliceOf (ptrClu p)).isSome then some (localSize s.core.partw) else none
  | 5 => if windowOpen (ptrWin p) s then some (s.window (ptrWin p)).size else none
  | 6 => if v.ownsCore (ptrIdx p) then some 512 else none
  | _ => some (2 ^ 22)

/-- Mailbox m (R209). -/
def State.mbox (s : State) (m : Nat) : Option Mailbox := s.mboxes.find? fun b => b.idx = m
def State.setMbox (s : State) (b : Mailbox) : State :=
  { s with mboxes := b :: s.mboxes.filter fun x => x.idx ≠ b.idx }

/-- The launch holds the windows of a cluster (R294). -/
def holdsWindows (c : Nat) (s : State) : Bool :=
  match s.ctx.group with
  | some g => s.winHold.any fun p => p.1 = c && p.2 = g.launch
  | none => false

/-- The VF owns the place, and the membership bits admit it (R100, R284, R107). -/
def placeOk (p : Word) (s : State) : Bool :=
  let v := s.vf s.vfOf
  let far := ptrClu p ≠ s.core.idx / 8
  match ptrSpace p with
  | 1 => (v.sliceOf (ptrClu p)).isSome && (!far || bit s.core.domain 2)
  | 3 => v.ownsCore (ptrIdx p) && (!far || bit s.core.domain 2)
  | 4 => (v.sliceOf (ptrClu p)).isSome && (!far || bit s.core.domain 2)
  | 5 => windowOpen (ptrWin p) s && bit s.core.domain 3
  | 6 => v.ownsCore (ptrIdx p) && (!far || bit s.core.domain 2) && (ptrIdx p = s.core.idx || bit s.core.domain 1)
      && (ptrOff p < 384 || (bit s.core.domain 1 && holdsWindows (ptrClu p) s))
  | 7 => match s.mbox (ptrOff p / 4096) with | some b => b.on && b.vf = s.vfOf | none => false
  | _ => true

/-- The barrier word a BARRIER pointer names. -/
def barAt (p : Word) (s : State) : Bar := s.bar (barKey (ptrIdx p) (ptrOff p / 8))

/-- A live word among n bytes of BARRIER space (R313). -/
def liveUnder (p : Word) (n : Nat) (s : State) : Bool :=
  (List.range ((ptrOff p % 8 + n + 7) / 8)).any fun j => (s.bar (barKey (ptrIdx p) (ptrOff p / 8 + j))).live

/-- Step 4 of R99. -/
def admission (r : Reach) (n : Nat) (p : Word) (s : State) : Option (BitVec 6) :=
  if ptrSpace p = 6 then
    if !placeOk p s then some 0x07 else
    match r with
    | .load true => none
    | .store | .atomic => if liveUnder p n s then some 0x08 else some 0x07
    | _ => some 0x07
  else if r.admits (ptrSpace p) && placeOk p s then none else some 0x07

/-- Steps 1 to 5 of R99 for n bytes at a pointer: the number of the step that fails, and its exception. -/
def stepFault (r : Reach) (align n : Nat) (timed : Bool) (p : Word) (s : State) : Option (Nat × BitVec 6) :=
  if !canonical p then some (1, 0x04)
  else if ptrOff p % align ≠ 0 then some (2, 0x03)
  else if ptrSpace p = 5 && windowOpen (ptrWin p) s && (s.window (ptrWin p)).typed && (ptrOff p % 4 ≠ 0 || n % 4 ≠ 0)
  then some (2, 0x03)
  else if (match spaceSize p s with | some z => decide (z < ptrOff p + n) | none => false) then some (3, 0x05)
  else match admission r n p s with
    | some c => some (4, c)
    | none =>
      if timed && ((ptrSpace p = 0 && r ≠ .copySrc && r ≠ .copyDst && r ≠ .coded) || (ptrSpace p = 3 && ptrClu p ≠ s.core.idx / 8))
      then some (5, 0x0D) else none

/-- The failure of the earliest step among several elements, of elements that fail the same step that of the first (R199). So a VSTS that
names live and dead barrier words takes the code of its first failing element, where VST takes 0x08 for a live word (R313; log entry
34, DESIGN CHOICE). -/
def worstFault : List (Nat × BitVec 6) → Option (BitVec 6)
  | [] => none
  | x :: xs => some ((xs.foldl (fun b y => if y.1 < b.1 then y else b) x).2)

/-! ## An access as its instruction asks for it -/

/-- What an instruction of strand A asks of the access unit. -/
structure Req where
  kind   : AccKind
  reach  : Reach
  align  : Nat
  len    : Nat                    -- bytes of one element
  ptrs   : List Word              -- elements in order; the first is the access's first byte
  desc   : Bool
  data   : List Byte
  dest   : Option (RegKind × BitVec 5)
  merge  : Bool                   -- a relaxed ST or store form (R205)
  rel    : Bool
  acq    : Bool
  scope  : Nat
  rights : Bool × Bool
  deriving DecidableEq, Repr

def Req.first (q : Req) : Word := q.ptrs.headD 0
def Req.space (q : Req) : Nat := ptrSpace q.first

/-- Where the bytes of an element lie (R95 to R107); window offsets and multicast offsets stay offsets, GLOBAL stays virtual. -/
def placeOf (p : Word) (s : State) : Nat :=
  match ptrSpace p with
  | 1 => clusterAddr (ptrClu p) ((((s.vf s.vfOf).sliceOf (ptrClu p)).map Prod.fst).getD 0 + ptrOff p)
  | 2 => poolAddr s.core.idx (ptrOff p)
  | 3 => poolAddr (ptrIdx p) (ptrOff p)
  | _ => ptrOff p

/-- The cores of the launch in a cluster, by the address of their scratchpad (R105). -/
def members (c : Nat) (s : State) : List Nat :=
  match s.launchOf s.ctx with
  | some l => ((List.range 8).map fun j => 8 * c + j).filter (fun k => l.first ≤ k && k < l.first + l.count) |>.map fun k => poolAddr k 0
  | none => []

/-- Perform offset and latency (R191, R295). -/
def naturalTime (k : Nat) (store : Bool) (p : Word) : Nat × Nat :=
  match ptrSpace p, store with
  | 1, false => (11, 24)
  | 1, true => (11, 0)
  | 2, false => (1, 6)
  | 3, false => (6, 14)
  | 3, true => (5, 0)
  | 4, _ => (8, 0)
  | 5, _ => (1, 0)
  | 6, _ => if ptrIdx p = k then (1, 6) else (6, 14)
  | _, _ => (0, 0)

/-- Strided loads take 4 cycles more (R199). -/
def AccKind.extra : AccKind → Nat
  | .load (.strided _) => 4
  | _ => 0

def AccKind.isStore : AccKind → Bool
  | .store | .post _ => true
  | _ => false

/-- The mailbox side of a mailbox instruction takes no queue entry and no part in the window (R210, R212). -/
def AccKind.queued : AccKind → Bool
  | .mbxSend _ | .mbxQuery _ => false
  | _ => true

/-- The access as it enters the queue. -/
def Req.access (q : Req) (s : State) : Access :=
  let ps := q.ptrs.map fun p => (placeOf p s, q.len)
  let t := naturalTime s.core.idx q.kind.isStore q.first
  let glob := q.space = 0
  { id := s.nextId, kind := q.kind, ptr := q.first
    va := if glob then ps else [], pieces := if glob then [] else ps
    copies := if q.space = 4 then members (ptrClu q.first) s else [0]
    data := q.data, was := [], fwd := [], desc := q.desc, nat := t.1, lat := t.2 + q.kind.extra, rights := q.rights
    p := none, issued := s.gcyc, pc := s.str.pc, timed := s.str.timed, ptes := [], done := false, cancelled := false, rid := none, walk := none }

/-! ## The pending window (R193) -/

def Access.global (a : Access) : Bool := ptrSpace a.ptr = 0

/-- A multicast member takes a piece that fits its scratchpad (R105): each element of a VSTS, and each beat of a copy, is kept or dropped by
itself (log entry 34, DESIGN CHOICE). -/
def fits (s : State) (a : Access) (c : Nat) (x : Nat × Nat) : Bool :=
  ptrSpace a.ptr ≠ 4 || x.1 + x.2 ≤ localSize (s.coreAt ((c - 2 ^ 40) / 2 ^ 21)).partw

/-- The memory addresses an access reaches, as runs, with the position of each run in its data. -/
def Access.runs (s : State) (a : Access) : List (Nat × Nat × Nat) :=
  if !a.kind.queued || ptrSpace a.ptr = 5 || ptrSpace a.ptr = 6 then [] else
  let at' := (a.pieces.foldl (fun (acc : List (Nat × Nat × Nat) × Nat) x => (acc.1 ++ [(x.1, x.2, acc.2)], acc.2 + x.2)) ([], 0)).1
  a.copies.flatMap fun c => (at'.filter fun x => fits s a c (x.1, x.2.1)).map fun x => (c + x.1, x.2.1, x.2.2)

def meets (xs ys : List (Nat × Nat × Nat)) : Bool :=
  xs.any fun x => ys.any fun y => x.1 < y.1 + y.2.1 && y.1 < x.1 + x.2.1

def Access.overlaps (s : State) (a b : Access) : Bool := meets (a.runs s) (b.runs s)

/-- What a store holds for the access with this id: its value before the stores after that access joined it (R205). -/
def Access.dataFor (id : Nat) (a : Access) : List Byte := ((a.was.find? fun v => decide (id < v.1)).map Prod.snd).getD a.data

/-- Those bytes by address, those of an earlier element first. -/
def Access.bytesAt (s : State) (id : Nat) (a : Access) : List (Nat × Byte) :=
  (a.runs s).flatMap fun x => (List.range x.2.1).map fun j => (x.1 + j, (a.dataFor id).getD (x.2.2 + j) 0)

/-- A later write of one byte wins. -/
def lastWins (bs : List (Nat × Byte)) : List (Nat × Byte) := bs.foldl (fun m x => mergeBytes m [x]) []

/-- What a load takes from the pending stores before it: for each byte the latest earlier store's, unless an atomic issued after
that store reaches the byte (R193, R304). -/
def forwarded (s : State) (earlier : List Access) (a : Access) : List (Nat × Byte) :=
  let mine := a.runs s
  let within := fun (b : Nat) => mine.any fun x => x.1 ≤ b && b < x.1 + x.2.1
  earlier.foldl (fun m e =>
    if !e.overlaps s a then m
    else match e.kind with
      | .store => mergeBytes m ((lastWins (e.bytesAt s a.id)).filter fun x => within x.1)
      | .atomic .. | .cas .. => m.filter fun x => !(e.runs s).any fun r => r.1 ≤ x.1 && x.1 < r.1 + r.2.1
      | _ => m) []

def Access.isAtomic (a : Access) : Bool := match a.kind with | .atomic .. | .cas .. => true | _ => false

/-- The perform cycle from a natural one, and whether an atomic moved a load or an atomic (R193). -/
def moved (s : State) (earlier : List Access) (a : Access) (nat : Nat) : Nat × Bool :=
  earlier.foldl (fun r e =>
    match e.p with
    | none => r
    | some ep =>
      if !e.overlaps s a then r
      else if a.kind.isStore then (max r.1 (if e.isStore then ep + 1 else ep), r.2)
      else if (a.isAtomic || e.isAtomic) && nat ≤ ep then (max r.1 (ep + 1), true)
      else r) (nat, false)

/-- Two GLOBAL accesses of kinds that perform in issue order (R304). -/
def ordered (e a : Access) : Bool :=
  e.global && a.global
    && ((!a.kind.isStore && !e.kind.isStore) || ((a.kind.isStore || a.isAtomic) && (e.kind.isStore || e.isAtomic)))

/-- GLOBAL accesses keep their order by kind (R304). -/
def globalAfter (earlier : List Access) (a : Access) (p : Nat) : Nat :=
  earlier.foldl (fun p e => match e.p with | some ep => if ordered e a then max p (ep + 1) else p | none => p) p

/-- Pending accesses before access id, still to perform or performing in this cycle. -/
def earlierOf (id : Nat) (s : State) : List Access :=
  (s.ctx.acc.takeWhile fun e => e.id ≠ id).filter fun e => e.pendingAt s.gcyc

def mapAccess (id : Nat) (f : Access → Access) (s : State) : State :=
  s.mapCtx fun x => { x with acc := x.acc.map fun a => if a.id = id then f a else a }

def State.access (s : State) (id : Nat) : Option Access := s.ctx.acc.find? fun a => a.id = id

def performRank (a : Access) : Nat :=
  match a.kind with
  | .store => 6
  | .post _ => 4
  | .atomic .. | .cas .. => 5
  | _ => 1

/-- Fix the perform cycle of a translated access from a cycle on (R191, R193, R304). -/
def planAccess (id : Nat) (s : State) : State :=
  match s.access id with
  | none => s
  | some a =>
    let earlier := earlierOf id s
    let d := if a.global then draw s else (0, s)
    let s := d.2
    let nat := if a.global then globalAfter earlier a (s.gcyc + max 1 (Config.tierDelay d.1)) else s.gcyc + a.nat
    let m := moved s earlier a nat
    let s := mapAccess id (fun a => { a with p := some m.1, fwd := if a.kind.isStore || a.isAtomic then [] else forwarded s earlier a }) s
    let s := addDue m.1 (performRank a) (2 * s.core.idx) (.accessPerform s.core.idx id) s
    let s := addDue m.1 9 s.core.idx (.groupEnd s.core.idx) s
    if a.kind.isStore || a.global then s
    else
      let lands := m.1 + a.lat - a.nat - 1
      addDue lands 8 s.core.idx (.resultLanding s.core.idx)
        (mapFlight id (fun f => { f with lands := some lands, pend := f.pend || m.2 }) s)

/-! ## Translation and halts (R111, R350, R351) -/

/-- What the access asks of a page. The header and timetable reads of STRM.CHK and STRM.OPEN ask what a load does, so a page with CMP = 1
gives 0x07 (R112, R152; log entry 34, DESIGN CHOICE). -/
def Access.xrights (a : Access) : Rights := ⟨a.rights.1, a.rights.2, some false, a.timed, a.desc⟩

/-- Translate the pieces in address order and give the runs in element order. -/
def xlateAccess (a : Access) (s : State) : Xlate × State :=
  if a.desc then
    match xlateAll .a a.xrights s.vfOf a.va.reverse s with
    | (.ok rs, s) => (.ok rs.reverse, s)
    | r => r
  else xlateAll .a a.xrights s.vfOf a.va s

/-- A new reply identifier of the context (R352). -/
def takeRid (s : State) : BitVec 16 × State := (s.ctx.rid, s.mapCtx fun x => { x with rid := x.rid + 1 })

/-- A record is outstanding for a region that holds the address. -/
def outstanding (va : Nat) (s : State) : Option PageWait := s.ctx.waits.find? fun w => w.base ≤ va && va < w.base + w.size

/-- The pointer of the access's first byte in the failing page (R339: TVAL is the access's own pointer). -/
def pageRecord (a : Access) (rid : BitVec 16) (pend : Bool) (s : State) : Rec :=
  let r := mkRec s 0x06 a.pc 1 1 a.ptr true rid
  if pend then { r with w1 := r.w1 ||| BitVec.ofNat 64 (2 ^ 47) } else r

/-- The unit halts at the access: a record unless one is outstanding for the region, and everything behind it in either queue waits (R350);
a mailbox instruction's action holds an entry of no queue. -/
def haltUnit (id va base size : Nat) (s : State) : State :=
  match s.access id with
  | none => s
  | some a =>
    let t : BitVec 16 × State := match outstanding va s with
      | some w => (w.rid, s)
      | none =>
        let r := takeRid s
        (r.1, raiseRec (pageRecord a r.1 false r.2)
          (r.2.mapCtx fun x => { x with waits := x.waits ++ [⟨r.1, base, size, none, some id⟩] }))
    let rid := t.1
    let s := t.2
    let behind := (s.ctx.acc.dropWhile fun e => e.id ≠ id).filter fun e => e.kind.queued && !e.done && e.pendingAt s.gcyc
    let s := behind.foldl (fun s e => mapFlight e.id (fun f => { f with lands := none, pend := true }) s) s
    s.mapCtx fun x => { x with
      auHalt := true
      acc := x.acc.map fun e =>
        if e.id = id then { e with rid := some rid, p := none }
        else if behind.any fun b => b.id = e.id then { e with p := none } else e }

/-- A register whose result is discarded becomes dead (R357). -/
def deadenFlight (f : Flight) (s : State) : State :=
  f.regs.foldl (fun (s : State) (r : Landing) =>
    match f.kind with
    | .scalar =>
      if r.reg = 0 then s else
        s.mapCtx fun x => { x with a := { x.a with dead := x.a.dead ||| ((1 : BitVec 32) <<< r.reg.toNat) } }
    | .vector => s.mapCtx fun x => { x with vdead := x.vdead ||| ((1 : BitVec 32) <<< (physV x.v.rotb r.reg).val) }
    | .pred => s) s

/-- A deferred trap of the core becomes due; it is taken with the cycle's issues, the one of higher class first (R336, R349,
R357). -/
def deferTrap (e : Exc) (s : State) : State :=
  let keep := match s.core.deferred with | some d => decide (excClass d.code.toNat ≤ excClass e.code.toNat) | none => false
  if keep then s else { s with core := { s.core with deferred := some e } }

/-- Accesses are discarded and their destinations become dead. -/
def dropAccesses (gone : List Nat) (s : State) : State :=
  let lost := fun (f : Flight) => match f.access with | some i => gone.contains i | none => false
  let s := (s.ctx.a.flights.filter lost).foldl (fun s f => deadenFlight f s) s
  s.mapCtx fun x => { x with
    a := { x.a with flights := x.a.flights.filter fun f => !lost f }
    acc := x.acc.filter fun e => !gone.contains e.id
    waits := x.waits.filter fun w => match w.access with | some i => !gone.contains i | none => true }

/-- The halted access and every access behind it in the queues are discarded, and the core takes the trap (R357). -/
def failAccess (id : Nat) (code : BitVec 6) (s : State) : State :=
  match s.access id with
  | none => s
  | some a =>
    let gone := ((s.ctx.acc.dropWhile fun e => e.id ≠ id).filter fun e => e.kind.queued && !e.done).map fun e => e.id
    deferTrap ⟨code, a.ptr, .A, true⟩ ((dropAccesses gone s).mapCtx fun x => { x with auHalt := false })

/-- A read fails its tag or meets an uncorrectable word only at its perform cycle: the access alone is discarded (log entry 19,
DEDUCED). -/
def failRead (code : BitVec 6) (a : Access) (s : State) : State := deferTrap ⟨code, a.ptr, .A, true⟩ (dropAccesses [a.id] s)

/-- Start the accesses that wait, in queue order, until one halts the unit or is not translated in time (R350, R346). One that holds a page
not present from a trap's shadow halts it at once (R351). -/
def pump : Nat → State → State
  | 0, s => s
  | fuel + 1, s =>
    if s.ctx.auHalt then s else
    match s.ctx.acc.find? fun a => a.p.isNone && !a.cancelled with
    | none => s
    | some a =>
      if s.ctx.waits.any fun w => a.rid = some w.rid then s.mapCtx fun x => { x with auHalt := true }
      else if a.va.isEmpty then pump fuel (planAccess a.id s)
      else match a.walk with
      | some (va, b, z) => haltUnit a.id va b z (mapAccess a.id (fun a => { a with walk := none }) s)
      | none =>
      match xlateAccess a s with
        | (.ok rs, s) =>
          pump fuel (planAccess a.id (mapAccess a.id (fun a => { a with
            va := [], pieces := rs.map fun r => (r.1, r.2.1), ptes := rs.map fun r => r.2.2 }) s))
        | (.bad c va b z, s) => if c = 0x06 then haltUnit a.id va b z s else failAccess a.id c s

/-- A record attaches to the frame of the context numbered by `second`: its PFR entry and NPF, and at the end of the cycle TCAUSE.PFP; the
frame keeps TCAUSE as written at t (R338, R344, R351). -/
def attachPfr (second : Bool) (r : Rec) (s : State) : State :=
  match (s.ctxNum second).frame with
  | none => s
  | some f =>
    let base := poolAddr s.core.idx (trapBase s.core.partw (if second then 1 else 0))
    let s := s.mapCtxNum second fun x => { x with frame := some { f with pfr := f.pfr ++ [r] } }
    let s := s.poke (base + 0x0D80 + 32 * f.pfr.length) r.bytes
    let s := s.poke (base + 0x1C) [BitVec.ofNat 8 (f.pfr.length + 1 + if f.segv then 16 else 0)]
    stage (.pfp s.core.idx) s

/-- A page not present in a trap's shadow, from t to u − 1, attaches to the frame; a fifth is held until u (R351). At u the access is issued
again. -/
def shadowFault (a : Access) (va base size : Nat) (s : State) : State :=
  match s.ctx.frame with
  | none => s
  | some f =>
    if (outstanding va s).isSome || !s.ctx.inHandler s.gcyc then s
    else if 4 ≤ f.pfr.length then mapAccess a.id (fun a => { a with walk := some (va, base, size) }) s
    else
      let r := takeRid s
      let rec' := pageRecord a r.1 true r.2
      let s := mapAccess a.id (fun a => { a with rid := some r.1 }) (raiseRec rec' r.2)
      attachPfr s.core.second rec' (s.mapCtx fun x => { x with waits := x.waits ++ [⟨r.1, base, size, none, some a.id⟩] })

/-- A walk ends (R111). In a trap's shadow only a page not present has an effect (R342, R351). -/
def walkDone (id : Nat) (s : State) : State :=
  match s.access id with
  | none => s
  | some a =>
    if a.cancelled then
      match xlateAccess a s with
      | (.bad 0x06 va b z, s) => shadowFault a va b z s
      | (_, s) => s
    else if a.p.isNone && s.ctx.acc.find? (fun e => e.p.isNone && !e.cancelled) = some a then pump 64 s
    else s

/-- The walk's access is in either context (R351, R359). -/
def walkEnds (id : Nat) (s : State) : State := if (s.access id).isSome then walkDone id s else withShadow (walkDone id) s

def execTranslationWalk (k id : Nat) (s : State) : Out := onCore k (walkEnds id) s

/-! ## Issue -/

/-- An acquire is not over for an access of this scope; mailbox instructions and engine commands wait for every one (R204, R306). -/
def acquireWaits (level : Nat) (s : State) : Bool := s.ctx.gate.acq.any fun g => level ≤ g.2.toNat && s.pendingId g.1

/-- A release waits for the earlier accesses in its scope (R204, R301). -/
def releaseWaits (q : Req) (s : State) : Bool :=
  q.rel && (pendingIn q.scope true s ≠ [] || (q.scope = 2 && s.core.eng.wc.any fun e => e.hasA))

/-- An atomic issued after store e is pending in e's space, or reaches e's bytes: it keeps its place before a later store (R193, R304, R305). -/
def atomicBehind (e : Access) (s : State) : Bool :=
  (s.ctx.acc.dropWhile fun x => x.id ≠ e.id).any fun x =>
    x.isAtomic && x.pendingAt s.gcyc && (ptrSpace x.ptr = ptrSpace e.ptr || x.overlaps s e)

/-- The youngest pending store, which a relaxed store to exactly its bytes joins (R205). An acquire-only store form counts as a plain store
(log entry 34, DESIGN CHOICE). A store does not pass an atomic by joining (R305; log entry 34, DEDUCED). -/
def mergeInto (q : Req) (a : Access) (s : State) : Option Access :=
  if !q.merge || q.space = 5 then none else
  match (s.ctx.acc.filter fun e => e.kind.isStore && e.pendingAt s.gcyc && !e.done).getLast? with
  | none => none
  | some e =>
    if atomicBehind e s then none
    else if e.kind = .store && ptrSpace e.ptr = q.space && e.data.length = q.data.length && e.copies = a.copies
        && e.va = a.va && e.pieces = a.pieces then some e
    else if e.kind = .store && q.space = 0 && ptrSpace e.ptr = 0 && e.data.length = q.data.length && e.va.isEmpty
        && (match (xlateAccess a s).1 with | .ok rs => rs.map (fun r => (r.1, r.2.1)) = e.pieces | _ => false) then some e
    else none

/-- Loads and atomics, and stores, that hold a queue entry (R190). -/
def queueLength (store : Bool) (s : State) : Nat :=
  (s.ctx.acc.filter fun e => e.kind.queued && e.kind.isStore = store && e.pendingAt s.gcyc).length

/-- Bytes of runs that are read from memory, not taken from earlier stores. -/
def ownBytes (fwd : List (Nat × Byte)) (rs : List (Nat × Nat × Word)) : List (Nat × Word) :=
  rs.flatMap fun r => ((List.range r.2.1).map fun j => (r.1 + j, r.2.2)).filter fun x => !fwd.any fun y => y.1 = x.1

/-- Bytes that are read fail their tag or lie in an uncorrectable word (R185, R397; log entry 19, DEDUCED). -/
def readFault (glob : Bool) (fwd : List (Nat × Byte)) (rs : List (Nat × Nat × Word)) (s : State) : Option (BitVec 6) :=
  let own := ownBytes fwd rs
  if glob && own.any fun x => (viewByte x.2 s x.1).isNone then some 0x12
  else if own.any fun x => s.badAt x.1 1 then some 0x13
  else none

/-- The fault of an access that is translated, at its issue: what pending stores supply is not read. -/
def issueFault (a : Access) (rs : List (Nat × Nat × Word)) (s : State) : Option (BitVec 6) :=
  if a.kind.isStore then none
  else
    let a := { a with pieces := rs.map fun r => (r.1, r.2.1) }
    readFault a.global (forwarded s (s.ctx.acc.filter (Access.pendingAt s.gcyc)) a) rs s

/-- The checks of an access at its issue. -/
def accessCheck (q : Req) (s : State) : Option Stop :=
  let a := q.access s
  let word := barAddr (barKey (ptrIdx q.first) (ptrOff q.first / 8))
  if acquireWaits (a.scope s.core.idx) s || releaseWaits q s then some .wait else
  match worstFault (q.ptrs.filterMap fun p => stepFault q.reach q.align q.len s.str.timed p s) with
  | some c => some (.trap c q.first)
  | none =>
    let x := if a.global then (xlateAccess a s).1 else .ok (if q.space < 4 then a.pieces.map fun x => (x.1, x.2, 0) else [])
    match (match x with
      | .bad c _ _ _ => if c = 0x06 then none else some c
      | .ok rs => if q.space = 6 && !q.kind.isStore && s.badAt word 8 then some 0x13 else issueFault a rs s) with
    | some c => some (.trap c q.first)
    | none =>
      match q.kind with
      | .post w =>
        if !allowanceCovers w (q.ptrs.map fun _ => q.len) s then some (.trap 0x15 0)
        else if !windowRoom w q.ptrs.length s || 16 ≤ queueLength true s then some .hold else none
      | _ =>
        if (mergeInto q a s).isSome then none
        else if q.kind.queued && 16 ≤ queueLength q.kind.isStore s then some .hold
        else if s.str.timed && (moved s (s.ctx.acc.filter (Access.pendingAt s.gcyc)) a (s.gcyc + a.nat)).2 then
          some (.trap 0x0D 0)
        else none

/-- Every page of the access is in the stream TLB. -/
def allInTlb (a : Access) (s : State) : Bool :=
  a.va.all fun x => inTlb .a s.vfOf x.1 s && inTlb .a s.vfOf (x.1 + x.2 - 1) s

/-- The access enters its queue and starts, unless it waits for a walk or behind a halt (R190, R350). -/
def enterAccess (q : Req) (s : State) : State :=
  let a := q.access s
  let first := !s.ctx.acc.any fun e => e.p.isNone
  let s := { s with nextId := s.nextId + 1 }.mapCtx fun x => { x with acc := x.acc ++ [a] }
  let s := match q.dest with
    | some (k, r) =>
      flyFrom a.id k [⟨r, 0, BitVec.allOnes 4096⟩] none a.global s a.global
    | none => s
  if s.ctx.auHalt then mapFlight a.id (fun f => { f with pend := true }) s
  else if !a.global then planAccess a.id s
  else if !first then s
  else if allInTlb a s then pump 64 s
  else
    let d := draw s
    addDue (s.gcyc + 1 + Config.walkDelay d.1) 4 (8 * s.core.idx + 1) (.translationWalk s.core.idx a.id) d.2

/-- What an access does when it issues (R190, R204, R205). -/
def accessEff (q : Req) (s : State) : State :=
  match mergeInto q (q.access s) s with
  | some e => mapAccess e.id (fun e => { e with data := q.data, was := e.was ++ [(s.nextId, e.data)] }) s
  | none =>
    let id := s.nextId
    let s := enterAccess q s
    s.mapCtx fun x => { x with gate := { x.gate with
      acq := (x.gate.acq.filter fun g => s.pendingId g.1) ++ (if q.acq then [(id, BitVec.ofNat 2 q.scope)] else []) } }

/-- Issue an instruction that is one access. -/
def issueAccess (h : Hdr) (long : Bool) (us : List Use) (n : Need) (q : State → Req) (s : State) : Out :=
  issue h long us n (fun s => accessCheck (q s) s) (fun s => plain (accessEff (q s) s)) s

/-- A plain load or store. -/
def plainReq (kind : AccKind) (reach : Reach) (align len : Nat) (p : Word) (data : List Byte)
    (dest : Option (RegKind × BitVec 5)) : Req :=
  { kind := if ptrSpace p = 5 && kind = .store then .post (ptrWin p) else kind
    reach := reach, align := align, len := len, ptrs := [p], desc := false, data := data, dest := dest, merge := false
    rel := false, acq := false, scope := 3, rights := (!kind.isStore, kind.isStore) }

/-! ## Scalar loads and stores (R195 to R197) -/

/-- LEA of s_a and imm10·u (R195). -/
def rriPtr (f : RI10) (u : Nat) (s : State) : Word := lea (s.rs f.a) (sext10 f.imm * BitVec.ofNat 64 u)

def issueLd (h : Hdr) (f : RI10) (n : Nat) (signed : Bool) (s : State) : Out :=
  issueAccess h false (usesRI10 f) oneLatch
    (fun s => plainReq (.load (.scalar n signed)) (.load (n = 8)) n n (rriPtr f n s) [] (some (.scalar, f.d))) s

def execLdB (h : Hdr) (f : RI10) (s : State) : Out := issueLd h f 1 true s
def execLdH (h : Hdr) (f : RI10) (s : State) : Out := issueLd h f 2 true s
def execLdW (h : Hdr) (f : RI10) (s : State) : Out := issueLd h f 4 true s
def execLdD (h : Hdr) (f : RI10) (s : State) : Out := issueLd h f 8 true s
def execLdBn (h : Hdr) (f : RI10) (s : State) : Out := issueLd h f 1 false s
def execLdHn (h : Hdr) (f : RI10) (s : State) : Out := issueLd h f 2 false s
def execLdWn (h : Hdr) (f : RI10) (s : State) : Out := issueLd h f 4 false s

def issueSt (h : Hdr) (f : RI10) (n : Nat) (s : State) : Out :=
  issueAccess h false (useS f.d :: usesRI10 f) noNeed
    (fun s => { plainReq .store .store n n (rriPtr f n s) (leBytes n (s.rs f.d).toNat) none with merge := true }) s

def execStB (h : Hdr) (f : RI10) (s : State) : Out := issueSt h f 1 s
def execStH (h : Hdr) (f : RI10) (s : State) : Out := issueSt h f 2 s
def execStW (h : Hdr) (f : RI10) (s : State) : Out := issueSt h f 4 s
def execStD (h : Hdr) (f : RI10) (s : State) : Out := issueSt h f 8 s

/-! ## Vector loads and stores (R198 to R200) -/

def execVld (h : Hdr) (f : RI10) (s : State) : Out :=
  issueAccess h false (usesRI10 f) oneLatch
    (fun s => plainReq (.load .vector) (.load false) 64 512 (rriPtr f 64 s) [] (some (.vector, f.d))) s

def execVst (h : Hdr) (f : RI10) (s : State) : Out :=
  issueAccess h false (useV f.d :: usesRI10 f) noNeed
    (fun s => plainReq .store .store 64 512 (rriPtr f 64 s) (regBytes (s.rv f.d)) none) s

/-- Element width of the w field. -/
def elemBytes (w : BitVec 2) : Nat := 2 ^ w.toNat

def execVldb (h : Hdr) (f : R2w) (s : State) : Out :=
  issueAccess h false [useS f.a f.la] oneLatch
    (fun s => plainReq (.load (.bcast (elemBytes f.w))) (.load false) (elemBytes f.w) (elemBytes f.w) (s.rs f.a) []
      (some (.vector, f.d))) s

/-- The element pointers LEA(s_a, i·s_b), with i·s_b exact: one that leaves the offset field is non-canonical (R71, R199). -/
def stridePtrs (f : R3w) (s : State) : List Word :=
  let a := s.rs f.a
  (List.range (512 / elemBytes f.w)).map fun (i : Nat) =>
    let t : Int := (ptrOff a : Int) + (i : Int) * (s.rs f.b).toInt
    if 0 ≤ t ∧ t < 2 ^ 48 then fld a 48 16 ++ BitVec.ofInt 48 t
    else (0xF : BitVec 4) ++ fld a 48 12 ++ BitVec.ofInt 48 t

def strideReq (kind : AccKind) (reach : Reach) (f : R3w) (data : List Byte) (dest : Option (RegKind × BitVec 5)) (s : State) :
    Req :=
  { plainReq kind reach (elemBytes f.w) (elemBytes f.w) (s.rs f.a) data dest with
    ptrs := stridePtrs f s, desc := (s.rs f.b).toInt < 0 }

def execVlds (h : Hdr) (f : R3w) (s : State) : Out :=
  issueAccess h false [useS f.a f.la, useS f.b f.lb] oneLatch
    (strideReq (.load (.strided (elemBytes f.w))) (.load false) f [] (some (.vector, f.d))) s

def execVsts (h : Hdr) (f : R3w) (s : State) : Out :=
  issueAccess h false [useV f.d, useS f.a f.la, useS f.b f.lb] noNeed
    (fun s => strideReq .store .store f (regBytes (s.rv f.d)) none s) s

/-! ## Atomics (R202, R203) -/

def atomBytes (w : BitVec 2) : Nat := if w = 0 then 4 else 8

/-- An ATOM: its store form, its load form, and the others. -/
def atomReq (op : AtomOp) (f : AtomF) (s : State) : Req :=
  let n := atomBytes f.wide
  let p := s.rs f.a
  let base : Req :=
    { plainReq .store .atomic n n p (leBytes n (s.rs f.b).toNat) none with
      rel := bit f.order 1, acq := bit f.order 0, scope := f.scope.toNat, rights := (true, true) }
  if op = .swap && f.d = 0 then { base with kind := .store, merge := f.order = 0 }
  else if op = .or && f.b = 0 then { base with kind := .load (.scalar n true), data := [], dest := some (.scalar, f.d) }
  else { base with kind := .atomic op n (s.rs f.b), data := [], dest := some (.scalar, f.d) }

/-- The latch an ATOM needs: none in its store form. -/
def atomNeed (op : AtomOp) (f : AtomF) : Need := if op = .swap && f.d = 0 then noNeed else oneLatch

def issueAtom (h : Hdr) (f : AtomF) (op : AtomOp) (s : State) : Out :=
  issueAccess h true [useS f.a f.la, useS f.b f.lb] (atomNeed op f) (atomReq op f) s

def execAtomAdd (h : Hdr) (f : AtomF) (s : State) : Out := issueAtom h f .add s
def execAtomAnd (h : Hdr) (f : AtomF) (s : State) : Out := issueAtom h f .and s
def execAtomOr (h : Hdr) (f : AtomF) (s : State) : Out := issueAtom h f .or s
def execAtomXor (h : Hdr) (f : AtomF) (s : State) : Out := issueAtom h f .xor s
def execAtomMin (h : Hdr) (f : AtomF) (s : State) : Out := issueAtom h f .min s
def execAtomMax (h : Hdr) (f : AtomF) (s : State) : Out := issueAtom h f .max s
def execAtomMinn (h : Hdr) (f : AtomF) (s : State) : Out := issueAtom h f .minn s
def execAtomMaxn (h : Hdr) (f : AtomF) (s : State) : Out := issueAtom h f .maxn s
def execAtomSwap (h : Hdr) (f : AtomF) (s : State) : Out := issueAtom h f .swap s

def casReq (f : CasF) (s : State) : Req :=
  let n := atomBytes f.wide
  { plainReq (.cas n (s.rs f.d) (s.rs f.b)) .atomic n n (s.rs f.a) [] (some (.scalar, f.d)) with
    rel := bit f.order 1, acq := bit f.order 0 || f.forder = 1, scope := f.scope.toNat, rights := (true, true) }

def execCas (h : Hdr) (f : CasF) (s : State) : Out :=
  issueAccess h true [useS f.d, useS f.a f.la, useS f.b f.lb] oneLatch (casReq f) s

/-! ## Fences (R206, R207) -/

/-- The next instruction of strand A waits for these accesses, and perhaps for what the accesses so far leave in the write-combining
buffer. -/
def closeGate (ids : List Nat) (wc : Bool) (s : State) : State :=
  s.mapCtx fun x => { x with gate := { x.gate with all := ids, wc := if wc then s.nextId else 0 } }

def execFence (h : Hdr) (f : FenceF) (s : State) : Out :=
  issue h false [] noNeed noCheck
    (fun s =>
      let stores := bit f.order 1
      plain (closeGate ((pendingIn f.scope.toNat stores s).map fun a => a.id) (stores && f.scope = 2) s)) s

/-- MARK starts the read-modify-write of every entry that strand A created in its issue cycle. -/
def markEff (s : State) : State :=
  let ids := (pendingIn 3 true s).map fun a => a.id
  let mine := s.core.eng.wc.filter fun e => e.byA
  let s := s.mapEng fun g => { g with wc := g.wc.map fun e => if e.byA then { e with due := s.gcyc } else e }
  closeGate ids true (mine.foldl (fun s e => wcDue s.gcyc e.unit s) s)

def execMark (h : Hdr) (s : State) : Out := issue h false [] noNeed noCheck (fun s => plain (markEff s)) s

/-! ## Translation maintenance (R213, R214) -/

/-- TLBI's removal, at the end of its cycle. -/
def dropTlb (vf : Nat) (va : Option Nat) (s : State) : State :=
  let keep := fun (l : List TlbEntry) => l.filter fun e => !(e.vf = vf && match va with | some a => e.holds vf a | none => true)
  { s with core := { s.core with
      tlbC := keep s.core.tlbC, tlbA := keep s.core.tlbA, tlbX := keep s.core.tlbX, tlbV := keep s.core.tlbV
      tlbM := keep s.core.tlbM } }

def execTlbiPage (h : Hdr) (f : R1) (s : State) : Out :=
  issue h false [useS f.a f.la] noNeed
    (fun s =>
      let p := s.rs f.a
      if !canonical p then some (.trap 0x04 p)
      else if ptrSpace p ≠ 0 then some (.trap 0x07 p)
      else if s.str.timed then some (.trap 0x0D p)
      else none)
    (fun s => plain (stage (.tlbi s.core.idx s.vfOf (some (ptrOff (s.rs f.a)))) s)) s

def execTlbiVf (h : Hdr) (_ : Ra) (s : State) : Out :=
  issue h false [] noNeed (fun s => if s.str.timed then some (.trap 0x0D 0) else none)
    (fun s => plain (stage (.tlbi s.core.idx s.vfOf none) s)) s

/-- PREF walks for page after page; a walk that fails passes over the smallest page (R214). -/
def prefWalk (last : Nat) : Nat → Nat → State → State
  | 0, _, s => s
  | n + 1, va, s =>
    if last < va then s else
    match lookup .a s.vfOf va s with
    | .found p => prefWalk last n (p.base + p.size) (enterStream .a s.vfOf p s)
    | _ => prefWalk last n (va / 65536 * 65536 + 65536) s

def execPref (h : Hdr) (f : R2s) (s : State) : Out :=
  issue h false [useS f.a f.la, useS f.b f.lb] noNeed
    (fun s => if s.str.timed then some (.trap 0x0D (s.rs f.a)) else none)
    (fun s =>
      let p := s.rs f.a
      plain (if !canonical p || ptrSpace p ≠ 0 || s.rs f.b = 0 then s
        else prefWalk (min (2 ^ 48 - 1) (ptrOff p + (s.rs f.b).toNat - 1)) 16 (ptrOff p) s)) s

/-! ## Performing (R191, R192) -/

/-- The runs of a translated access with their page entries. -/
def Access.paged (a : Access) : List (Nat × Nat × Word) :=
  (a.pieces.zip (a.ptes ++ List.replicate a.pieces.length 0)).map fun r => (r.1.1, r.1.2, r.2)

/-- One byte as the access reads it: what an earlier store forwards, or what memory holds (R193). -/
def loadByte (a : Access) (raw : Word) (s : State) (b : Nat) : Option Byte :=
  match a.fwd.find? fun y => y.1 = b with
  | some y => some y.2
  | none => if a.global then viewByte raw s b else some (memRead s.mem b)

/-- Bytes of a load at its perform cycle; none where a tag fails. -/
def loadBytes (a : Access) (s : State) : Option (List Byte) :=
  let bs := a.paged.flatMap fun r => (List.range r.2.1).map fun j => loadByte a r.2.2 s (r.1 + j)
  if bs.all Option.isSome then some (bs.filterMap id) else none

def sextN (n : Nat) (x : Nat) : Word := BitVec.ofInt 64 (BitVec.ofNat (8 * n) x).toInt

/-- The result a load forms from its bytes. -/
def loadValue (f : LoadForm) (bs : List Byte) : VReg :=
  match f with
  | .scalar n true => (sextN n (leNat bs)).setWidth 4096
  | .scalar _ false => BitVec.ofNat 4096 (leNat bs)
  | .vector => bytesReg bs
  | .bcast n => splat (8 * n) (leNat bs)
  | .strided _ => bytesReg bs

def setValue (id : Nat) (v : VReg) (s : State) : State :=
  mapFlight id (fun f => { f with regs := f.regs.map fun r => { r with val := v } }) s

/-- A GLOBAL result lands at some cycle at or after its perform cycle (R191). -/
def landLater (a : Access) (s : State) : State :=
  if a.global then
    let d := draw s
    let c := s.gcyc + Config.tierDelay d.1
    addDue c 8 s.core.idx (.resultLanding s.core.idx) (mapFlight a.id (fun f => { f with lands := some c }) d.2)
  else s

/-- The value a read-modify-write leaves, or none (R202, R203). -/
def atomNew (k : AccKind) (old : Nat) : Option Nat :=
  match k with
  | .atomic op n v =>
    let w := 8 * n
    let a := BitVec.ofNat w old
    let b := v.setWidth w
    some (match op with
      | .add => (a + b).toNat
      | .and => (a &&& b).toNat
      | .or => (a ||| b).toNat
      | .xor => (a ^^^ b).toNat
      | .min => (if b.slt a then b else a).toNat
      | .max => (if a.slt b then b else a).toNat
      | .minn => (if b.ult a then b else a).toNat
      | .maxn => (if a.ult b then b else a).toNat
      | .swap => b.toNat)
  | .cas n e v => if BitVec.ofNat (8 * n) old = e.setWidth (8 * n) then some (v.setWidth (8 * n)).toNat else none
  | _ => none

def AccKind.width : AccKind → Nat
  | .atomic _ n _ => n
  | .cas n _ _ => n
  | _ => 0

/-- The runs of a write with their bytes. -/
def cutRuns : List (Nat × Nat × Word) → List Byte → List Run
  | [], _ => []
  | (a, n, raw) :: rs, bs => (raw, a, bs.take n) :: cutRuns rs (bs.drop n)

def Access.writer (a : Access) (s : State) : Writer := ⟨some a.id, none, a.pc, s.core.second⟩

/-- Write a store's bytes in element order, to every member of a multicast that they fit (R105, R199; log entry 34, DESIGN CHOICE). -/
def writeAll (a : Access) (data : List Byte) (s : State) : State :=
  let rs := cutRuns a.paged data
  if a.global then (if a.isAtomic then viewWriteNow else viewWrite) (a.writer s) rs s
  else a.copies.foldl (fun s c =>
    rs.foldl (fun s r => if fits s a c (r.2.1, r.2.2.length) then s.poke (c + r.2.1) r.2.2 else s) s) s

def markDone (id : Nat) (s : State) : State := mapAccess id (fun a => { a with done := true }) s

/-- Words read that hold single-bit errors are noted (R397). -/
def noteReads (a : Access) (s : State) : State :=
  a.pieces.foldl (fun s x => countBytes false x.1 x.2 (noteSoft x.1 x.2 a.ptr s)) s

/-- What a read meets at its perform cycle (R185, R397). -/
def loadFault (a : Access) (s : State) : Option (BitVec 6) := readFault a.global a.fwd a.paged s

/-- A load performs. -/
def performLoad (a : Access) (f : LoadForm) (s : State) : State :=
  if ptrSpace a.ptr = 6 then
    if s.badAt (barAddr (barKey (ptrIdx a.ptr) (ptrOff a.ptr / 8))) 8 then failRead 0x13 a s
    else setValue a.id ((barAt a.ptr s).word.setWidth 4096) (markDone a.id s)
  else match loadFault a s, loadBytes a s with
    | none, some bs => landLater a (setValue a.id (loadValue f bs) (noteReads a (markDone a.id s)))
    | c, _ => failRead (c.getD 0x12) a s

/-- An atomic performs: it reads, and writes at the end of the cycle. -/
def performAtomic (a : Access) (s : State) : State :=
  match loadFault a s, loadBytes a s with
  | none, some bs =>
    let old := leNat bs
    let s := landLater a (setValue a.id ((sextN a.kind.width old).setWidth 4096) (noteReads a (markDone a.id s)))
    match atomNew a.kind old with
    | some v => writeAll a (leBytes a.kind.width v) s
    | none => s
  | c, _ => failRead (c.getD 0x12) a s

/-- A REMOTE store posts one write per element (R324). -/
def performPost (a : Access) (w : Nat) (s : State) : State :=
  (a.pieces.foldl (fun (r : State × List Byte) x => (postWrite 0 w x.1 (r.2.take x.2) r.1, r.2.drop x.2)) (markDone a.id s, a.data)).1

/-- The first cycle after the last of these entries has been written back. -/
def afterEntries (es : List WcEntry) (s : State) : Option Nat :=
  if es.isEmpty then none else some (es.foldl (fun c e => max c (e.due + 1)) (s.gcyc + 1))

/-- A GLOBAL write of strand A would become visible before bytes of earlier ones that still wait in the write-combining buffer, or an atomic
beside them: the cycle from which it need not wait (R192, R301, R304). Its perform cycle is open, and it waits. -/
def combineWait (a : Access) (s : State) : Option Nat :=
  if !a.global || !(a.kind.isStore || a.isAtomic) then none
  else if a.isAtomic then afterEntries (s.core.eng.wc.filter fun e => e.hasA) s
  else
    let rs := cutRuns a.paged a.data
    let us := byUnit (rs.filter fun r => combines r.1)
    let mine := fun (e : WcEntry) => us.any fun u => u.2.1 = e.unit && pteView u.1 = pteView e.pte
    let others := s.core.eng.wc.filter fun e => e.hasA && !mine e
    let held := s.core.eng.wc.filter mine
    let whole := fun (u : Word × Nat × List (Nat × Byte)) =>
      256 ≤ (mergeBytes (((held.find? fun e => e.unit = u.2.1).map fun e => e.bytes).getD []) u.2.2).length
    let now := (rs.any fun r => !combines r.1) || us.any whole || s.core.wcwait = 0
    afterEntries (if now then others else others.filter fun o => held.any fun e => decide (e.due < o.due)) s

/-- A GLOBAL access waits for one before it that has been put off and has still to perform (R193, R304). -/
def orderWait (a : Access) (s : State) : Option Nat :=
  if !a.global then none
  else
    let es := (earlierOf a.id s).filter fun e =>
      !e.done && (ordered e a || (e.overlaps s a && (a.kind.isStore || a.isAtomic || e.isAtomic)))
    let late := es.filterMap fun e => match e.p with | some p => if s.gcyc ≤ p then some (p + 1) else none | none => none
    if late.isEmpty then none else some (late.foldl max 0)

/-- The access performs in a later cycle. -/
def putOff (a : Access) (c : Nat) (s : State) : State :=
  addDue c (performRank a) (2 * s.core.idx) (.accessPerform s.core.idx a.id)
    (addDue c 9 s.core.idx (.groupEnd s.core.idx) (mapAccess a.id (fun a => { a with p := some c }) s))

/-- TVAL names a register of the strand that holds an error (R339, R397). -/
def upsetReg (e : Exc) (s : State) : Bool :=
  [RegKind.scalar, .pred, .vector].any fun k => fld e.tval 8 24 = BitVec.ofNat 24 k.num && s.ctx.isUpset e.strand ⟨k, fld e.tval 0 5, false, false⟩

/-- Where the word lies whose error a strand's exception reports: UNIT, the address in guest terms, and where it is (R409; log entry 23,
DESIGN CHOICE). -/
def trapPlace (e : Exc) (s : State) : Nat × Word × Nat :=
  let p := e.tval
  if upsetReg e s then (if fld p 8 24 = 3 then 0 else 7, 0, (fld p 0 16).toNat)
  else if e.strand = .V then (4, 0, poolAddr s.core.idx (resultBase s.core.partw + p.toNat))
  else match ptrSpace p with
    | 0 => match walk s s.vfOf (ptrOff p) with
      | .found g => (5, p, (((pageRuns g.raw 1 (ptrOff p - g.base) 1).map Prod.fst).head?).getD 0)
      | _ => (5, p, 0)
    | 6 => (7, p, barAddr (barKey (ptrIdx p) (ptrOff p / 8)))
    | 7 => (8, p, ptrOff p)
    | _ => (unitOf s (placeOf p s), p, placeOf p s)

/-- An integrity failure or an uncorrectable word that a strand has taken is logged (R397, R411); the array's is logged where it is found. -/
def noteTrap (e : Exc) (s : State) : State :=
  if (e.code ≠ 0x12 && e.code ≠ 0x13) || (e.impr && e.strand = .M) then s
  else
    let x := trapPlace e s
    logEvent (if e.code = 0x12 then 6 else 2) x.1 s.core.idx s.vfOf x.2.1 (BitVec.ofNat 64 x.2.2) 0 s

/-- What taking an exception brings about beside its entry (R397, R406): a word's error is logged; a signature mismatch, or an
uncorrectable word in timed mode, is a step failure. -/
def afterTrap (e : Exc) (timed : Bool) (s : State) : State :=
  let s := noteTrap e s
  if e.code = 0x14 || (e.code = 0x13 && timed) then stepFail e.code.toNat s else s

/-- Accesses that have performed before this cycle leave their queue (R190). -/
def pruneAccesses (s : State) : State :=
  s.mapCtx fun x => { x with
    acc := x.acc.filter fun a => !(a.done && !a.pendingAt s.gcyc)
    gate := { x.gate with
      all := x.gate.all.filter s.pendingId
      acq := x.gate.acq.filter fun g => s.pendingId g.1 } }

end Sys2Proof.Machine
end

