-- ==== Sys2Proof/Machine/Control.lean ====
section
/-!
DEFINITION. Machine/Control.lean: transfers, hardware loops and waits (R74 to R87, R288).
-/
namespace Sys2Proof.Machine

/-- Bytes of the executing strand's image. -/
def State.imageEnd (s : State) : Nat := 4 * s.str.image.length

/-- A relative target: PC + 4·off (R74, R75). A negative one lies outside the image (R76). -/
def relTarget (s : State) (off : Int) : Int := s.str.pc + 4 * off

/-- A target outside the image takes space bound, TVAL the offset it would have fetched (R66, R76). -/
def targetStop (t : Int) (s : State) : Option Stop :=
  if 0 ≤ t ∧ t < s.imageEnd then none else some (.trap 0x05 (BitVec.ofInt 64 t))

/-- A conditional branch (R74). -/
def issueBranch (h : Hdr) (f : Br) (cond : Word → Word → Bool) (s : State) : Out :=
  issue h false [useS f.a, useS f.b] noNeed
    (fun s => if cond (s.rs f.a) (s.rs f.b) then targetStop (relTarget s f.off.toInt) s else none)
    (fun s => if cond (s.rs f.a) (s.rs f.b) then jump s (relTarget s f.off.toInt).toNat else plain s) s

def execBeq (h : Hdr) (f : Br) (s : State) : Out := issueBranch h f (fun a b => a == b) s
def execBne (h : Hdr) (f : Br) (s : State) : Out := issueBranch h f (fun a b => a != b) s
def execBlt (h : Hdr) (f : Br) (s : State) : Out := issueBranch h f (fun a b => a.slt b) s
def execBge (h : Hdr) (f : Br) (s : State) : Out := issueBranch h f (fun a b => !a.slt b) s
def execBltn (h : Hdr) (f : Br) (s : State) : Out := issueBranch h f (fun a b => a.ult b) s
def execBgen (h : Hdr) (f : Br) (s : State) : Out := issueBranch h f (fun a b => !a.ult b) s

/-- The link value PC + 4 (R75). -/
def linkOf (s : State) : Word := BitVec.ofNat 64 (s.str.pc + 4)

def execJmp (h : Hdr) (f : J21) (s : State) : Out :=
  issue h false [] noNeed (fun s => targetStop (relTarget s f.off.toInt) s)
    (fun s => jump s (relTarget s f.off.toInt).toNat) s

def execJal (h : Hdr) (f : RI16) (s : State) : Out :=
  issue h false [] noNeed (fun s => targetStop (relTarget s f.imm.toInt) s)
    (fun s => jump (putS f.d (linkOf s) s) (relTarget s f.imm.toInt).toNat) s

/-- JR's target s_a + 4·sext(imm10), mod 2^64, taken as unsigned (R75, R76). -/
def jrTarget (f : RI10) (s : State) : Word := s.rs f.a + 4 * sext10 f.imm

def jrCheck (f : RI10) (s : State) : Option Stop :=
  let t := jrTarget f s
  if t.toNat % 4 ≠ 0 then some (.trap 0x03 t) else targetStop t.toNat s

def execJr (h : Hdr) (f : RI10) (s : State) : Out :=
  issue h false (usesRI10 f) noNeed (jrCheck f)
    (fun s => jump (putS f.d (linkOf s) s) (jrTarget f s).toNat) s

/-! ## Loops -/

/-- n of LOOP and LOOPS: s_count[31:0] (R79). -/
def loopCount (d : BitVec 5) (s : State) : BitVec 32 := (s.rs d).setWidth 32

/-- The checks of R80 and the iteration count of R83. The spec gives those of LOOPS no order among them; the count comes before the body's end
(log entry 34, DESIGN CHOICE). -/
def loopCheck (d : BitVec 5) (lc : BitVec 2) (stages : BitVec 3) (last : BitVec 11) (s : State) : Option Stop :=
  let e := s.str.pc + 4 * last.toNat
  if s.str.loops.any fun l => l.lc = lc then some (.trap 0x01 (s.word.setWidth 64))
  else if s.str.loops.any fun l => l.first ≤ s.str.pc && s.str.pc ≤ l.last && l.last < e then some (.trap 0x01 (s.word.setWidth 64))
  else if 2 ^ 32 ≤ (loopCount d s).toNat + stages.toNat then some (.trap 0x01 (s.word.setWidth 64))
  else if s.imageEnd ≤ e then some (.trap 0x05 (BitVec.ofNat 64 e))
  else none

/-- LOOP and LOOPS (R79, R83): a count of 0 skips the body. -/
def loopEff (d : BitVec 5) (lc : BitVec 2) (stages : BitVec 3) (last : BitVec 11) (s : State) : Eff :=
  let n := loopCount d s
  let t := s.str
  let e := t.pc + 4 * last.toNat
  if n = 0 then ⟨s, none, some (e + 4), 0⟩
  else
    ⟨s.setStr { t with
        lc := t.lc.set lc.toNat (n + stages.setWidth 32) lc.isLt
        loops := ⟨lc, t.pc + 4, e, stages, n, false⟩ :: t.loops }, none, some (t.pc + 4), 0⟩

def execLoop (h : Hdr) (f : Lp) (s : State) : Out :=
  issue h false [useS f.d] noNeed (loopCheck f.d f.lc 0 f.last) (loopEff f.d f.lc 0 f.last) s

def execLoops (h : Hdr) (f : Lps) (s : State) : Out :=
  issue h false [useS f.d] noNeed (loopCheck f.d f.lc f.stages f.last) (loopEff f.d f.lc f.stages f.last) s

/-- LBRK marks the loop if it is active (R82); one that is itself the end word of the loop ends it at that same issue (log entry 34, DESIGN
CHOICE). -/
def execLbrk (h : Hdr) (f : Lb) (s : State) : Out :=
  issue h false [] noNeed noCheck
    (fun s => plain (s.setStr { s.str with
      loops := s.str.loops.map fun l => if l.lc = f.lc then { l with brk := true } else l })) s

/-! ## Waits -/

/-- WAIT adds s_d + imm16 mod 2^64 cycles (R85). -/
def execWait (h : Hdr) (f : RI16) (s : State) : Out :=
  issue h false [useS f.d] noNeed noCheck (fun s => after s (s.rs f.d + f.imm.setWidth 64).toNat) s

/-- WAITG's target lies ahead of what the word itself takes (R86). -/
def waitgAhead (h : Hdr) (f : T32) (s : State) : Bool :=
  1 + h.i.toNat ≤ stampDelta (s.stamp f.t) s.gcyc && stampDelta (s.stamp f.t) s.gcyc < 2 ^ 31

/-- While it serves its count the strand keeps what it held before (R87, R348). -/
def execWaitg (h : Hdr) (f : T32) (s : State) : Out :=
  issue h true [] noNeed
    (fun s => if waitgAhead h f s || !s.str.timed then none else some (.trap 0x0C (f.t.setWidth 64)))
    (fun s =>
      let t := s.str
      if waitgAhead h f s then
        after (s.setStr { t with waitg := some ⟨t.pc, t.loops, t.lc, t.rotb⟩ }) (stampDelta (s.stamp f.t) s.gcyc - 1 - h.i.toNat)
      else plain s) s

/-- ALIGN waits for its target and enters timed mode there; it is evaluated again in every cycle, so a target that has passed
after a return from a handler is a schedule miss (R288). One with S = 1 whose partner is missing in its target cycle (R290) misses its
schedule in the next one in the same way (log entry 34, DESIGN CHOICE). -/
def execAlign (h : Hdr) (f : T32) (s : State) : Out :=
  issue h true [] noNeed
    (fun s =>
      let d := stampDelta (s.stamp f.t) s.gcyc
      if d = 0 then none else if d < 2 ^ 31 then some .wait else some (.trap 0x0C (f.t.setWidth 64)))
    (fun s => plain (s.setStr { s.str with timed := true })) s

end Sys2Proof.Machine
end

