-- ==== Sys2Proof/Machine/Functions.lean ====
section
/-!
DEFINITION. Machine/Functions.lean: the special functions of R241, the patina generator of R277, and VCVT's elements (R238).
2^x, log2 x and tanh x are formed in fixed point with 192 fraction bits and rounded once; the error is far below the distance
of any f32 argument's exact value from a rounding boundary (log entry 18, DEDUCED).
-/
namespace Sys2Proof.Machine

/-- Fraction bits of the fixed point, and one in it. -/
def fxBits : Nat := 192
def fxOne : Nat := 2 ^ 192

/-- Largest r with r² ≤ n, by bits from 2^(k−1) down. -/
def isqrt : Nat → Nat → Nat → Nat
  | 0, r, _ => r
  | k + 1, r, n => isqrt k (if (r + 2 ^ k) * (r + 2 ^ k) ≤ n then r + 2 ^ k else r) n

/-- ln 2: the sum of 1/(k·2^k). -/
def ln2Fx : Nat := (List.range 200).foldl (fun a k => a + fxOne / ((k + 1) * 2 ^ (k + 1))) 0

/-- e^t for 0 ≤ t < 1: the exponential series. -/
def expFx (t : Nat) : Nat :=
  ((List.range 64).foldl (fun p k => let q := p.2 * t / fxOne / (k + 1); (p.1 + q, q)) (fxOne, fxOne)).1

/-- ln(n/d) for d ≤ n < 2d: twice the inverse hyperbolic tangent of (n − d)/(n + d). -/
def lnFx (n d : Nat) : Nat :=
  let z := (n - d) * fxOne / (n + d)
  2 * ((List.range 70).foldl (fun p k => (p.1 + p.2 / (2 * k + 1), p.2 * z / fxOne * z / fxOne)) (0, z)).1

/-- k squarings. -/
def squareFx : Nat → Nat → Nat
  | 0, x => x
  | k + 1, x => squareFx k (x * x / fxOne)

/-- 2^x (R241). -/
def exp2Num : Num → Num
  | .nan => .nan
  | .inf neg => if neg then .fin false 0 0 else .inf false
  | .fin neg m e =>
    let x : Int := scaled neg m (e + fxBits) 0
    if 129 * (fxOne : Int) ≤ x then .fin false 1 300
    else if x ≤ -160 * (fxOne : Int) then .fin false 1 (-400)
    else
      let n := x / fxOne
      let f := (x % fxOne).toNat
      .fin false (expFx (f * ln2Fx / fxOne)) (n - fxBits)

/-- log2 x (R241); a power of two is exact. -/
def log2Num : Num → Num
  | .nan => .nan
  | .inf neg => if neg then .nan else .inf false
  | .fin neg m e =>
    if m = 0 then .inf true else if neg then .nan else
      let l := m.log2
      if m = 2 ^ l then Num.ofInt (e + l)
      else
        let r : Int := (e + l) * fxOne + lnFx m (2 ^ l) * fxOne / ln2Fx
        .fin (r < 0) r.natAbs (-(fxBits : Int))

/-- 1/x: 64 quotient bits and one that says whether anything is left (R241). -/
def rcpNum : Num → Num
  | .nan => .nan
  | .inf neg => .fin neg 0 0
  | .fin neg m e =>
    if m = 0 then .inf neg
    else .fin neg (2 * (2 ^ 64 / m) + (if 2 ^ 64 % m = 0 then 0 else 1)) (-65 - e)

/-- 1/√x, in the same way (R241). -/
def rsqNum : Num → Num
  | .nan => .nan
  | .inf neg => if neg then .nan else .fin false 0 0
  | .fin neg m e =>
    if m = 0 then .inf neg else if neg then .nan else
      let m' := if e % 2 = 0 then m else 2 * m
      let e' := if e % 2 = 0 then e else e - 1
      let q := isqrt 66 0 (2 ^ 128 / m')
      .fin false (2 * q + (if q * q * m' = 2 ^ 128 then 0 else 1)) (-65 - e' / 2)

/-- tanh x (R241): below 2^−13 it lies within half an ulp of x, and from 16 on within half an ulp of 1. -/
def tanhNum : Num → Num
  | .nan => .nan
  | .inf neg => .fin neg 1 0
  | .fin neg m e =>
    if m = 0 then .fin neg 0 0
    else
      let x := m * 2 ^ (e + fxBits).toNat
      if x < fxOne / 2 ^ 13 then .fin neg m e
      else if 16 * fxOne ≤ x then .fin neg 1 0
      else
        let big := squareFx 6 (expFx (x / 32))
        .fin neg ((big - fxOne) * fxOne / (big + fxOne)) (-(fxBits : Int))

/-- A special function on an f32 lane. -/
def fnLane (g : Num → Num) (a : Nat) : Nat := (g (Num.ofBits .f32 a)).round .rne .f32

/-- The patina generator (R277). -/
def patina (klo khi : BitVec 32) (m : BitVec 8) (i : BitVec 32) : BitVec 32 :=
  let x1 := (klo ^^^ i) + m.setWidth 32 * 0x9B1D4E57
  let x2 := x1 ^^^ (x1 >>> 15)
  let x4 := (x2 * 0x5A3C9E1B) ^^^ khi
  let x5 := x4 ^^^ (x4 >>> 12)
  let x6 := x5 * 0x3D4E6A37
  x6 ^^^ (x6 >>> 15)

/-- e of R277. -/
def patinaE (klo khi : BitVec 32) (m : BitVec 8) (i : BitVec 32) : Int :=
  if m = 0 then 0 else
    let x := (patina klo khi m i).toNat
    (x % 256 : Int) + (x / 256 % 256 : Int) + (x / 65536 % 256 : Int) + (x / 16777216 : Int) - 510

/-- Width of a type code (R119). -/
def typeWidth (c : Nat) : Nat :=
  if c = 0 || c = 10 then 4 else if c = 1 || c = 4 || c = 7 || c = 11 || c = 12 then 8
  else if c = 2 || c = 5 || c = 8 then 16 else if c = 13 then 12 else 32

/-- The float format of a code. -/
def floatOf (c : Nat) : Option FloatFmt :=
  if c = 7 then some .f8 else if c = 8 then some .bf16 else if c = 9 then some .f32 else none

/-- The exact value of an element of an integer type (R120). -/
def intOf (c x : Nat) : Int := if c = 4 || c = 5 || c = 6 then (x : Int) else signedOf (typeWidth c) x

/-- The value of an element of code src, a NaN included (R238); bp12 is decided apart. -/
def elemNum (src x : Nat) : Num :=
  match floatOf src with
  | some f => Num.ofBits f x
  | none => if src = 12 then sptNum x else Num.ofInt (intOf src x)

/-- Element conversion (R238). -/
def cvtElem (src dst : Nat) (md : RMode) (x : Nat) : Nat :=
  let w := typeWidth dst
  match floatOf dst with
  | some f => (elemNum src x).round md f
  | none =>
    match floatOf src with
    | some _ =>
      if dst = 4 || dst = 5 || dst = 6 then patOf w ((elemNum src x).toInt md 0 (2 ^ w - 1))
      else patOf w ((elemNum src x).toInt md (-(2 ^ (w - 1))) (2 ^ (w - 1) - 1))
    | none =>
      let v := intOf src x
      if typeWidth src < w then patOf w v
      else if dst = 4 || dst = 5 || dst = 6 then satnPat w v else satPat w v

end Sys2Proof.Machine
end

