-- ==== Sys2Proof/Machine/Vector.lean ====
section
/-!
DEFINITION. Machine/Vector.lean: lane arithmetic, logic, shifts, compare and select, and ROT (R215 to R232).
-/
namespace Sys2Proof.Machine

/-! ## Lane functions -/

/-- WRAP with T = 0, SAT with T = 1 (R121, R222). -/
def fitLane (w : Nat) (t : Bool) (x : Int) : Nat := if t then satPat w x else patOf w x

def addLane (w : Nat) (t : Bool) (a b : Nat) : Nat := fitLane w t (signedOf w a + signedOf w b)
def subLane (w : Nat) (t : Bool) (a b : Nat) : Nat := fitLane w t (signedOf w a - signedOf w b)
def mulLane (w : Nat) (t : Bool) (a b : Nat) : Nat := fitLane w t (signedOf w a * signedOf w b)
def absLane (w : Nat) (t : Bool) (a : Nat) : Nat := fitLane w t (signedOf w a).natAbs
def negLane (w : Nat) (t : Bool) (a : Nat) : Nat := fitLane w t (-signedOf w a)

/-- The reading of a lane: unsigned with T = 1 (R222, R228). -/
def readLane (w : Nat) (t : Bool) (a : Nat) : Int := if t then (a : Int) else signedOf w a

def minLane (w : Nat) (t : Bool) (a b : Nat) : Nat := if readLane w t a < readLane w t b then a else b
def maxLane (w : Nat) (t : Bool) (a b : Nat) : Nat := if readLane w t a < readLane w t b then b else a

/-- a + b, a − b and a·b, rounded once with RNE (R140, R223). -/
def faddLane (f : FloatFmt) (a b : Nat) : Nat := (Num.add (.ofBits f a) (.ofBits f b)).round .rne f
def fsubLane (f : FloatFmt) (a b : Nat) : Nat := (Num.add (.ofBits f a) (Num.neg (.ofBits f b))).round .rne f
def fmulLane (f : FloatFmt) (a b : Nat) : Nat := (Num.mul (.ofBits f a) (.ofBits f b)).round .rne f

/-- The smaller and the larger by R224: a NaN gives way to the other operand. -/
def fminLane (f : FloatFmt) (a b : Nat) : Nat :=
  let x := Num.ofBits f a
  let y := Num.ofBits f b
  if x = .nan && y = .nan then f.nan else if x = .nan then b else if y = .nan then a
  else if belowNum x y then a else b
def fmaxLane (f : FloatFmt) (a b : Nat) : Nat :=
  let x := Num.ofBits f a
  let y := Num.ofBits f b
  if x = .nan && y = .nan then f.nan else if x = .nan then b else if y = .nan then a
  else if belowNum x y then b else a

/-- The sign bit cleared or inverted; a NaN gives the canonical NaN (R224). -/
def fabsLane (f : FloatFmt) (a : Nat) : Nat := if Num.ofBits f a = .nan then f.nan else a % 2 ^ (f.width - 1)
def fnegLane (f : FloatFmt) (a : Nat) : Nat :=
  if Num.ofBits f a = .nan then f.nan else (a + 2 ^ (f.width - 1)) % 2 ^ f.width

/-- ±(a·b) ± c, the product exact, rounded once (R225). -/
def fmaLane (f : FloatFmt) (np nc : Bool) (a b c : Nat) : Nat :=
  let p := Num.mul (.ofBits f a) (.ofBits f b)
  let z := Num.ofBits f c
  (Num.add (if np then p.neg else p) (if nc then z.neg else z)).round .rne f

/-- Shifts by the lane of vb read unsigned (R227). -/
def shlLane (w a s : Nat) : Nat := if s < w then a * 2 ^ s % 2 ^ w else 0
def shrLane (w a s : Nat) : Nat := if s < w then a / 2 ^ s else 0
def sarLane (w a s : Nat) : Nat := patOf w (signedOf w a / 2 ^ min s w)

/-! ## Issue forms -/

/-- The result of a predicated instruction at width w (R217). -/
def vecResult (w lat : Nat) (vd : BitVec 5) (pg : BitVec 3) (xs : List Nat) (s : State) : Eff :=
  plain (results .vector lat [⟨vd, ofLanes w xs, laneMask w (s.rp pg)⟩] s)

/-- A predicated instruction on va and vb. -/
def issueVV (h : Hdr) (vd va vb : BitVec 5) (pg : BitVec 3) (la lb : Bool) (w lat : Nat) (op : Nat → Nat → Nat) (s : State) :
    Out :=
  issue h false [useV va la, useV vb lb, useP pg] (latchV 1) noCheck
    (fun s => vecResult w lat vd pg (List.zipWith op (lanes w (s.rv va)) (lanes w (s.rv vb))) s) s

/-- A predicated instruction on va. -/
def issueVone (h : Hdr) (vd va : BitVec 5) (pg : BitVec 3) (la : Bool) (w lat : Nat) (op : Nat → Nat) (s : State) : Out :=
  issue h false [useV va la, useP pg] (latchV 1) noCheck (fun s => vecResult w lat vd pg ((lanes w (s.rv va)).map op) s) s

/-- A predicated instruction that reads vd as its addend (R225, R240). -/
def issueFma (h : Hdr) (f : V3) (fm : FloatFmt) (np nc : Bool) (s : State) : Out :=
  issue h false [useV f.va f.la, useV f.vb f.lb, useV f.vd, useP f.pg] (latchV 1) noCheck
    (fun s => vecResult fm.width 4 f.vd f.pg
      (List.zipWith (fun ab c => fmaLane fm np nc ab.1 ab.2 c)
        (List.zip (lanes fm.width (s.rv f.va)) (lanes fm.width (s.rv f.vb))) (lanes fm.width (s.rv f.vd))) s) s

/-- Bits n and above of a predicate. -/
def aboveLanes (n : Nat) : PReg := ~~~(BitVec.ofNat 1024 (2 ^ n - 1))

/-- The predicate result of a compare at n lanes: active bits are written, bits from n on are cleared (R218, R228). -/
def predResult (n : Nat) (pd pg : BitVec 3) (bs : List Bool) (s : State) : Eff :=
  plain (results .pred 2 [⟨pd.setWidth 5, (predOf bs &&& s.rp pg).setWidth 4096,
    (s.rp pg ||| aboveLanes n).setWidth 4096⟩] s)

/-- VCMP (R228). -/
def issueCmp (h : Hdr) (f : VCmp) (w : Nat) (cond : Nat → Nat → Bool) (s : State) : Out :=
  issue h false [useV f.va f.la, useV f.vb f.lb, useP f.pg] oneLatch noCheck
    (fun s => predResult (4096 / w) f.pd f.pg (List.zipWith cond (lanes w (s.rv f.va)) (lanes w (s.rv f.vb))) s) s

def cmpInt (f : VCmp) (w : Nat) (a b : Nat) : Bool := condInt f.cond (readLane w f.t a) (readLane w f.t b)
def cmpNum (f : VCmp) (fm : FloatFmt) (a b : Nat) : Bool := condNum f.cond f.t (.ofBits fm a) (.ofBits fm b)

/-- VSEL writes every lane; pg selects (R229). -/
def issueSel (h : Hdr) (f : V3) (w : Nat) (s : State) : Out :=
  issue h false [useV f.va f.la, useV f.vb f.lb, useP f.pg] (latchV 1) noCheck
    (fun s =>
      let m := laneMask w (s.rp f.pg)
      plain (results .vector 2 [⟨f.vd, (s.rv f.va &&& m) ||| (s.rv f.vb &&& ~~~m), BitVec.allOnes 4096⟩] s)) s

/-! ## The instructions -/

def execVaddI8 (h : Hdr) (f : V3t) (s : State) : Out :=
  issueVV h f.vd f.va f.vb f.pg f.la f.lb 8 2 (addLane 8 f.t) s
def execVaddI16 (h : Hdr) (f : V3t) (s : State) : Out :=
  issueVV h f.vd f.va f.vb f.pg f.la f.lb 16 2 (addLane 16 f.t) s
def execVaddI32 (h : Hdr) (f : V3t) (s : State) : Out :=
  issueVV h f.vd f.va f.vb f.pg f.la f.lb 32 2 (addLane 32 f.t) s
def execVaddBf16 (h : Hdr) (f : V3) (s : State) : Out :=
  issueVV h f.vd f.va f.vb f.pg f.la f.lb 16 4 (faddLane .bf16) s
def execVaddF32 (h : Hdr) (f : V3) (s : State) : Out :=
  issueVV h f.vd f.va f.vb f.pg f.la f.lb 32 4 (faddLane .f32) s
def execVsubI8 (h : Hdr) (f : V3t) (s : State) : Out :=
  issueVV h f.vd f.va f.vb f.pg f.la f.lb 8 2 (subLane 8 f.t) s
def execVsubI16 (h : Hdr) (f : V3t) (s : State) : Out :=
  issueVV h f.vd f.va f.vb f.pg f.la f.lb 16 2 (subLane 16 f.t) s
def execVsubI32 (h : Hdr) (f : V3t) (s : State) : Out :=
  issueVV h f.vd f.va f.vb f.pg f.la f.lb 32 2 (subLane 32 f.t) s
def execVsubBf16 (h : Hdr) (f : V3) (s : State) : Out :=
  issueVV h f.vd f.va f.vb f.pg f.la f.lb 16 4 (fsubLane .bf16) s
def execVsubF32 (h : Hdr) (f : V3) (s : State) : Out :=
  issueVV h f.vd f.va f.vb f.pg f.la f.lb 32 4 (fsubLane .f32) s
def execVmulI8 (h : Hdr) (f : V3t) (s : State) : Out :=
  issueVV h f.vd f.va f.vb f.pg f.la f.lb 8 2 (mulLane 8 f.t) s
def execVmulI16 (h : Hdr) (f : V3t) (s : State) : Out :=
  issueVV h f.vd f.va f.vb f.pg f.la f.lb 16 2 (mulLane 16 f.t) s
def execVmulI32 (h : Hdr) (f : V3t) (s : State) : Out :=
  issueVV h f.vd f.va f.vb f.pg f.la f.lb 32 2 (mulLane 32 f.t) s
def execVmulBf16 (h : Hdr) (f : V3) (s : State) : Out :=
  issueVV h f.vd f.va f.vb f.pg f.la f.lb 16 4 (fmulLane .bf16) s
def execVmulF32 (h : Hdr) (f : V3) (s : State) : Out :=
  issueVV h f.vd f.va f.vb f.pg f.la f.lb 32 4 (fmulLane .f32) s
def execVminI8 (h : Hdr) (f : V3t) (s : State) : Out :=
  issueVV h f.vd f.va f.vb f.pg f.la f.lb 8 2 (minLane 8 f.t) s
def execVminI16 (h : Hdr) (f : V3t) (s : State) : Out :=
  issueVV h f.vd f.va f.vb f.pg f.la f.lb 16 2 (minLane 16 f.t) s
def execVminI32 (h : Hdr) (f : V3t) (s : State) : Out :=
  issueVV h f.vd f.va f.vb f.pg f.la f.lb 32 2 (minLane 32 f.t) s
def execVminBf16 (h : Hdr) (f : V3) (s : State) : Out :=
  issueVV h f.vd f.va f.vb f.pg f.la f.lb 16 2 (fminLane .bf16) s
def execVminF32 (h : Hdr) (f : V3) (s : State) : Out :=
  issueVV h f.vd f.va f.vb f.pg f.la f.lb 32 2 (fminLane .f32) s
def execVmaxI8 (h : Hdr) (f : V3t) (s : State) : Out :=
  issueVV h f.vd f.va f.vb f.pg f.la f.lb 8 2 (maxLane 8 f.t) s
def execVmaxI16 (h : Hdr) (f : V3t) (s : State) : Out :=
  issueVV h f.vd f.va f.vb f.pg f.la f.lb 16 2 (maxLane 16 f.t) s
def execVmaxI32 (h : Hdr) (f : V3t) (s : State) : Out :=
  issueVV h f.vd f.va f.vb f.pg f.la f.lb 32 2 (maxLane 32 f.t) s
def execVmaxBf16 (h : Hdr) (f : V3) (s : State) : Out :=
  issueVV h f.vd f.va f.vb f.pg f.la f.lb 16 2 (fmaxLane .bf16) s
def execVmaxF32 (h : Hdr) (f : V3) (s : State) : Out :=
  issueVV h f.vd f.va f.vb f.pg f.la f.lb 32 2 (fmaxLane .f32) s
def execVabsI8 (h : Hdr) (f : VUt) (s : State) : Out := issueVone h f.vd f.va f.pg f.la 8 2 (absLane 8 f.t) s
def execVabsI16 (h : Hdr) (f : VUt) (s : State) : Out := issueVone h f.vd f.va f.pg f.la 16 2 (absLane 16 f.t) s
def execVabsI32 (h : Hdr) (f : VUt) (s : State) : Out := issueVone h f.vd f.va f.pg f.la 32 2 (absLane 32 f.t) s
def execVabsBf16 (h : Hdr) (f : VU) (s : State) : Out := issueVone h f.vd f.va f.pg f.la 16 2 (fabsLane .bf16) s
def execVabsF32 (h : Hdr) (f : VU) (s : State) : Out := issueVone h f.vd f.va f.pg f.la 32 2 (fabsLane .f32) s
def execVnegI8 (h : Hdr) (f : VUt) (s : State) : Out := issueVone h f.vd f.va f.pg f.la 8 2 (negLane 8 f.t) s
def execVnegI16 (h : Hdr) (f : VUt) (s : State) : Out := issueVone h f.vd f.va f.pg f.la 16 2 (negLane 16 f.t) s
def execVnegI32 (h : Hdr) (f : VUt) (s : State) : Out := issueVone h f.vd f.va f.pg f.la 32 2 (negLane 32 f.t) s
def execVnegBf16 (h : Hdr) (f : VU) (s : State) : Out := issueVone h f.vd f.va f.pg f.la 16 2 (fnegLane .bf16) s
def execVnegF32 (h : Hdr) (f : VU) (s : State) : Out := issueVone h f.vd f.va f.pg f.la 32 2 (fnegLane .f32) s
def execVfmaBf16 (h : Hdr) (f : V3) (s : State) : Out := issueFma h f .bf16 false false s
def execVfmaF32 (h : Hdr) (f : V3) (s : State) : Out := issueFma h f .f32 false false s
def execVnfmaBf16 (h : Hdr) (f : V3) (s : State) : Out := issueFma h f .bf16 true false s
def execVnfmaF32 (h : Hdr) (f : V3) (s : State) : Out := issueFma h f .f32 true false s
def execVfmsBf16 (h : Hdr) (f : V3) (s : State) : Out := issueFma h f .bf16 false true s
def execVfmsF32 (h : Hdr) (f : V3) (s : State) : Out := issueFma h f .f32 false true s
def execVandI8 (h : Hdr) (f : V3) (s : State) : Out :=
  issueVV h f.vd f.va f.vb f.pg f.la f.lb 8 2 (fun a b => a &&& b) s
def execVandI32 (h : Hdr) (f : V3) (s : State) : Out :=
  issueVV h f.vd f.va f.vb f.pg f.la f.lb 32 2 (fun a b => a &&& b) s
def execVorI8 (h : Hdr) (f : V3) (s : State) : Out :=
  issueVV h f.vd f.va f.vb f.pg f.la f.lb 8 2 (fun a b => a ||| b) s
def execVorI32 (h : Hdr) (f : V3) (s : State) : Out :=
  issueVV h f.vd f.va f.vb f.pg f.la f.lb 32 2 (fun a b => a ||| b) s
def execVxorI8 (h : Hdr) (f : V3) (s : State) : Out :=
  issueVV h f.vd f.va f.vb f.pg f.la f.lb 8 2 (fun a b => a ^^^ b) s
def execVxorI32 (h : Hdr) (f : V3) (s : State) : Out :=
  issueVV h f.vd f.va f.vb f.pg f.la f.lb 32 2 (fun a b => a ^^^ b) s
def execVnotI8 (h : Hdr) (f : VU) (s : State) : Out := issueVone h f.vd f.va f.pg f.la 8 2 (fun a => 2 ^ 8 - 1 - a) s
def execVnotI32 (h : Hdr) (f : VU) (s : State) : Out := issueVone h f.vd f.va f.pg f.la 32 2 (fun a => 2 ^ 32 - 1 - a) s
def execVshlI8 (h : Hdr) (f : V3) (s : State) : Out := issueVV h f.vd f.va f.vb f.pg f.la f.lb 8 2 (shlLane 8) s
def execVshlI16 (h : Hdr) (f : V3) (s : State) : Out := issueVV h f.vd f.va f.vb f.pg f.la f.lb 16 2 (shlLane 16) s
def execVshlI32 (h : Hdr) (f : V3) (s : State) : Out := issueVV h f.vd f.va f.vb f.pg f.la f.lb 32 2 (shlLane 32) s
def execVshrI8 (h : Hdr) (f : V3) (s : State) : Out := issueVV h f.vd f.va f.vb f.pg f.la f.lb 8 2 (shrLane 8) s
def execVshrI16 (h : Hdr) (f : V3) (s : State) : Out := issueVV h f.vd f.va f.vb f.pg f.la f.lb 16 2 (shrLane 16) s
def execVshrI32 (h : Hdr) (f : V3) (s : State) : Out := issueVV h f.vd f.va f.vb f.pg f.la f.lb 32 2 (shrLane 32) s
def execVsarI8 (h : Hdr) (f : V3) (s : State) : Out := issueVV h f.vd f.va f.vb f.pg f.la f.lb 8 2 (sarLane 8) s
def execVsarI16 (h : Hdr) (f : V3) (s : State) : Out := issueVV h f.vd f.va f.vb f.pg f.la f.lb 16 2 (sarLane 16) s
def execVsarI32 (h : Hdr) (f : V3) (s : State) : Out := issueVV h f.vd f.va f.vb f.pg f.la f.lb 32 2 (sarLane 32) s
def execVcmpI8 (h : Hdr) (f : VCmp) (s : State) : Out := issueCmp h f 8 (cmpInt f 8) s
def execVcmpI16 (h : Hdr) (f : VCmp) (s : State) : Out := issueCmp h f 16 (cmpInt f 16) s
def execVcmpI32 (h : Hdr) (f : VCmp) (s : State) : Out := issueCmp h f 32 (cmpInt f 32) s
def execVcmpF8 (h : Hdr) (f : VCmp) (s : State) : Out := issueCmp h f 8 (cmpNum f .f8) s
def execVcmpBf16 (h : Hdr) (f : VCmp) (s : State) : Out := issueCmp h f 16 (cmpNum f .bf16) s
def execVcmpF32 (h : Hdr) (f : VCmp) (s : State) : Out := issueCmp h f 32 (cmpNum f .f32) s
def execVselI8 (h : Hdr) (f : V3) (s : State) : Out := issueSel h f 8 s
def execVselI16 (h : Hdr) (f : V3) (s : State) : Out := issueSel h f 16 s
def execVselI32 (h : Hdr) (f : V3) (s : State) : Out := issueSel h f 32 s
/-- ROT steps ROTB in the next cycle (R230). -/
def execRot (h : Hdr) (s : State) : Out :=
  issue h false [] noNeed noCheck (fun s => plain (stageRots 1 s)) s

end Sys2Proof.Machine
end

