-- ==== Sys2Proof/Machine/VectorMore.lean ====
section
/-!
DEFINITION. Machine/VectorMore.lean: PERT, conversion, widening products, special functions, reductions, scans, lane moves,
and predicates as values (R233 to R246, R252 to R254).
-/
namespace Sys2Proof.Machine

/-! ## PERT and VCVT -/

/-- PERT writes the named strand's state at the end of the cycle (R235). -/
def execPert (h : Hdr) (f : PertF) (s : State) : Out :=
  issue h false [useS f.a f.la, useS f.b f.lb] noNeed noCheck
    (fun s =>
      let st : StrandId := if f.x = 0 then .C else if f.x = 1 then .A else if f.x = 2 then .V else .M
      plain (stage (.pert s.core.idx s.core.second st ⟨fld (s.rs f.b) 32 8, fld (s.rs f.b) 0 32, s.rs f.a⟩) s)) s

/-- The registers of a group of k names. -/
def groupUses (k : Nat) (v : BitVec 5) (l : Bool) : List Use := (List.range k).map fun j => useV (groupName v j) l

/-- How many names the source and the destination of a shape have (R237). -/
def srcNames : CvtShape → Nat | .narrow k => k | _ => 1
def dstNames : CvtShape → Nat | .widen k => k | _ => 1

/-- The source elements in order (R237). -/
def cvtSource (sh : CvtShape) (f : Vc) (s : State) : List Nat :=
  let w := typeWidth f.src.toNat
  match sh with
  | .patina => (List.range 256).map fun i => (s.rv f.va).toNat / 2 ^ (12 * i) % 4096
  | .narrow k => interleave ((List.range k).map fun j => lanes w (s.rv (groupName f.va j))) (4096 / typeWidth f.dst.toNat)
  | _ => lanes w (s.rv f.va)

/-- The byte g0 and the value e of the generator for element i under strand V's PERT state (R238). -/
def pertWord (p : Pert) (i : Nat) : BitVec 32 :=
  patina (fld p.key 0 32) (fld p.key 32 32) p.mem (p.ctr + BitVec.ofNat 32 i)
def pertE (p : Pert) (i : Nat) : Int := patinaE (fld p.key 0 32) (fld p.key 32 32) p.mem (p.ctr + BitVec.ofNat 32 i)

/-- The converted elements (R238). -/
def cvtOut (sh : CvtShape) (f : Vc) (p : Pert) (xs : List Nat) : List Nat :=
  xs.zipIdx.map fun xi =>
    if sh = .patina then bp12Weight xi.1 (pertE p xi.2)
    else cvtElem f.src.toNat f.dst.toNat
      (if f.rm = 0 then .rne else if f.rm = 1 then .rtz else .sr ((pertWord p xi.2).toNat % 256)) xi.1

/-- The destination registers of a group of k names at width w (R219, R237). -/
def groupLand (k w : Nat) (vd : BitVec 5) (xs : List Nat) (mask : Nat → VReg) : List Landing :=
  (List.range k).map fun j => ⟨groupName vd j, ofLanes w (deal k j xs), mask j⟩

def cvtEff (sh : CvtShape) (f : Vc) (s : State) : Eff :=
  let p := s.str.pert
  let xs := cvtSource sh f s
  let ys := cvtOut sh f p xs
  let s := if f.rm = 2 || sh = .patina then
      s.setStr { s.str with pert := { p with ctr := p.ctr + BitVec.ofNat 32 xs.length } } else s
  plain (results .vector 3 (groupLand (dstNames sh) (typeWidth f.dst.toNat) f.vd ys (fun _ => BitVec.allOnes 4096)) s)

def execVcvt (h : Hdr) (f : Vc) (s : State) : Out :=
  match cvtShape f.src f.dst f.rm with
  | some sh =>
    issue h false (groupUses (srcNames sh) f.va f.la) (latchV (dstNames sh))
      (fun s => if sh.aligned f.vd f.va then none else some (.trap 0x01 (s.word.setWidth 64))) (cvtEff sh f) s
  | none => .next (precise 0x01 (s.word.setWidth 64) s)

/-! ## Widening products (R239, R240) -/

/-- The mask of register j of a widening pair of lane width w under a predicate at the source type (R219). -/
def pairMask (w : Nat) (p : PReg) (j : Nat) : VReg :=
  if p = BitVec.allOnes 1024 then BitVec.allOnes 4096
  else ofLanes w ((List.range (4096 / w)).map fun i => if pbit p (2 * i + j) then 2 ^ w - 1 else 0)

def issueWide (h : Hdr) (vd va vb : BitVec 5) (pg : BitVec 3) (la lb : Bool) (w : Nat) (op : Nat → Nat → Nat) (s : State) : Out :=
  issue h false [useV va la, useV vb lb, useP pg] (latchV 2) noCheck
    (fun s => plain (results .vector 4
      (groupLand 2 (2 * w) vd (List.zipWith op (lanes w (s.rv va)) (lanes w (s.rv vb))) (pairMask (2 * w) (s.rp pg))) s)) s

def wideMul (w : Nat) (t : Bool) (a b : Nat) : Nat := patOf (2 * w) (readLane w t a * readLane w t b)
def wideMulBf (a b : Nat) : Nat := (Num.mul (.ofBits .bf16 a) (.ofBits .bf16 b)).round .rne .f32

def execVwmulI8 (h : Hdr) (f : V3t) (s : State) : Out := issueWide h f.vd f.va f.vb f.pg f.la f.lb 8 (wideMul 8 f.t) s
def execVwmulI16 (h : Hdr) (f : V3t) (s : State) : Out := issueWide h f.vd f.va f.vb f.pg f.la f.lb 16 (wideMul 16 f.t) s
def execVwmulBf16 (h : Hdr) (f : V3) (s : State) : Out := issueWide h f.vd f.va f.vb f.pg f.la f.lb 16 wideMulBf s

/-- Four products of one result lane. -/
def dot4 (t : Bool) (a b : List Nat) (c j : Nat) : Nat :=
  patOf 32 (signedOf 32 c + (List.range 4).foldl
    (fun x q => x + readLane 8 t (a.getD (4 * j + q) 0) * readLane 8 t (b.getD (4 * j + q) 0)) 0)

def execVdot4I8 (h : Hdr) (f : V3t) (s : State) : Out :=
  issue h false [useV f.va f.la, useV f.vb f.lb, useV f.vd, useP f.pg] (latchV 1) noCheck
    (fun s =>
      let a := lanes 8 (s.rv f.va)
      let b := lanes 8 (s.rv f.vb)
      vecResult 32 4 f.vd f.pg ((lanes 32 (s.rv f.vd)).zipIdx.map fun cj => dot4 f.t a b cj.1 cj.2) s) s

/-! ## Special functions, reductions and scans (R241 to R243) -/

def execVexp2 (h : Hdr) (f : VU) (s : State) : Out := issueVone h f.vd f.va f.pg f.la 32 8 (fnLane exp2Num) s
def execVlog2 (h : Hdr) (f : VU) (s : State) : Out := issueVone h f.vd f.va f.pg f.la 32 8 (fnLane log2Num) s
def execVrcp (h : Hdr) (f : VU) (s : State) : Out := issueVone h f.vd f.va f.pg f.la 32 8 (fnLane rcpNum) s
def execVrsq (h : Hdr) (f : VU) (s : State) : Out := issueVone h f.vd f.va f.pg f.la 32 8 (fnLane rsqNum) s
def execVtanh (h : Hdr) (f : VU) (s : State) : Out := issueVone h f.vd f.va f.pg f.la 32 8 (fnLane tanhNum) s

/-- The active lanes of a register. -/
def activeLanes (w : Nat) (v : VReg) (p : PReg) : List Nat :=
  ((lanes w v).zipIdx.filter fun xi => pbit p xi.2).map fun xi => xi.1

/-- A reduction writes one value to every lane (R242). -/
def issueRed (h : Hdr) (vd va : BitVec 5) (pg : BitVec 3) (la : Bool) (w : Nat) (op : List Nat → Nat) (s : State) : Out :=
  issue h false [useV va la, useP pg] (latchV 1) noCheck
    (fun s => plain (results .vector 6
      [⟨vd, splat w (op (activeLanes w (s.rv va) (s.rp pg))), BitVec.allOnes 4096⟩] s)) s

def redSumInt (xs : List Nat) : Nat := patOf 32 (xs.foldl (fun (a : Int) x => a + signedOf 32 x) 0)
def redSumF32 (xs : List Nat) : Nat := (Num.sum (xs.map (Num.ofBits .f32))).round .rne .f32
def redMaxInt (w : Nat) (t : Bool) (xs : List Nat) : Nat :=
  xs.foldl (fun a x => maxLane w t a x) (if t then 0 else 2 ^ (w - 1))
/-- The largest lane, NaN lanes ignored unless there is no other; −inf where no lane is active. -/
def redMaxNum (f : FloatFmt) (neg : Bool) (xs : List Nat) : Nat :=
  let flip := fun x => if neg then fnegLane f x else x
  match xs with
  | [] => 2 ^ (f.width - 1) + f.top + 1
  | x :: xs =>
    let m := xs.foldl (fun a x => fmaxLane f a (flip x)) (flip x)
    if Num.ofBits f m = .nan then f.nan else m

def execVredsI32 (h : Hdr) (f : VU) (s : State) : Out := issueRed h f.vd f.va f.pg f.la 32 redSumInt s
def execVredsF32 (h : Hdr) (f : VU) (s : State) : Out := issueRed h f.vd f.va f.pg f.la 32 redSumF32 s
def execVredmI16 (h : Hdr) (f : VUt) (s : State) : Out := issueRed h f.vd f.va f.pg f.la 16 (redMaxInt 16 f.t) s
def execVredmI32 (h : Hdr) (f : VUt) (s : State) : Out := issueRed h f.vd f.va f.pg f.la 32 (redMaxInt 32 f.t) s
def execVredmBf16 (h : Hdr) (f : VUt) (s : State) : Out := issueRed h f.vd f.va f.pg f.la 16 (redMaxNum .bf16 f.t) s
def execVredmF32 (h : Hdr) (f : VUt) (s : State) : Out := issueRed h f.vd f.va f.pg f.la 32 (redMaxNum .f32 f.t) s

/-- Prefix sums over active lanes: `acc` is the exact sum so far, none before the first. -/
def scanInt (p : PReg) : List (Nat × Nat) → Int → List Nat
  | [], _ => []
  | (x, i) :: xs, acc =>
    let a := if pbit p i then acc + signedOf 32 x else acc
    patOf 32 a :: scanInt p xs a
def scanNum (p : PReg) : List (Nat × Nat) → Option Num → List Nat
  | [], _ => []
  | (x, i) :: xs, acc =>
    let v := Num.ofBits .f32 x
    let a := if pbit p i then (match acc with | some y => some (y.add v) | none => some v) else acc
    (a.getD (.fin false 0 0)).round .rne .f32 :: scanNum p xs a

def issueScan (h : Hdr) (f : VU) (op : PReg → List (Nat × Nat) → List Nat) (s : State) : Out :=
  issue h false [useV f.va f.la, useP f.pg] (latchV 1) noCheck
    (fun s => vecResult 32 6 f.vd f.pg (op (s.rp f.pg) (lanes 32 (s.rv f.va)).zipIdx) s) s

def execVscanI32 (h : Hdr) (f : VU) (s : State) : Out := issueScan h f (fun p xs => scanInt p xs 0) s
def execVscanF32 (h : Hdr) (f : VU) (s : State) : Out := issueScan h f (fun p xs => scanNum p xs none) s

/-! ## Moving lanes (R244 to R246) -/

/-- VPERM's source lane (R244). -/
def permLane (w : Nat) (a : List Nat) (b i : Nat) : Nat :=
  let n := 4096 / w
  a.getD (if w = 8 then 256 * (i / 256) + b else b % n) 0

def issuePerm (h : Hdr) (f : V3) (w : Nat) (s : State) : Out :=
  issue h false [useV f.va f.la, useV f.vb f.lb, useP f.pg] (latchV 1) noCheck
    (fun s =>
      let a := lanes w (s.rv f.va)
      vecResult w 3 f.vd f.pg ((lanes w (s.rv f.vb)).zipIdx.map fun bi => permLane w a bi.1 bi.2) s) s

def execVpermI8 (h : Hdr) (f : V3) (s : State) : Out := issuePerm h f 8 s
def execVpermI16 (h : Hdr) (f : V3) (s : State) : Out := issuePerm h f 16 s
def execVpermI32 (h : Hdr) (f : V3) (s : State) : Out := issuePerm h f 32 s

/-- Lane i + c of the register, else 0 (R245). -/
def slideLane (a : List Nat) (c : Int) (i : Nat) : Nat :=
  if 0 ≤ (i : Int) + c then a.getD ((i : Int) + c).toNat 0 else 0

def issueSlide (h : Hdr) (f : V3) (w : Nat) (s : State) : Out :=
  issue h false [useV f.va f.la, useS f.vb f.lb, useP f.pg] (latchV 1) noCheck
    (fun s =>
      let a := lanes w (s.rv f.va)
      let c := (s.rs f.vb).toInt
      vecResult w 2 f.vd f.pg ((List.range (4096 / w)).map (slideLane a c)) s) s

def execVslideI8 (h : Hdr) (f : V3) (s : State) : Out := issueSlide h f 8 s
def execVslideI32 (h : Hdr) (f : V3) (s : State) : Out := issueSlide h f 32 s

def issueBcast (h : Hdr) (f : VU) (w : Nat) (s : State) : Out :=
  issue h false [useS f.va f.la, useP f.pg] (latchV 1) noCheck
    (fun s => vecResult w 2 f.vd f.pg (List.replicate (4096 / w) ((s.rs f.va).toNat % 2 ^ w)) s) s

def execVbcastI8 (h : Hdr) (f : VU) (s : State) : Out := issueBcast h f 8 s
def execVbcastI16 (h : Hdr) (f : VU) (s : State) : Out := issueBcast h f 16 s
def execVbcastI32 (h : Hdr) (f : VU) (s : State) : Out := issueBcast h f 32 s

def execVidx (h : Hdr) (f : VI) (s : State) : Out :=
  issue h false [useP f.pg] (latchV 1) noCheck (fun s => vecResult 32 2 f.vd f.pg (List.range 128) s) s

/-- The bits of i32 lane i. -/
def lane32Mask (i : Nat) : VReg := BitVec.ofNat 4096 ((2 ^ 32 - 1) * 2 ^ (32 * i))

/-- VMOVSV merges one lane at landing (R246). -/
def execVmovsv (h : Hdr) (f : VMov) (s : State) : Out :=
  issue h false [useS f.va f.la, useS f.vb f.lb] (latchV 1) noCheck
    (fun s => plain (results .vector 2
      [⟨f.vd, splat 32 ((s.rs f.va).toNat % 2 ^ 32), lane32Mask ((s.rs f.vb).toNat % 128)⟩] s)) s

def execVmovvs (h : Hdr) (f : VMov) (s : State) : Out :=
  issue h false [useV f.va f.la, useS f.vb f.lb] oneLatch noCheck
    (fun s => plain (result 2 f.vd
      ((BitVec.ofNat 32 ((lanes 32 (s.rv f.va)).getD ((s.rs f.vb).toNat % 128) 0)).signExtend 64) s)) s

/-! ## Predicates as values (R252 to R254) -/

/-- A whole predicate at latency 1. -/
def putPred (pd : BitVec 3) (v : PReg) (s : State) : State :=
  if s.staging && 4 ≤ pd.toNat then s
  else putNow .pred [⟨pd.setWidth 5, v.setWidth 4096, BitVec.allOnes 4096⟩] s

def issuePred (h : Hdr) (us : List Use) (pd : BitVec 3) (v : State → PReg) (s : State) : Out :=
  issue h false us noNeed noCheck (fun s => plain (putPred pd (v s) s)) s

def execPand (h : Hdr) (f : P3) (s : State) : Out := issuePred h [useP f.pa, useP f.pb] f.pd (fun s => s.rp f.pa &&& s.rp f.pb) s
def execPor (h : Hdr) (f : P3) (s : State) : Out := issuePred h [useP f.pa, useP f.pb] f.pd (fun s => s.rp f.pa ||| s.rp f.pb) s
def execPxor (h : Hdr) (f : P3) (s : State) : Out := issuePred h [useP f.pa, useP f.pb] f.pd (fun s => s.rp f.pa ^^^ s.rp f.pb) s
def execPnot (h : Hdr) (f : P2) (s : State) : Out := issuePred h [useP f.pa] f.pd (fun s => ~~~(s.rp f.pa)) s

/-- The number of ones, and the least set bit (R253). -/
def countOnes (p : PReg) : Word := BitVec.ofNat 64 (((List.range 1024).filter fun i => pbit p i).length)
def firstOne (p : PReg) : Word :=
  match (List.range 1024).find? fun i => pbit p i with
  | some i => BitVec.ofNat 64 i
  | none => BitVec.allOnes 64

def execPcnt (h : Hdr) (f : Pc) (s : State) : Out :=
  issue h false [useP f.pa, useP f.pg] oneLatch noCheck (fun s => plain (result 2 f.d (countOnes (s.rp f.pa &&& s.rp f.pg)) s)) s
def execPff (h : Hdr) (f : Pc) (s : State) : Out :=
  issue h false [useP f.pa, useP f.pg] oneLatch noCheck (fun s => plain (result 2 f.d (firstOne (s.rp f.pa &&& s.rp f.pg)) s)) s

/-- PSET: a prefix of s_a ones (R254). -/
def execPset (h : Hdr) (f : Ps) (s : State) : Out :=
  issue h false [useS f.a f.la] noNeed noCheck
    (fun s => plain (putPred f.pd (BitVec.ofNat 1024 (2 ^ min (s.rs f.a).toNat 1024 - 1)) s)) s

end Sys2Proof.Machine
end

