-- ==== Sys2Proof/Machine/Gather.lean ====
section
/-!
DEFINITION. Machine/Gather.lean: the gather unit: VGATH, VSCAT and VSCATA (R247 to R251), and VRB (R255, R256).
-/
namespace Sys2Proof.Machine

/-- The element pointer of lane i (R247). -/
def elemPtr (f : Vx) (s : State) (x : Nat) : Word := lea (s.rs f.a) (BitVec.ofNat 64 (4 * x))

/-- Active lanes with their LOCAL word numbers (offset / 4), in lane order. -/
def gatherLanes (f : Vx) (s : State) : List (Nat × Nat) :=
  ((lanes 32 (s.rv f.vb)).zipIdx.filter fun xi => pbit (s.rp f.pg) xi.2).map fun xi =>
    (xi.2, ptrOff (elemPtr f s xi.1) / 4)

/-- The distinct words of one bank within a group, by the lowest active lane that names each (R249). -/
def bankWords (b : Nat) (g : List (Nat × Nat)) : List Nat :=
  g.foldl (fun ws l => if l.2 % 32 = b && !ws.contains l.2 then ws ++ [l.2] else ws) []

/-- The cycle of its group in which a lane is served. -/
def laneTurn (g : List (Nat × Nat)) (w : Nat) : Nat := ((bankWords (w % 32) g).findIdx? fun v => v = w).getD 0

/-- The cycles a group takes beyond its first. -/
def groupExtra (g : List (Nat × Nat)) : Nat := g.foldl (fun m l => max m (laneTurn g l.2)) 0

/-- Lanes of group g. -/
def groupOf (ls : List (Nat × Nat)) (g : Nat) : List (Nat × Nat) := ls.filter fun l => l.1 / 32 = g

/-- Cycles added before group g (R249). -/
def addedBefore (ls : List (Nat × Nat)) (g : Nat) : Nat :=
  (List.range g).foldl (fun n j => n + groupExtra (groupOf ls j)) 0

/-- The lowest active lane that shares a bank with another lane of its group naming a different word. -/
def bankClash (ls : List (Nat × Nat)) : Option (Nat × Nat) :=
  ls.find? fun l => 1 < (bankWords (l.2 % 32) (groupOf ls (l.1 / 32))).length

/-- The checks of R248. -/
def gatherCheck (f : Vx) (s : State) : Option Stop :=
  let a := s.rs f.a
  let ptrs := ((lanes 32 (s.rv f.vb)).zipIdx.filter fun xi => pbit (s.rp f.pg) xi.2).map fun xi => elemPtr f s xi.1
  if !canonical a then some (.trap 0x04 a)
  else if ptrOff a % 4 ≠ 0 then some (.trap 0x03 a)
  else if ptrSpace a ≠ 2 then some (.trap 0x07 a)
  else match ptrs.find? fun q => ptrSpace q ≠ 2 || localSize s.core.partw < ptrOff q + 4 with
    | some q => some (.trap 0x05 q)
    | none =>
      match (if s.str.timed then bankClash (gatherLanes f s) else none) with
      | some l => some (.trap 0x0D (elemPtr f s ((lanes 32 (s.rv f.vb)).getD l.1 0)))
      | none =>
        if agentHolds 5 s.core then some .hold
        else if tokensThere s.ctx.tokens (specPops (kSpec f.k s)) then none
        else if s.str.timed then some (.trap 0x09 0) else some .hold

/-- A gather or scatter is accepted: its lanes with the cycles in which they perform (R249). Its own conflicts alone add cycles; R310's cell (g)
cites R249, and the order it keeps is the one these cycles give (log entry 37, DEDUCED). -/
def gatherEff (kind : Nat) (first : Nat) (f : Vx) (s : State) : Eff :=
  let ls := gatherLanes f s
  let c := s.gcyc
  let data := lanes 32 (s.rv f.vd)
  let spec := kSpec f.k s
  let clash := addedBefore ls 4
  let ops := ls.map fun l =>
    (l.1, poolAddr s.core.idx (4 * l.2), BitVec.ofNat 32 (data.getD l.1 0),
      c + first + l.1 / 32 + addedBefore ls (l.1 / 32) + laneTurn (groupOf ls (l.1 / 32)) l.2)
  let hurt : BitVec 64 := if kind = 0 then 0 else (s.ctx.vupset >>> (64 * (physV s.ctx.v.rotb f.vd).val)).setWidth 64
  let id := s.nextId
  let s := { s with nextId := id + 1 }
  let s := count 0x10 clash ((count 0x11 (specPops spec).length s).mapCtx fun x => { x with tokens := takeTokens x.tokens (specPops spec) })
  let s := s.mapEng fun e => { e with gathers := e.gathers ++ [⟨id, kind, s.str.pc, s.core.second, ops, c + 11 + clash, spec, [], hurt⟩] }
  let rank := if kind = 0 then 1 else if kind = 1 then 6 else 5
  let s := ops.foldl (fun s o => addDue o.2.2.2 rank (2 * s.core.idx + 1) (.gatherPerform s.core.idx id) s) s
  let s := addDue (c + 11 + clash) 9 s.core.idx (.gatherComplete s.core.idx id) s
  plain (if kind = 0 then
      flyFrom id .vector [⟨f.vd, 0, laneMask 32 (s.rp f.pg)⟩] (some (c + 11 + clash)) (clash ≠ 0) s
    else s)

def execVgath (h : Hdr) (f : Vx) (s : State) : Out :=
  issue h false (useS f.a :: useV f.vb :: useP f.pg :: kUses f.k) (latchV 1) (gatherCheck f) (gatherEff 0 1 f) s
def execVscat (h : Hdr) (f : Vx) (s : State) : Out :=
  issue h false (useS f.a :: useV f.vb :: useData f.vd :: useP f.pg :: kUses f.k) noNeed (gatherCheck f) (gatherEff 1 8 f) s
def execVscataF32 (h : Hdr) (f : Vx) (s : State) : Out :=
  issue h false (useS f.a :: useV f.vb :: useData f.vd :: useP f.pg :: kUses f.k) noNeed (gatherCheck f) (gatherEff 2 8 f) s
def execVscataI32 (h : Hdr) (f : Vx) (s : State) : Out :=
  issue h false (useS f.a :: useV f.vb :: useData f.vd :: useP f.pg :: kUses f.k) noNeed (gatherCheck f) (gatherEff 3 8 f) s

/-- The word a scatter lane writes (R250). -/
def scatterWord (kind : Nat) (old data : Nat) : Nat :=
  if kind = 1 then data else if kind = 2 then faddLane .f32 old data else (old + data) % 2 ^ 32

/-- One lane performs; a bad word that it reads or carries is bad in its destination, with a record (R397, R398; log entry 24, DEDUCED). -/
def gatherLane (o : GatherOp) (l : Nat × Nat × W32 × Nat) (s : State) : State :=
  let old := leNat (s.peek l.2.1 4)
  let p := localPtr l.2.1 s
  let reads := o.kind ≠ 1
  let s := if reads then noteSoft l.2.1 4 p s else s
  let carried := o.hurt.getLsbD (l.1 / 2)
  let spoiled := (reads && s.badAt l.2.1 4) || carried
  let s := if spoiled then
      mapFlight o.id (fun f => { f with bad := f.bad ||| ((1 : BitVec 64) <<< (l.1 / 2)) })
        (noteBad l.2.1 p (reportAs o.second 0x13 o.pc 2 5 0 s))
    else s
  if o.kind = 0 then
    s.mapEng fun e => { e with gathers := e.gathers.map fun g =>
      if g.id = o.id then { g with got := g.got ++ [(l.1, BitVec.ofNat 32 old)] } else g }
  else
    let s := s.poke l.2.1 (leBytes 4 (scatterWord o.kind old l.2.2.1.toNat))
    if carried then s.markBad l.2.1 4 else s

/-- The lanes of this cycle perform, in ascending lane order (R249, R250); a gather's value so far goes to its result. -/
def gatherPerform (id : Nat) (s : State) : State :=
  match s.core.eng.gathers.find? fun g => g.id = id with
  | none => s
  | some o =>
    let s := (o.lanes.filter fun l => l.2.2.2 = s.gcyc).foldl (fun s l => gatherLane o l s) s
    match s.core.eng.gathers.find? fun g => g.id = id with
    | none => s
    | some o =>
      if o.kind = 0 then
        let v := ofLanes 32 ((List.range 128).map fun i => ((o.got.find? fun g => g.1 = i).map fun g => g.2.toNat).getD 0)
        relatch (mapFlight id (fun f => { f with regs := f.regs.map fun r => { r with val := v } }) s)
      else s

def execGatherGroupPerform (k id : Nat) (s : State) : Out := onCore k (gatherPerform id) s

/-- An engine's push is made at the end of the cycle (R176, R177): agents 4 copy engine, 5 array half, 6 chisel, 7 gather unit. -/
def enginePush (agent : Nat) (spec : Option Word) (pc : Nat) (second : Bool) (s : State) : State :=
  match specPush spec with
  | some ch => stage (.push s.core.idx second agent ch.val (spec.getD 0) pc) s
  | none => s

/-- A gather or scatter completes and pushes its token (R249). -/
def execGatherComplete (k id : Nat) (s : State) : Out :=
  onCore k (fun s =>
    match s.core.eng.gathers.find? fun g => g.id = id with
    | some o =>
      addDue s.gcyc 9 s.core.idx (.groupEnd s.core.idx)
        (enginePush 7 o.spec o.pc o.second (s.mapEng fun e => { e with gathers := e.gathers.filter fun g => g.id ≠ id }))
    | none => s) s

/-! ## VRB (R255, R256) -/

/-- The record of a result buffer position. -/
def State.rbrec (s : State) (pos : Nat) : Option (Nat × Nat × BitVec 16) := s.core.eng.rbrec.find? fun r => r.1 = pos

/-- Where the row lies in the pool. -/
def rowAddr (f : Vr) (s : State) : Nat := poolAddr s.core.idx (resultBase s.core.partw + (s.rs f.a).toNat)

def vrbCheck (f : Vr) (s : State) : Option Stop :=
  let a := s.rs f.a
  if a.toNat % 512 ≠ 0 then some (.trap 0x03 a)
  else if 65536 * partRB4 s.core.partw ≤ a.toNat then some (.trap 0x05 a)
  else match s.rbrec (a.toNat / 65536) with
    | none => some (.trap 0x0D a)
    | some (_, arrival, tag) =>
      if s.gcyc < arrival then (if s.str.timed then some (.trap 0x0D a) else some .hold)
      else if fld (s.rs f.b) 0 16 ≠ tag then some (.trap 0x0E (BitVec.ofNat 64 (tag.toNat * 65536 + (s.rs f.b).toNat % 65536)))
      else if s.badAt (rowAddr f s) 512 then some (.trap 0x13 a)
      else none

def execVrb (h : Hdr) (f : Vr) (s : State) : Out :=
  issue h false [useS f.a, useS f.b] (latchV 1) (vrbCheck f)
    (fun s =>
      plain (results .vector 4 [⟨f.vd, bytesReg (s.peek (rowAddr f s) 512), BitVec.allOnes 4096⟩]
        (noteSoft (rowAddr f s) 512 0 s))) s

end Sys2Proof.Machine
end

