-- ==== Sys2Proof/Machine/Matrix.lean ====
section
/-!
DEFINITION. Machine/Matrix.lean: the matrix array: slots, the format queue, tile commands, drains and stops (R137 to R139, R258 to
R282, R399).
-/
namespace Sys2Proof.Machine

/-! ## The array and its half -/

/-- The slot record x of the array in focus. -/
def State.slot (s : State) (x : Nat) : SlotRec := s.arr.slots.toList.getD x .idle
def State.setSlot (s : State) (x : Nat) (r : SlotRec) : State :=
  if h : x < 16 then s.mapArr fun a => { a with slots := a.slots.set x r h } else s

/-- The slot is claimed by the core in focus. -/
def State.claims (s : State) (x : Nat) : Bool := (s.slot x).owner = some s.half

/-- Every tile command accepted and not completed, of both cores of the pair and both contexts (R358). -/
def State.pairCmds (s : State) : List TileCmd :=
  let p := s.coreAt (s.core.idx ^^^ 1)
  s.core.ctx.tq ++ s.core.shadow.tq ++ p.ctx.tq ++ p.shadow.tq

/-- The command queue of the context that issued a command. -/
def mapTq (second : Bool) (f : List TileCmd → List TileCmd) (s : State) : State :=
  s.mapCtxNum second fun x => { x with tq := f x.tq }

def mapTile (c : TileCmd) (f : TileCmd → TileCmd) (s : State) : State :=
  mapTq c.second (fun l => l.map fun d => if d.id = c.id then f d else d) s

/-! ## Format words (R268, R269) -/

def fwAcc (w : BitVec 128) : Bool := bit w 22
/-- K steps. -/
def fwK (w : BitVec 128) : Nat := 32 * ((fld w 20 2).toNat + 1)
def fwB (w : BitVec 128) : Nat := (fld w 16 4).toNat
def fwA (w : BitVec 128) : Nat := (fld w 12 4).toNat
def fwBss (w : BitVec 128) : Option Nat := if bit w 11 then some (fld w 7 4).toNat else none
def fwAss (w : BitVec 128) : Option Nat := if bit w 6 then some (fld w 2 4).toNat else none

/-- The six formats of an operand that is not bp12. -/
def sixFormats (c : Nat) : Bool := [1, 10, 11, 12, 7, 8].contains c

/-- A format word valid for the kind: 0 MMA, 1 MMAP, 2 MMAPT. -/
def fwValid (kind : Nat) (w : BitVec 128) : Bool :=
  sixFormats (fwA w) && (if kind = 0 then sixFormats (fwB w) else fwB w = 13) && !bit w 23 && fld w 0 2 = 0
    && (bit w 11 || fld w 7 4 = 0) && (bit w 6 || fld w 2 4 = 0)

/-- Cycles of a K step (R261). -/
def fwRho (w : BitVec 128) : Nat := if fwA w = 8 || fwA w = 13 || fwB w = 8 || fwB w = 13 then 2 else 1

/-- The slots a command reads. -/
def TileCmd.reads (c : TileCmd) : List Nat := [c.x, c.y] ++ (fwAss c.fw).toList ++ (fwBss c.fw).toList

/-! ## Modes and step cycles (R262, R264) -/

/-- W of a PAIR mode. -/
def pairW (m : BitVec 3) : Option Nat := if 2 ≤ m.toNat && m.toNat ≤ 6 then some (2 ^ (m.toNat + 2)) else none

/-- A cycle belongs to a half. -/
def belongs (m : BitVec 3) (half c : Nat) : Bool :=
  match pairW m with
  | some w => (c / w) % 2 = half
  | none => true

/-- The first cycle at or after c that belongs to the half. -/
def belongsFrom (m : BitVec 3) (half c : Nat) : Nat :=
  match pairW m with
  | some w => if (c / w) % 2 = half then c else (c / w + 1) * w
  | none => c

/-- The n-th step cycle of a command that starts at s (R261, R264). -/
def stepCycle (m : BitVec 3) (s n : Nat) : Nat :=
  match pairW m with
  | some w =>
    let left := w - s % w
    if n < left then s + n else s + left + w + (n - left) / w * (2 * w) + (n - left) % w
  | none => s + n

/-- The last step cycle L. -/
def lastStep (m : BitVec 3) (c : TileCmd) (s : Nat) : Nat := stepCycle m s ((fwK c.fw - c.kfrom) * fwRho c.fw - 1)

/-- K steps whose step cycles lie before cycle n. -/
def stepsBefore (m : BitVec 3) (c : TileCmd) (s n : Nat) : Nat :=
  c.kfrom + ((List.range (fwK c.fw - c.kfrom)).filter fun k => stepCycle m s (k * fwRho c.fw + fwRho c.fw - 1) < n).length

/-! ## The sum of R138 and R139 -/

/-- Element q of a packed tile of code c (R118). -/
def tileElem (c : Nat) (bs : List Byte) (q : Nat) : Nat :=
  let w := typeWidth c
  leNat ((bs.drop (w * q / 8)).take 3) / 2 ^ (w * q % 8) % 2 ^ w

/-- A block entry: its scale (none for a NaN block) and its zero point (R123 to R125). -/
def blockEntry (fmt : Nat) (scales : Option (List Byte)) (g : Nat) : Option Num × Nat :=
  match scales with
  | none => (some (.fin false 1 0), 0)
  | some bs =>
    let e := leNat ((bs.drop (0x6000 + 4 * g)).take 4)
    let z := e / 2 ^ 24
    if e / 4096 % 4096 ≠ 0 || (fmt = 10 && 15 < z) || (fmt ≠ 10 && fmt ≠ 11 && z ≠ 0) then (none, z) else (scaleNum (e % 4096), z)

/-- Element value (R137). -/
def elemValue (fmt x z : Nat) : Num :=
  if fmt = 10 || fmt = 11 then Num.ofInt ((x : Int) - z) else elemNum fmt x

/-- The value of a bp12 element at slot position q (R278). -/
def patinaValue (w : BitVec 128) (x q : Nat) : Num :=
  Num.ofBits .bf16 (bp12Weight x (patinaE (fld w 32 32) (fld w 64 32) (fld w 24 8) (fld w 96 32 + BitVec.ofNat 32 q)))

def TileRun.aVal (r : TileRun) (z i k : Nat) : Num := elemValue (fwA r.cmd.fw) (tileElem (fwA r.cmd.fw) r.xb (128 * i + k)) z

def TileRun.bVal (r : TileRun) (z k j : Nat) : Num :=
  let q := if r.cmd.kind = 2 then 128 * k + j else 128 * j + k
  let x := tileElem (fwB r.cmd.fw) r.yb q
  if fwB r.cmd.fw = 13 then patinaValue r.cmd.fw x q else elemValue (fwB r.cmd.fw) x z

/-- One group's term (R139). -/
def groupTerm (p : Num) (sa sb : Option Num) : Num :=
  match sa, sb with
  | some a, some b =>
    match (p.mul a).mul b with
    | .fin neg m e => if m = 0 then .fin false 0 0 else .fin neg m e
    | x => x
  | _, _ => .nan

/-- Output (i, j) over groups from K step kfrom to kto (R138). -/
def TileRun.output (r : TileRun) (kfrom kto i j acc : Nat) : Nat :=
  (List.range ((kto - kfrom) / 16)).foldl (fun acc g =>
    let k0 := kfrom + 16 * g
    let a := blockEntry (fwA r.cmd.fw) (if (fwAss r.cmd.fw).isSome then some r.asb else none) (4 * i + k0 / 32)
    let b := blockEntry (fwB r.cmd.fw) (if (fwBss r.cmd.fw).isSome then some r.bsb else none) (4 * j + k0 / 32)
    let p := Num.sum ((List.range 16).map fun d => (r.aVal a.2 i (k0 + d)).mul (r.bVal b.2 (k0 + d) j))
    ((Num.ofBits .f32 acc).add (groupTerm p a.1 b.1)).round .rne .f32) acc

/-- The accumulator's bytes after the steps (R273). -/
def TileRun.result (r : TileRun) (kto : Nat) (old : List Byte) : List Byte :=
  (List.range 16384).flatMap fun n =>
    let acc := if fwAcc r.cmd.fw || r.cmd.acc1 then leNat ((old.drop (4 * n)).take 4) else 0
    leBytes 4 (r.output r.cmd.kfrom kto (n / 128) (n % 128) acc)

/-- The address of accumulator z of the array in focus. -/
def State.accum (s : State) (z : Nat) : Nat := accAddr s.arr.idx z

/-- An accumulator left undefined (R11, R400). -/
def loseAcc (z : Nat) (s : State) : State :=
  let d := draw s
  d.2.poke (s.accum z) ((List.range 65536).map fun j => Config.freeByte d.1 j)

/-- The last step cycle of a run: L, or the last one before the K step at which it stops (R261, R275). -/
def TileRun.ends (m : BitVec 3) (r : TileRun) : Nat :=
  match r.upTo with
  | some kd => stepCycle m (r.cmd.start.getD 0) ((kd - r.cmd.kfrom) * fwRho r.cmd.fw - 1)
  | none => r.cmd.last

/-- A slot is written under the commands that step on it: undefined values from that cycle on (R267, R156, R282). -/
def spoilSlot (x : Nat) (s : State) : State :=
  s.mapArr fun a => { a with runs := a.runs.map fun r =>
    if r.spoil.isNone && r.cmd.reads.contains x && s.gcyc ≤ r.ends a.mmode then { r with spoil := some s.gcyc } else r }

/-! ## Words that K steps read (R397, R400) -/

/-- Commands that started before this one, or have started if it has not, still have to change its accumulator (R274). -/
def behindOthers (c : TileCmd) (s : State) : Bool :=
  (s.arr.runs.takeWhile fun r => r.cmd.id ≠ c.id).any fun r => r.cmd.z = c.z

/-- Byte runs of a slot that K step k of a command reads, with those of its scale entries and, at its first step, the accumulator, unless
that takes the sum of an earlier command first. -/
def stepReads (c : TileCmd) (s : State) (k : Nat) : List (Nat × Nat) :=
  let wa := typeWidth (fwA c.fw)
  let wb := typeWidth (fwB c.fw)
  let run := fun (x w q : Nat) => (slotAddr s.arr.idx x + w * q / 8, 1 + (w - 1 + w * q % 8) / 8)
  (List.range 128).flatMap fun i =>
    [run c.x wa (128 * i + k), run c.y wb (if c.kind = 2 then 128 * k + i else 128 * i + k)]
      ++ (match fwAss c.fw with | some x => [(slotAddr s.arr.idx x + 0x6000 + 4 * (4 * i + k / 32), 4)] | none => [])
      ++ (match fwBss c.fw with | some x => [(slotAddr s.arr.idx x + 0x6000 + 4 * (4 * i + k / 32), 4)] | none => [])
      ++ (if k = c.kfrom && (fwAcc c.fw || c.acc1) && !behindOthers c s then [(s.accum c.z + 512 * i, 512)] else [])

/-- The address of the uncorrectable word that a command's K step k consumes. -/
def badOf (c : TileCmd) (k : Nat) (s : State) : Option Nat :=
  ((stepReads c s k).findSome? fun r => s.bad.find? (touchesWord r.1 r.2)).map (8 * ·)

/-- The first K step from k on that consumes an uncorrectable word (R397, R400). -/
def badStep (c : TileCmd) (k : Nat) (s : State) : Option Nat :=
  if s.bad.isEmpty then none
  else ((List.range (fwK c.fw)).drop k).find? fun k => (stepReads c s k).any fun r => s.badAt r.1 r.2

/-- The step cycle in which a command that started in cycle t first consumes an uncorrectable word, from the K steps of cycle n on (R400). -/
def badCycle (c : TileCmd) (t n : Nat) (s : State) : Option Nat :=
  let at' := fun (k : Nat) => stepCycle s.arr.mmode t ((k - c.kfrom) * fwRho c.fw)
  let from' := c.kfrom + ((List.range (fwK c.fw - c.kfrom)).filter fun j => at' (c.kfrom + j) < n).length
  (badStep c from' s).map at'

/-- A K step of half k in cycle x is to consume an uncorrectable word: it looks at it then, and the fault is found in the next cycle (R400). -/
def faultDue (x k : Nat) (s : State) : State := addDue (x + 1) 2 k (.replay k) (addDue x 2 k (.replay k) s)

/-- A word of a slot or an accumulator has been marked: the commands whose K steps are still to read it will find it (R400). -/
def findBad (s : State) : State :=
  let find := fun (r : TileRun) =>
    if r.flt.isSome then r
    else { r with flt := (badCycle r.cmd (r.cmd.start.getD 0) (s.gcyc + 1) s).filter fun x => decide (x ≤ r.ends s.arr.mmode) }
  let runs := s.arr.runs.map find
  runs.foldl (fun s r => match r.flt with
    | some x => if s.gcyc ≤ x then faultDue x (2 * s.arr.idx + r.half) s else s
    | none => s) (s.mapArr fun a => { a with runs := runs })

/-- At the start of the K step that is to consume an uncorrectable word, the word is looked at: one that has been written whole since is
no fault, and the next one is looked for (R398, R400). -/
def lookAgain (s : State) : State :=
  let look := fun (r : TileRun) =>
    if r.half = s.half && r.flt = some s.gcyc then
      { r with flt := (badCycle r.cmd (r.cmd.start.getD 0) s.gcyc s).filter fun x => decide (x ≤ r.ends s.arr.mmode) }
    else r
  if s.arr.runs.any fun r => r.half = s.half && r.flt = some s.gcyc then
    let runs := s.arr.runs.map look
    runs.foldl (fun s r => match r.flt with
      | some x => if r.half = s.half && s.gcyc < x then faultDue x s.core.idx s else s
      | none => s) (s.mapArr fun a => { a with runs := runs })
  else s

/-! ## Format queue (R270) -/

def execFmt (h : Hdr) (f : Fmt) (s : State) : Out :=
  issue h true [useS f.a f.la, useS f.b f.lb] noNeed (fun s => if 16 ≤ s.ctx.fq.length then some .hold else none)
    (fun s => plain (stage (.fmt s.core.idx s.core.second (f.imm ++ fld (s.rs f.b) 0 32 ++ s.rs f.a)) s)) s

def execFmtq (h : Hdr) (f : Rd) (s : State) : Out :=
  issueS h [] 1 f.d (fun s => BitVec.ofNat 64 s.ctx.fq.length) s

/-! ## Slots (R265 to R267) -/

def oclaimCheck (x : Nat) (s : State) : Option Stop :=
  match (s.slot x).owner with
  | some o => if o = s.half then none else some .hold
  | none => none

def execOclaim (h : Hdr) (f : Mx) (s : State) : Out :=
  issue h false [] noNeed (oclaimCheck f.x.toNat)
    (fun s => plain (s.setSlot f.x.toNat { s.slot f.x.toNat with owner := some s.half })) s

/-- A command or a load of the core names the slot. -/
def slotNamed (x : Nat) (s : State) : Bool :=
  (s.core.ctx.tq ++ s.core.shadow.tq).any (fun c => c.reads.contains x) || s.core.eng.oloads.any (fun o => o.x = x)
    || s.core.eng.olds.any fun o => o.x = x

def execOrel (h : Hdr) (f : Mx) (s : State) : Out :=
  issue h false [] noNeed
    (fun s => if !s.claims f.x.toNat then some (.trap 0x19 0) else if slotNamed f.x.toNat s then some .hold else none)
    (fun s => plain (stage (.orel s.core.idx f.x.toNat) s)) s

/-- A retained command enters the half's window (R399). -/
def retain (r : RetCmd) (s : State) : State :=
  s.mapEng fun e =>
    if e.retOver then e else if 16 ≤ e.retained.length then { e with retOver := true } else { e with retained := e.retained ++ [r] }

def oloadBeats (len : Nat) : Nat := (len + 511) / 512

/-- An OLOAD starts in the cycle (R267). -/
def beginOload (x src len tag : Nat) (spec : Option Word) (pc : Nat) (second : Bool) (s : State) : State :=
  let k := s.core.idx
  let id := s.nextId
  let b := oloadBeats len
  let s := { s with nextId := id + 1 }.mapEng fun e =>
    { e with oloads := e.oloads ++ [(⟨id, pc, second, x, src, len, s.gcyc, spec, 0, []⟩ : OloadOp)] }
  let s := stage (.slotRec k x (s.gcyc + b + 4) (BitVec.ofNat 16 tag)) s
  let s := (List.range b).foldl (fun s j => addDue (s.gcyc + 1 + j) 1 k (.oloadComplete k id) s) s
  addDue (s.gcyc + b + 3) 9 k (.oloadComplete k id) s

/-- The copy engine has no command in its busy cycles, and none that halted (R166, R170). -/
def copyFree (s : State) : Bool := s.core.eng.copyRun.all fun c => c.busy ≤ s.gcyc && !c.hold

/-- What the copy engine pops in the cycle, for a command that starts in it (R176). -/
def copyPops (s : State) : List (Fin 16) :=
  match s.core.eng.copyBuf with
  | [] => []
  | c :: _ =>
    if c.target ≤ s.gcyc && copyFree s && !agentHolds 2 s.core && c.second = s.core.second
        && tokensThere s.ctx.tokens (specPops c.spec) then specPops c.spec else []

/-- An engine command of strand M needs its tokens beside what is popped before it (R176, R179). -/
def popsHold (spec : Option Word) (tokens : Vector Nat 16) (s : State) : Option Stop :=
  if tokensThere tokens (specPops spec) then none else if s.str.timed then some (.trap 0x09 0) else some .hold

/-- Pop the tokens of an engine command in its context. -/
def takeSpec (spec : Option Word) (second : Bool) (s : State) : State :=
  (count 0x11 (specPops spec).length s).mapCtxNum second fun x => { x with tokens := takeTokens x.tokens (specPops spec) }

def oloadCheck (f : Mo) (s : State) : Option Stop :=
  let p := s.rs f.g
  if !s.claims f.x.toNat then some (.trap 0x19 0)
  else match stepFault .localOnly 64 (64 * f.len.toNat) false p s with
    | some c => some (.trap c.2 p)
    | none =>
      if agentHolds 4 s.core || s.core.eng.oloads.any (fun o => decide (s.gcyc < o.c + oloadBeats o.len)) then some .hold
      else popsHold (kSpec f.k s) (takeTokens s.ctx.tokens (copyPops s)) s

/-- The place of the array half's pops in the cycle of their issue: behind the copy engine's, before the tile commands that start (R176). -/
def popKey (k : Nat) : Nat := 8 * k + 4

def oloadEff (f : Mo) (s : State) : State :=
  let src := poolAddr s.core.idx (ptrOff (s.rs f.g))
  let len := 64 * f.len.toNat
  addDue s.gcyc 4 (popKey s.core.idx) (.oloadComplete s.core.idx s.nextId)
    (retain (.oload f.x.toNat src len f.tag.toNat s.gcyc)
      (beginOload f.x.toNat src len f.tag.toNat (kSpec f.k s) s.str.pc s.core.second s))

def execOload (h : Hdr) (f : Mo) (s : State) : Out :=
  issue h true (useS f.g :: kUses f.k) noNeed (oloadCheck f) (fun s => plain (oloadEff f s)) s

/-- The array half has read n bytes from src on, which go to an offset of its destination: each bad word is recorded (R397). -/
def carryRead (id src off n pc : Nat) (second : Bool) (s : State) : State :=
  (s.bad.filter (touchesWord src n)).foldl (fun s w =>
    (noteBad (8 * w) (localPtr (8 * w) s) (reportAs second 0x13 pc 3 4 0 s)).mapEng fun e => { e with carried := e.carried ++ [(id, off + (8 * w - src))] }) s

/-- The bad words that it has read are bad in its destination (R397, R398). -/
def carryWrite (id dst : Nat) (s : State) : State :=
  match s.core.eng.carried.filter fun x => x.1 = id with
  | [] => s
  | ws => findBad (ws.foldl (fun s x => State.markBad (dst + x.2) 8 s) (s.mapEng fun e => { e with carried := e.carried.filter fun x => x.1 ≠ id }))

/-- In the cycle of its issue it pops its tokens. A beat reads up to 512 bytes; after the last the slot holds its bytes, zeros above,
and the token is pushed (R176, R267). -/
def oloadStep (id : Nat) (s : State) : State :=
  match s.core.eng.oloads.find? fun o => o.id = id with
  | none => s
  | some o =>
    let b := oloadBeats o.len
    if s.gcyc = o.c then takeSpec o.spec o.second s
    else if s.gcyc < o.c + b + 3 then
      if o.done < b && s.gcyc = o.c + 1 + o.done then
        let n := min 512 (o.len - 512 * o.done)
        let bs := s.peek (o.src + 512 * o.done) n
        spoilSlot o.x (carryRead id (o.src + 512 * o.done) (512 * o.done) n o.pc o.second <| noteSoft (o.src + 512 * o.done) n 0
          (s.mapEng fun e => { e with oloads := e.oloads.map fun p => if p.id = id then { p with done := p.done + 1, bytes := p.bytes ++ bs } else p }))
      else s
    else
      let s := s.mapEng fun e => { e with oloads := e.oloads.filter fun p => p.id ≠ id }
      let dst := slotAddr s.arr.idx o.x
      let s := s.poke dst (o.bytes ++ List.replicate (32768 - o.len) 0)
      addDue s.gcyc 9 s.core.idx (.groupEnd s.core.idx) (enginePush 5 o.spec o.pc o.second (carryWrite id dst s))

def execOloadComplete (k id : Nat) (s : State) : Out := onCore k (oloadStep id) s

/-! ## Tile commands (R271 to R274) -/

/-- The target cycle of an engine command's stamp (R165); the second part says whether Δ lies in range. -/
def stampTarget (stamp : W32) (s : State) : Nat × Bool :=
  let d := stampDelta (s.stamp stamp) s.gcyc
  let ahead := 1 ≤ d && d < 2 ^ 31
  if s.str.timed then (s.gcyc + d, ahead)
  else if stamp = 0 then (s.gcyc + 1, false) else if ahead then (s.gcyc + d, true) else (s.gcyc + 1, false)

/-- A tile command's target: a free-mode target of the next cycle moves to the half's own (R271). -/
def tileTarget (stamp : W32) (s : State) : Nat :=
  let t := stampTarget stamp s
  if s.str.timed || t.2 then t.1 else belongsFrom s.arr.mmode s.half t.1

/-- The mode admits the core (R262). -/
def modeAdmits (s : State) : Bool := (pairW s.arr.mmode).isSome || s.arr.mmode.toNat = s.half

def tileCheck (kind : Nat) (f : Mm) (s : State) : Option Stop :=
  match s.ctx.fq with
  | [] => some (.trap 0x0B 0)
  | w :: _ =>
    if !fwValid kind w then some (.trap 0x01 (f.stamp ++ s.word))
    else if !([f.x.toNat, f.y.toNat] ++ (fwAss w).toList ++ (fwBss w).toList).all s.claims then some (.trap 0x19 0)
    else if !modeAdmits s || !belongs s.arr.mmode s.half (tileTarget f.stamp s) then some (.trap 0x1A 0)
    else if s.str.timed && !(stampTarget f.stamp s).2 then some (.trap 0x0C (f.stamp.setWidth 64))
    else if 4 ≤ s.ctx.tq.length then some .hold
    else none

/-- A command enters the queue of its context. -/
def acceptTile (c : TileCmd) (s : State) : State :=
  addDue c.target 4 (8 * s.core.idx + 5) (.tileStart s.core.idx)
    ({ s with nextId := s.nextId + 1 }.mapCtx fun x => { x with tq := x.tq ++ [c] })

def tileEff (kind : Nat) (f : Mm) (s : State) : State :=
  let c : TileCmd :=
    { id := s.nextId, kind := kind, z := f.z.toNat, x := f.x.toNat, y := f.y.toNat, fw := s.ctx.fq.headD 0
      spec := kSpec f.k s, pops := true, second := s.core.second, stamp := f.stamp, pc := s.str.pc, timed := s.str.timed
      target := tileTarget f.stamp s, start := none, last := 0, kfrom := 0, acc1 := false, redone := false
      resumes := none, hurt := s.ctx.fqHurt.contains 0 }
  retain (.tile c) (acceptTile c (s.mapCtx fun x => { x with
    fq := x.fq.tail, fqHurt := (x.fqHurt.filter fun i => decide (0 < i)).map fun i => i - 1 }))

def issueTile (kind : Nat) (h : Hdr) (f : Mm) (s : State) : Out :=
  issue h true (kUses f.k) noNeed (tileCheck kind f) (fun s => plain (tileEff kind f s)) s

def execMma (h : Hdr) (f : Mm) (s : State) : Out := issueTile 0 h f s
def execMmap (h : Hdr) (f : Mm) (s : State) : Out := issueTile 1 h f s
def execMmapt (h : Hdr) (f : Mm) (s : State) : Out := issueTile 2 h f s

/-- The first cycle from which a command of this half may start: the array (SOLO) or the half (PAIR) has passed L (R272). -/
def freeFrom (s : State) : Nat :=
  let own := if s.half = 0 then s.arr.lastE else s.arr.lastO
  let all := if (pairW s.arr.mmode).isSome then [own] else [s.arr.lastE, s.arr.lastO]
  all.foldl (fun n l => match l with | some l => max n (l + 1) | none => n) 0

/-- The poison code of the first poisoned slot a command reads. -/
def poisonOf (c : TileCmd) (s : State) : Option (BitVec 6) :=
  (c.reads.filterMap fun x => (s.slot x).poison).head?

def readyAt (c : TileCmd) (s : State) : Nat := c.reads.foldl (fun n x => max n (s.slot x).ready) 0

/-- The half's own L. -/
def setLast (l : Nat) (s : State) : State := s.mapArr fun a => if s.half = 0 then { a with lastE := some l } else { a with lastO := some l }

/-- A fault at start: the command has no effect; it is taken in the next cycle (R272, R349). -/
def startFault (c : TileCmd) (code : BitVec 6) (s : State) : State :=
  let s := mapTq c.second (fun l => l.filter fun d => d.id ≠ c.id) s
  addDue (s.gcyc + 1) 2 s.core.idx (.replay s.core.idx)
    (s.mapEng fun e => { e with aflt := e.aflt ++ [(s.gcyc + 1, code, c)] })

/-- A command that starts is the last on its accumulator; one that resumes a stopped command takes its place (R274, R361). -/
def placeRun (r : TileRun) (rs : List TileRun) : List TileRun :=
  if rs.any fun q => q.away && r.cmd.resumes = some q.cmd.id then
    rs.map fun q => if q.away && r.cmd.resumes = some q.cmd.id then r else q
  else rs ++ [r]

/-- The command starts in the cycle (R273). -/
def beginTile (c : TileCmd) (s : State) : State :=
  let k := s.core.idx
  let l := lastStep s.arr.mmode c s.gcyc
  let c' := { c with start := some s.gcyc, last := l }
  let slot := fun (x : Nat) => s.peek (slotAddr s.arr.idx x) 32768
  let flt := badCycle c s.gcyc s.gcyc s
  let r : TileRun := ⟨s.half, c', slot c.x, slot c.y, ((fwAss c.fw).map slot).getD [], ((fwBss c.fw).map slot).getD [], none, flt, false, none, false, false⟩
  let s := if c.pops then takeSpec c.spec c.second s else s
  let s := mapTile c (fun _ => c') s
  let s := s.mapEng fun e => { e with retained := e.retained.map fun q => match q with
    | .tile d => if d.id = c.id then .tile c' else q
    | _ => q }
  let s := c.reads.foldl (fun s x => noteSoft (slotAddr s.arr.idx x) 32768 0 s) s
  let s := if (fwAcc c.fw || c.acc1) && !behindOthers c s then noteSoft (s.accum c.z) 65536 0 s else s
  let s := setLast l (s.mapArr fun a => { a with runs := placeRun r a.runs })
  let s := match flt with | some x => faultDue x k s | none => s
  addDue (l + 1) 4 (8 * k + 5) (.tileStart k) (addDue (l + 12) 9 k (.tileComplete k c.id) s)

/-- A command whose turn it is meets its conditions, waits, or faults (R272). One whose entry of the queue holds a parity error faults as it is
taken from there (R397, R400; log entry 24, DEDUCED). A timed one whose target has passed while its context's queue
was not served misses its schedule; nothing starts while the half writes the image of a stopped command (R360). -/
def tryStart (c : TileCmd) (s : State) : State :=
  let k := s.core.idx
  let again := fun (s : State) (n : Nat) => addDue n 4 (8 * k + 5) (.tileStart k) s
  if s.gcyc < c.target then s
  else if c.hurt then startFault c 0x13 s else
  match poisonOf c s with
  | some p => startFault c p s
  | none =>
    if c.timed && c.target < s.gcyc then startFault c 0x0C s
    else if s.core.eng.stop.isSome then (if c.timed then startFault c 0x0C s else s)
    else if agentHolds 4 s.core then (if c.timed then startFault c 0x0C s else again s (s.gcyc + 1))
    else if s.gcyc < readyAt c s then (if c.timed then startFault c 0x0C s else again s (readyAt c s))
    else if s.gcyc < freeFrom s then (if c.timed then startFault c 0x0C s else again s (freeFrom s))
    else if c.pops && !tokensThere (s.ctxNum c.second).tokens (specPops c.spec) then
      (if c.timed then startFault c 0x09 s else again s (s.gcyc + 1))
    else if !belongs s.arr.mmode s.half s.gcyc then again s (belongsFrom s.arr.mmode s.half s.gcyc)
    else beginTile c s

/-- A timed command whose target has come behind one that has not started misses its schedule; poison comes first. -/
def missBehind (cs : List TileCmd) (s : State) : State :=
  cs.foldl (fun s c => if c.timed && c.target ≤ s.gcyc then startFault c ((poisonOf c s).getD 0x0C) s else s) s

/-- The half looks at its queue in order of acceptance: once a command has started or faulted, the next one's conditions are looked at in
the same cycle. -/
def serveTiles : Nat → State → State
  | 0, s => s
  | n + 1, s =>
    match s.ctx.tq.filter fun c => c.start.isNone with
    | [] => s
    | c :: cs =>
      let s' := tryStart c s
      if s'.ctx.tq.any fun d => d.id = c.id && d.start.isNone then missBehind cs s' else serveTiles n s'

/-- Where a stepping command stops: the next multiple of 16 K steps, if it has not all of them (R275). -/
def stopAt (r : TileRun) (s : State) : Option Nat :=
  match r.cmd.start with
  | none => none
  | some t =>
    let begun := r.cmd.kfrom + ((List.range (fwK r.cmd.fw - r.cmd.kfrom)).filter fun k =>
      stepCycle s.arr.mmode t (k * fwRho r.cmd.fw) ≤ s.gcyc).length
    let kd := (begun + 15) / 16 * 16
    if kd < fwK r.cmd.fw then some kd else none

/-- Stop the half's stepping command: its image is due over the 129 cycles after the stop (R360). -/
def stopTile (s : State) : State :=
  let k := s.core.idx
  match s.arr.runs.find? fun r => r.half = s.half && r.cmd.second = s.core.second && !r.finished && !r.away && (stopAt r s).isSome with
  | none => s
  | some r =>
    let kd := (stopAt r s).getD 0
    let t := r.cmd.start.getD 0
    let stop := stepCycle s.arr.mmode t ((kd - r.cmd.kfrom) * fwRho r.cmd.fw - 1)
    let s := s.mapArr fun a => { a with runs := a.runs.map fun q =>
      if q.cmd.id = r.cmd.id then
        { q with upTo := some kd, spoil := q.spoil.filter fun x => decide (x ≤ stop), flt := q.flt.filter fun x => decide (x ≤ stop) }
      else q }
    let first := max stop s.gcyc + 1
    let s := setLast stop (s.mapEng fun e => { e with stop := some (first + 128, kd, r.cmd), img := [] })
    (List.range 129).foldl (fun s j => addDue (first + j) 9 k (.stopImageWrite k r.cmd.id) s) s

/-- The core has handed itself to context 1 in this cycle. -/
def switchedNow (s : State) : Bool := s.core.shadow.handler = .switched s.gcyc

/-- What an accumulator holds behind a run: its groups' sums, or undefined values where a slot was written under it (R138, R273, R282). -/
def sumBehind (r : TileRun) (old : List Byte) (s : State) : List Byte × State :=
  if r.given then (old, s)
  else match r.spoil with
    | some _ => let d := draw s; ((List.range 65536).map fun j => Config.freeByte d.1 j, d.2)
    | none => (r.result (r.upTo.getD (fwK r.cmd.fw)) old, s)

/-- A run's effect on its accumulator. -/
def applyRun (r : TileRun) (s : State) : State :=
  if r.given then s
  else
    let x := sumBehind r (s.peek (s.accum r.cmd.z) 65536) s
    x.2.poke (s.accum r.cmd.z) x.1

/-- The sums of completed commands go into an accumulator in the order of their starts; one behind a command that has not completed waits
for it (R274). -/
def settle (z : Nat) : Nat → State → State
  | 0, s => s
  | n + 1, s =>
    match s.arr.runs.find? fun r => r.cmd.z = z with
    | some r =>
      if r.finished then settle z n ((applyRun r s).mapArr fun a => { a with runs := a.runs.filter fun q => q.cmd.id ≠ r.cmd.id }) else s
    | none => s

/-- Runs have left the array: what waited for them goes into its accumulator. -/
def settleAll (s : State) : State := (List.range 8).foldl (fun s z => settle z s.arr.runs.length s) s

/-- A command completes in its cycle L + 12: the accumulator holds its result, and its token is pushed (R261). -/
def tileComplete (id : Nat) (s : State) : State :=
  match s.arr.runs.find? fun r => r.cmd.id = id with
  | none => s
  | some r =>
    if r.finished || r.away || s.core.eng.stop.any (fun x => decide (x.2.2.id = id)) || s.gcyc < r.cmd.last + 12 then s else
    let s := s.mapArr fun a => { a with runs := a.runs.map fun q => if q.cmd.id = id then { q with finished := true } else q }
    let s := settle r.cmd.z s.arr.runs.length s
    let s := count 0x08 1 (mapTq r.cmd.second (fun l => l.filter fun d => d.id ≠ id) s)
    addDue s.gcyc 9 s.core.idx (.groupEnd s.core.idx) (enginePush 5 r.cmd.spec r.cmd.pc r.cmd.second s)

def execTileCommandComplete (k id : Nat) (s : State) : Out := onCore k (tileComplete id) s

/-! ## Drains (R279, R280) -/

/-- A command on the accumulator is accepted and has not completed. -/
def accBusy (z : Nat) (s : State) : Bool := s.pairCmds.any fun c => c.z = z

/-- A drain of an accumulator starts in the cycle. -/
def beginDrain (z pos : Nat) (tag : BitVec 16) (spec : Option Word) (pc : Nat) (second : Bool) (s : State) : State :=
  let k := s.core.idx
  let id := s.nextId
  let s := { s with nextId := id + 1 }.mapEng fun e =>
    { e with drains := e.drains ++ [(⟨id, pc, second, z, pos, s.gcyc, spec, []⟩ : DrainOp)] }
  addDue (s.gcyc + 39) 9 k (.mdrainComplete k id) (stage (.rbrec k pos (s.gcyc + 40) tag z id) s)

def mdrainCheck (f : Md) (s : State) : Option Stop :=
  let g := s.rs f.g
  let off := (fld g 0 32).toNat
  if off % 65536 ≠ 0 then some (.trap 0x03 g)
  else if 65536 * partRB4 s.core.partw ≤ off then some (.trap 0x05 g)
  else if accBusy f.z.toNat s || agentHolds 4 s.core then some .hold
  else popsHold (kSpec f.k s) (takeTokens s.ctx.tokens (copyPops s)) s

def mdrainEff (f : Md) (s : State) : State :=
  let g := s.rs f.g
  let pos := (fld g 0 32).toNat / 65536
  addDue s.gcyc 4 (popKey s.core.idx) (.mdrainComplete s.core.idx s.nextId)
    (retain (.mdrain f.z.toNat pos (fld g 32 16).toNat s.gcyc)
      (beginDrain f.z.toNat pos (fld g 32 16) (kSpec f.k s) s.str.pc s.core.second s))

def execMdrain (h : Hdr) (f : Md) (s : State) : Out :=
  issue h false (useS f.g :: kUses f.k) noNeed (mdrainCheck f) (fun s => plain (mdrainEff f s)) s

/-- What a drain reads at the end of its issue cycle, and its record (R279); used when the cycle ends. -/
def captureDrain (pos arrival : Nat) (tag : BitVec 16) (z id : Nat) (s : State) : State :=
  let s := noteSoft (s.accum z) 65536 0 s
  let s := match s.core.eng.drains.find? fun d => d.id = id with
    | some d => carryRead id (s.accum z) 0 65536 d.pc d.second s
    | none => s
  let bs := s.peek (s.accum z) 65536
  s.mapEng fun e => { e with
    rbrec := (pos, arrival, tag) :: e.rbrec.filter fun r => r.1 ≠ pos
    drains := e.drains.map fun d => if d.id = id then { d with data := bs } else d }

/-- In the cycle of its issue it pops its tokens; at its end the position holds the values, and the token is pushed (R176, R279). -/
def drainComplete (id : Nat) (s : State) : State :=
  match s.core.eng.drains.find? fun d => d.id = id with
  | none => s
  | some d =>
    if s.gcyc = d.c then takeSpec d.spec d.second s else
    let dst := poolAddr s.core.idx (resultBase s.core.partw + 65536 * d.pos)
    let s := (s.mapEng fun e => { e with drains := e.drains.filter fun x => x.id ≠ id }).poke dst d.data
    addDue s.gcyc 9 s.core.idx (.groupEnd s.core.idx)
      (enginePush 5 d.spec d.pc d.second (carryWrite id dst s))

def execMdrainComplete (k id : Nat) (s : State) : Out := onCore k (drainComplete id) s

def execMzero (h : Hdr) (f : Mz) (s : State) : Out :=
  issue h false [] noNeed (fun s => if accBusy f.z.toNat s || agentHolds 4 s.core then some .hold else none)
    (fun s => plain (retain (.mzero f.z.toNat s.gcyc) (stage (.mzero s.core.idx f.z.toNat) s))) s

/-- An accumulator set to +0, its bytes unlisted; used when the cycle ends. -/
def zeroAcc (z : Nat) (s : State) : State :=
  let lo := s.accum z
  { s with mem := memZero s.mem lo (lo + 65536), bad := s.bad.filter (fun w => !wholeWord lo 65536 w)
           soft := s.soft.filter fun w => !wholeWord lo 65536 w }

/-! ## MSTAT and MMODE (R263, R281) -/

/-- A bit per slot. -/
def slotBits (p : SlotRec → Bool) (s : State) : Nat :=
  s.arr.slots.toList.foldr (fun r n => 2 * n + if p r then 1 else 0) 0

/-- K steps done by the half's oldest uncompleted command; one that has been stopped does no more than those before its stop. -/
def kdone (s : State) : Nat :=
  match s.ctx.tq with
  | [] => 0
  | c :: _ =>
    match c.start with
    | some t =>
      let n := stepsBefore s.arr.mmode c t s.gcyc
      ((s.arr.runs.find? fun r => r.cmd.id = c.id).bind fun r => r.upTo.map fun k => min k n).getD n
    | none => c.kfrom

def mstatWord (s : State) : Word :=
  BitVec.ofNat 64 (slotBits (fun r => r.owner = some s.half) s * 2 ^ 48 + slotBits (fun r => r.poison.isSome) s * 2 ^ 32
    + kdone s * 2 ^ 16 + s.arr.mmode.toNat * 2 ^ 13 + s.ctx.fq.length * 2 ^ 8 + s.ctx.tq.length * 2 ^ 5)

def execMstat (h : Hdr) (f : Mg) (s : State) : Out := issueS h [] 1 f.g mstatWord s

/-- A half of the pair has work that MMODE waits for. -/
def pairBusy (s : State) : Bool :=
  s.pairCmds ≠ [] || !s.core.eng.oloads.isEmpty || !(s.coreAt (s.core.idx ^^^ 1)).eng.oloads.isEmpty

def execMmode (h : Hdr) (f : Mmo) (s : State) : Out :=
  issue h false [] noNeed (fun s => if pairBusy s then some .hold else none)
    (fun s => plain (stage (.mmode s.core.idx f.mode) s)) s

/-! ## Stops and MRES (R275, R276, R360) -/

/-- The record of a stop image from its 64 bytes: well formed or not (R275). -/
def imageCmd (rec' : List Byte) (z : Nat) (s : State) : Option TileCmd :=
  let fw := BitVec.ofNat 128 (leNat (rec'.take 16))
  let w := leNat ((rec'.drop 16).take 4)
  let push := leNat ((rec'.drop 20).take 4)
  let kd := w / 2 ^ 24
  let kind := w / 2 ^ 16 % 4
  if kind < 3 && fwValid kind fw && kd % 16 = 0 && kd < fwK fw && w / 2 ^ 18 % 64 = 0 && w / 2 ^ 12 % 16 = 0 && w % 16 = 0
      && push < 32 && leNat (rec'.drop 24) = 0 then
    some { id := s.nextId, kind := kind, z := z, x := w / 16 % 16, y := w / 256 % 16, fw := fw, spec := some (BitVec.ofNat 64 push)
           pops := false, second := s.core.second, stamp := 0, pc := s.str.pc, timed := false, target := s.gcyc + 130, start := none
           last := 0, kfrom := kd, acc1 := true, redone := false, resumes := none, hurt := false }
  else none

/-- The checks of MRES (R276). A record that holds an uncorrectable word traps as a load of it would (R397; log entry 24, DEDUCED). -/
def mresCheck (f : Mzg) (s : State) : Option Stop :=
  let p := s.rs f.g
  if s.str.timed then some (.trap 0x0D 0) else
  match stepFault .localOnly 64 65600 false p s with
  | some c => some (.trap c.2 p)
  | none =>
    if s.badAt (poolAddr s.core.idx (ptrOff p + 65536)) 64 then some (.trap 0x13 p) else
    match imageCmd (s.peek (poolAddr s.core.idx (ptrOff p + 65536)) 64) f.z.toNat s with
    | none => some (.trap 0x07 p)
    | some c =>
      if !c.reads.all s.claims then some (.trap 0x19 0)
      else if !modeAdmits s then some (.trap 0x1A 0)
      else if 4 ≤ s.ctx.tq.length || agentHolds 4 s.core then some .hold else none

/-- The image is read in 129 beats; the command is accepted with target c + 130. -/
def mresEff (f : Mzg) (s : State) : State :=
  let base := poolAddr s.core.idx (ptrOff (s.rs f.g))
  match imageCmd (s.peek (base + 65536) 64) f.z.toNat s with
  | none => s
  | some c =>
    let k := s.core.idx
    let s := (acceptTile c s).mapEng fun e => { e with mres := e.mres ++ [(s.gcyc, base, [], c)] }
    let s := (List.range 128).foldl (fun s j => addDue (s.gcyc + 1 + j) 1 k (.mresImageRead k c.id) s) s
    addDue (s.gcyc + 129) 9 k (.mresImageRead k c.id) s

def execMres (h : Hdr) (f : Mzg) (s : State) : Out :=
  issue h false [useS f.g] noNeed (mresCheck f) (fun s => plain (mresEff f s)) s

/-- zN := ACCUM: what earlier commands on the accumulator have still to give it is overwritten, but for what starts behind a stopped command
that the image resumes (R274, R276). -/
def takeImage (t : TileCmd) (bs : List Byte) (s : State) : State :=
  let n := match t.resumes with
    | some i => (s.arr.runs.findIdx? fun q => q.away && q.cmd.id = i).getD s.arr.runs.length
    | none => s.arr.runs.length
  (s.mapArr fun a => { a with runs := a.runs.zipIdx.map fun q =>
    if q.1.cmd.z = t.z && q.2 < n && !q.1.away then { q.1 with given := true } else q.1 }).poke (s.accum t.z) bs

/-- A beat of 512 bytes; after the last, zN := ACCUM, with its bad words as an OLOAD carries them (R397; log entry 24, DEDUCED). -/
def mresRead (id : Nat) (s : State) : State :=
  match s.core.eng.mres.find? fun m => m.2.2.2.id = id with
  | none => s
  | some (c, base, bs, t) =>
    if s.gcyc < c + 129 then
      carryRead id (base + bs.length) bs.length 512 t.pc t.second <| noteSoft (base + bs.length) 512 0
        (s.mapEng fun e => { e with mres := e.mres.map fun m =>
          if m.2.2.2.id = id then (c, base, bs ++ s.peek (base + bs.length) 512, t) else m })
    else
      carryWrite id (s.accum t.z) (takeImage t bs (s.mapEng fun e => { e with mres := e.mres.filter fun m => m.2.2.2.id ≠ id }))

def execMresImageRead (k id : Nat) (s : State) : Out := onCore k (mresRead id) s

/-- The image of a stopped command. -/
def stopImage (c : TileCmd) (kd : Nat) (acc : List Byte) : List Byte :=
  acc ++ leBytes 16 c.fw.toNat
    ++ leBytes 4 (kd * 2 ^ 24 + c.kind * 2 ^ 16 + c.y * 2 ^ 8 + c.x * 2 ^ 4)
    ++ leBytes 4 ((c.spec.getD 0).toNat % 32) ++ List.replicate 40 0

/-- A resumed command stands before what its context's queue holds, which was accepted behind it (R272, R274, R361). -/
def acceptFirst (c : TileCmd) (s : State) : State :=
  addDue c.target 4 (8 * s.core.idx + 5) (.tileStart s.core.idx)
    ({ s with nextId := s.nextId + 1 }.mapCtx fun x => { x with tq := c :: x.tq })

/-- A stopped command is resumed as MRES does, from its image, once its context runs again (R361); it waits while the half holds (R355). -/
def resumeStopped (s : State) : State :=
  match s.core.eng.stopped with
  | none => s
  | some c =>
    let k := s.core.idx
    if agentHolds 4 s.core then addDue (s.gcyc + 1) 4 (8 * k + 5) (.tileStart k) s else
    let base := poolAddr k (64 * (fld s.core.trapbase 40 24).toNat)
    let id := s.nextId
    let kd := (s.peek (base + 65536) 64).getD 19 0
    let c := { c with
      id := id, pops := false, target := s.gcyc + 130, start := none, last := 0, kfrom := kd.toNat, acc1 := true, timed := false
      resumes := some c.id, hurt := false }
    let s := (acceptFirst c s).mapEng fun e => { e with mres := e.mres ++ [(s.gcyc, base, [], c)], stopped := none }
    let s := (List.range 128).foldl (fun s j => addDue (s.gcyc + 1 + j) 1 k (.mresImageRead k id) s) s
    addDue (s.gcyc + 129) 9 k (.mresImageRead k id) s

/-- The accumulator as a run's partial sum leaves it, behind the whole sums of those that started before it (R274, R275). -/
def partSum (r : TileRun) (s : State) : List Byte × State :=
  let before := (s.arr.runs.takeWhile fun q => q.cmd.id ≠ r.cmd.id).filter fun q => q.cmd.z = r.cmd.z
  (before ++ [r]).foldl (fun x q => sumBehind q x.1 x.2) (s.peek (s.accum r.cmd.z) 65536, s)

/-- A stopped command leaves the array. Its accumulator holds its partial sum, unless an earlier command has still to change it; where later
ones wait for its whole sum it keeps its place (R274). -/
def leaveArray (r : TileRun) (s : State) : State :=
  let first := (s.arr.runs.find? fun q => q.cmd.z = r.cmd.z).any fun q => decide (q.cmd.id = r.cmd.id)
  let later := ((s.arr.runs.dropWhile fun q => q.cmd.id ≠ r.cmd.id).drop 1).any fun q => q.cmd.z = r.cmd.z
  let s := if first then applyRun r s else s
  if later then s.mapArr fun a => { a with runs := a.runs.map fun q => if q.cmd.id = r.cmd.id then { q with away := true } else q }
  else settleAll (s.mapArr fun a => { a with runs := a.runs.filter fun q => q.cmd.id ≠ r.cmd.id })

/-- The first beat of the image is due: the image is formed. -/
def formImage (c : TileCmd) (kd : Nat) (r : TileRun) (s : State) : State :=
  if s.core.eng.img ≠ [] then s
  else
    let s := carryRead c.id (s.accum c.z) 0 65536 c.pc c.second (noteSoft (s.accum c.z) 65536 0 s)
    let x := partSum r s
    x.2.mapEng fun e => { e with img := stopImage c kd x.1 }

/-- Write beats of 512 bytes of the image, from one number to another. -/
def imageBeats (base lo hi : Nat) (s : State) : State :=
  s.poke (base + 512 * lo) ((s.core.eng.img.drop (512 * lo)).take (512 * (hi + 1 - lo)))

/-- The image is written into LOCAL at 64·SIMG, 512 bytes a cycle over the 129 cycles after the stop; then the command is no longer the
half's. Where its context runs again by then, it is resumed from here (R360, R361). -/
def stopWrite (id : Nat) (s : State) : State :=
  match s.core.eng.stop, s.arr.runs.find? fun r => r.cmd.id = id with
  | some (due, kd, c), some r =>
    if s.gcyc + 128 < due || c.id ≠ id then s else
    let base := poolAddr s.core.idx (64 * (fld s.core.trapbase 40 24).toNat)
    let s := formImage c kd r s
    let j := min 128 (s.gcyc + 128 - due)
    let s := imageBeats base j j s
    if s.gcyc < due then s else
    let s := leaveArray r (carryWrite c.id base s)
    let s := mapTq c.second (fun l => l.filter fun d => d.id ≠ id) s
    let s := addDue (s.gcyc + 1) 4 (8 * s.core.idx + 5) (.tileStart s.core.idx) (s.mapEng fun e => { e with stop := none, stopped := some c, img := [] })
    if s.core.second = c.second then resumeStopped s else s
  | _, _ => s

def execStopImageWrite (k id : Nat) (s : State) : Out := onCore k (stopWrite id) s

/-- Only the running context's queue is served; in the cycle of a CTXSW context 0's still is, and then its stepping command stops
(R360, R362). -/
def tileStart (s : State) : State :=
  let s := if !switchedNow s && s.core.eng.stopped.any (fun c => c.second = s.core.second) then resumeStopped s else s
  if switchedNow s then withShadow (fun s => stopTile (serveTiles (s.ctx.tq.length + 1) s)) s
  else serveTiles (s.ctx.tq.length + 1) s

def execTileCommandStart (k : Nat) (s : State) : Out := onCore k tileStart s

end Sys2Proof.Machine
end

