-- ==== Sys2Proof/Machine/Segments.lean ====
section
/-!
DEFINITION. Machine/Segments.lean: what the strands of a core do together: schedule segments (R291 to R293), operator boundaries
(R375), the retained window's mark and replays of the array half (R399 to R403), and deferred traps (R349).
-/
namespace Sys2Proof.Machine

/-- A shared-space word with this OP and a zero body (R291, R375). -/
def isBare (op : BitVec 7) (w : W32) : Bool := !bit w 31 && fld w 21 7 = op && fld w 0 21 = 0

/-- The strand's S = 1 instruction lacks a partner: it does not issue in the cycle (R290). -/
def State.parted (s : State) (d : Planned) : Bool := bit d.word 30 && s.plan.apart.getLsbD d.st.num

/-- Every strand that has not halted is due with a word of which p holds, and none lacks its S = 1 partner (R290, R292, R375). -/
def allDue (p : Planned → Bool) (s : State) : Bool :=
  s.plan.alive.all fun st => s.plan.due.any fun d => d.st = st && p d && !s.parted d

/-- The extension word of the instruction being executed. -/
def State.extWord (s : State) : W32 := s.str.image.getD (s.str.pc / 4 + 1) 0

/-! ## SEGB and SEGE -/

/-- A segment opened in an earlier cycle is open. -/
def segOpen (s : State) : Bool := s.core.seg.any fun g => decide (g.start < s.gcyc)

def segbCheck (s : State) : Option Stop :=
  if !s.str.timed then some (.trap 0x0D 0)
  else if segOpen s || !allDue (fun d => d.word = s.word && d.ext = s.extWord) s then some (.trap 0x14 (BitVec.allOnes 64))
  else none

def execSegb (h : Hdr) (_ : Seg) (s : State) : Out :=
  issue h true [] noNeed segbCheck
    (fun s => plain { s with core := { s.core with seg := some ⟨s.gcyc, s.word, s.extWord, [], false⟩ } }) s

/-- Count and signature at SEGE (R293, R402). -/
def segCount (g : Segment) (s : State) : Nat := s.gcyc - g.start - s.core.slip
def segSig (g : Segment) : W32 := crc32c g.sig

def segeCheck (s : State) : Option Stop :=
  if !s.str.timed then some (.trap 0x0D 0)
  else if !segOpen s || !allDue (fun d => isBare 0x2C d.word) s then some (.trap 0x14 (BitVec.allOnes 64))
  else match s.core.seg with
    | none => none
    | some g =>
      if !g.void && (segCount g s ≠ (fld g.word 0 16).toNat || segSig g ≠ g.ext) then
        some (.trap 0x14 (BitVec.ofNat 64 (segCount g s * 2 ^ 32 + (segSig g).toNat)))
      else none

/-- The segment closes at the end of the cycle. -/
def execSege (h : Hdr) (s : State) : Out :=
  issue h false [] noNeed segeCheck (fun s => plain (stage (.segEnd s.core.idx) s)) s

/-! ## TSM (R399) -/

def execTsm (h : Hdr) (s : State) : Out :=
  issue h false [] noNeed noCheck
    (fun s => plain (if s.cur = .M then s.mapEng fun e => { e with retained := [], retOver := false } else s)) s

/-! ## OPB (R375) -/

/-- Strand A's OPB waits as MARK does. -/
def opbWaits (s : State) : Bool := pendingIn 3 true s ≠ [] || s.core.eng.wc.any fun e => e.hasA

def opbCheck (s : State) : Option Stop :=
  if s.core.seg.isSome then some (.trap 0x0D 0)
  else if s.cur = .A && opbWaits s then some .wait
  else if allDue (fun d => isBare 0x2E d.word && !(d.st = .A && opbWaits s)) s then none
  else if s.str.timed then
    some (.trap 0x0D (BitVec.ofNat 64 (s.core.syncmask.toNat
      + 16 * s.plan.due.foldl (fun m d => if isBare 0x2E d.word then m ||| 2 ^ d.st.num else m) 0)))
  else some .hold

/-- The first strand of the boundary in the order C, A, V, M counts it for all, and parks the core where a request is pending. -/
def opbEff (s : State) : State :=
  match s.plan.due with
  | d :: _ =>
    if d.st = s.cur then
      let s := s.mapCtx fun x => { x with bcount := x.bcount + 1 }
      if s.core.request then
        addDue (s.gcyc + 1) 9 s.core.idx (.park s.core.idx)
          { s with core := { s.core with parking := some (s.core.ctx.bcount, s.str.pc, s.cur.num), request := false } }
      else s
    else s
  | [] => s

def execOpb (h : Hdr) (s : State) : Out := issue h false [] noNeed opbCheck (fun s => plain (opbEff s)) s

/-! ## Deferred traps (R349) -/

/-- The core takes the deferred trap that is due, unless its context is in a handler. -/
def execDeferredTrap (k : Nat) (s : State) : Out :=
  onCore k (fun s =>
    match s.core.deferred with
    | some e => if s.ctx.inHandler s.gcyc then s else enterTrap e { s with core := { s.core with deferred := none } }
    | none => s) s

/-! ## Replay (R400 to R403) -/

/-- The cycle of a retained command. -/
def RetCmd.cycle : RetCmd → Nat
  | .mzero _ c => c
  | .oload _ _ _ _ c => c
  | .mdrain _ _ _ c => c
  | .tile t => t.start.getD t.target

def RetCmd.shift (n : Nat) : RetCmd → RetCmd
  | .mzero z c => .mzero z (c + n)
  | .oload x a l t c => .oload x a l t (c + n)
  | .mdrain z p t c => .mdrain z p t (c + n)
  | .tile t => .tile { t with start := t.start.map (· + n), target := t.target + n }

/-- Accumulators read before they are first written within the window (condition 3). -/
def windowReads : List RetCmd → List Nat → Bool
  | [], _ => true
  | .mzero z _ :: rs, known => windowReads rs (z :: known)
  | .oload .. :: rs, known => windowReads rs known
  | .mdrain z _ _ _ :: rs, known => known.contains z && windowReads rs known
  | .tile t :: rs, known => (!(fwAcc t.fw || t.acc1) || known.contains t.z) && windowReads rs (t.z :: known)

/-- S of R401. -/
def replaySlip (f : Nat) (s : State) : Nat :=
  let s0 := (s.core.eng.retained.head?.map RetCmd.cycle).getD f
  match pairW s.arr.mmode with
  | some w => (f - s0 + 2 * w - 1) / (2 * w) * (2 * w)
  | none => f - s0

/-- Some command of an earlier replay is still to complete. -/
def redoRuns (s : State) : Bool :=
  s.core.ctx.tq.any (fun c => c.redone) || !s.core.eng.redo.isEmpty || s.core.replay.any fun r => decide (s.gcyc < r.1 + r.2)

/-- Every condition of R400. -/
def absorbs (f : Nat) (c : TileCmd) (s : State) : Bool :=
  s.ctx.m.timed && s.core.seg.isSome
    && !s.core.eng.retOver && s.core.eng.retained.any (fun r => match r with | .tile t => t.id = c.id | _ => false)
    && windowReads s.core.eng.retained []
    && !redoRuns s && !c.redone
    && (match s.core.seg with
      | some g => replaySlip f s + s.core.slip ≤ 32 * (fld g.word 16 5).toNat
      | none => false)

/-- The fault escalates: a ring record, the deferred trap, and a step failure (R349, R403, R406). -/
def escalate (code : BitVec 6) (c : TileCmd) (s : State) : State :=
  inCtx c.second (fun s => deferTrap ⟨code, c.stamp.setWidth 64, .M, true⟩
    (stepFail code.toNat (report code.toNat c.pc 3 4 (c.stamp.setWidth 64) s))) s

/-- Results in flight that would land at or after f land S cycles later (R402). -/
def slipStrand (f n k : Nat) (t : Strand) (s : State) : Strand × State :=
  let late := fun (g : Flight) => match g.lands with | some l => if f ≤ l then { g with lands := some (l + n) } else g | none => g
  let t' := { t with next := max t.next f + n, flights := t.flights.map late }
  (t', t'.flights.foldl (fun s g => match g.lands with | some l => addDue l 8 k (.resultLanding k) s | none => s) s)

/-- The whole context slips by n cycles from f. -/
def slipContext (f n : Nat) (s : State) : State :=
  let k := s.core.idx
  let x := s.ctx
  let c := slipStrand f n k x.c s
  let a := slipStrand f n k x.a c.2
  let v := slipStrand f n k x.v a.2
  let m := slipStrand f n k x.m v.2
  m.2.mapCtx fun x => { x with c := c.1, a := a.1, v := v.1, m := m.1 }

/-- A tile command as the replay queues it: only one that had not come to its start still pops its tokens, and it pushes only if its first
run had not (R401). -/
def redoTile (n : Nat) (pushed faulted : Bool) (t : TileCmd) : TileCmd :=
  { t with
    target := t.start.getD t.target + n, start := none, redone := true, pops := t.pops && t.start.isNone && !faulted
    spec := if pushed then none else t.spec, timed := true }

/-- What a redone OLOAD or MDRAIN still pushes: its first run had not completed (R401). -/
def restOf (r : RetCmd) (s : State) : Option Word × Nat :=
  match r with
  | .oload x a _ _ c =>
    match s.core.eng.oloads.find? fun o => x = o.x && a = o.src && c = o.c with
    | some o => (o.spec, o.pc)
    | none => (none, 0)
  | .mdrain z p _ c =>
    match s.core.eng.drains.find? fun d => z = d.z && p = d.pos && c = d.c with
    | some d => (d.spec, d.pc)
    | none => (none, 0)
  | _ => (none, 0)

/-- The half redoes its window: tile commands go back into the queue, the others are due at their cycles + S. The commands named have
faulted. -/
def beginReplay (f : Nat) (faulted : List Nat) (s : State) : State :=
  let k := s.core.idx
  let n := replaySlip f s
  let e := s.core.eng
  let tiles := e.retained.filterMap fun r => match r with | .tile t => some t | _ => none
  let known := fun (id : Nat) => tiles.any fun t => t.id = id
  let live := s.ctx.tq
  let redone := tiles.map fun t => redoTile n (!(live.any (fun d => d.id = t.id) || faulted.contains t.id)) (faulted.contains t.id) t
  let rest := (live.filter fun d => !known d.id).map fun d => if d.start.isNone then { d with target := d.target + n } else d
  let others := e.retained.filter fun r => match r with | .tile _ => false | _ => true
  let due := others.map fun r => (r.cycle + n, r, restOf r s)
  let s := settleAll (s.mapArr fun a => { a with runs := a.runs.filter fun q => !(q.half = s.half && known q.cmd.id) })
  let s := s.mapEng fun e => { e with
    retained := e.retained.map (RetCmd.shift n)
    redo := due
    oloads := e.oloads.filter fun o => !others.any fun r => match r with | .oload x a _ _ c => x = o.x && a = o.src && c = o.c | _ => false
    drains := e.drains.filter fun d => !others.any fun r => match r with | .mdrain z p _ c => z = d.z && p = d.pos && c = d.c | _ => false }
  let s := if s.half = 0 then s.mapArr (fun a => { a with lastE := none }) else s.mapArr fun a => { a with lastO := none }
  let s := (slipContext f n s).mapCtx fun x => { x with tq := redone ++ rest }
  let s := { s with core := { s.core with replay := some (f, n), slip := s.core.slip + n } }
  let s := (redone ++ rest).foldl (fun s d => addDue d.target 4 (8 * k + 5) (.tileStart k) s) s
  let s := due.foldl (fun s d => addDue d.1 2 k (.replay k) s) s
  count 0x0E 1 (logEvent 4 7 k s.vfOf 0 0 n s)

/-- A retained command other than a tile command is redone in its cycle. -/
def redoOne (d : Nat × RetCmd × Option Word × Nat) (s : State) : State :=
  match d.2.1 with
  | .mzero z _ => stage (.mzero s.core.idx z) s
  | .oload x a l t _ => beginOload x a l t d.2.2.1 d.2.2.2 s.core.second s
  | .mdrain z p t _ => beginDrain z p (BitVec.ofNat 16 t) d.2.2.1 d.2.2.2 s.core.second s
  | .tile _ => s

/-- The faults found in the last cycle, the older command's first: at the start of a command, or at a K step that has consumed an
uncorrectable word (R400, R404). -/
def faultsFound (s : State) : List (BitVec 6 × TileCmd × Bool) :=
  let starts := (s.core.eng.aflt.filter fun x => x.1 = s.gcyc).map fun x => (x.2.1, x.2.2, false)
  let steps := (s.arr.runs.filter fun r => r.half = s.half && r.flt.any fun x => decide (x + 1 = s.gcyc)).map fun r =>
    ((0x13 : BitVec 6), r.cmd, true)
  starts.foldl (fun l x => l.takeWhile (fun y => y.2.1.id < x.2.1.id) ++ x :: l.dropWhile fun y => y.2.1.id < x.2.1.id) steps

/-- A command that has consumed an uncorrectable word leaves its accumulator undefined (R397, R400). -/
def discardAcc (c : TileCmd) (s : State) : State :=
  let s := match (badStep c c.kfrom s).bind fun k => badOf c k s with
    | some a => noteBad a 0 s
    | none => s
  loseAcc c.z s

/-- The format word of a faulted command that has not started is back at the head of the queue (R349). -/
def giveBack (x : BitVec 6 × TileCmd × Bool) (s : State) : State :=
  if x.2.2 || !x.2.1.pops then s else s.mapCtxNum x.2.1.second fun y => { y with
    fq := x.2.1.fw :: y.fq, fqHurt := y.fqHurt.map fun i => i + 1 }

/-- A fault that is not absorbed: the command is over. -/
def endFaulted (x : BitVec 6 × TileCmd × Bool) (s : State) : State :=
  let s := settleAll (s.mapArr fun a => { a with runs := a.runs.filter fun q => q.cmd.id ≠ x.2.1.id })
  escalate x.1 x.2.1 (mapTq x.2.1.second (fun l => l.filter fun d => d.id ≠ x.2.1.id) s)

/-- What the replay has to do in the cycle: K steps look at the words they consume, redone commands issue, and faults found in the last cycle
are absorbed, by one replay for the oldest, or escalate. -/
def replayStep (s : State) : State :=
  let s := lookAgain s
  let s := match s.core.eng.redo.filter fun d => d.1 = s.gcyc with
    | [] => s
    | ds => (ds.foldl (fun (s : State) d => redoOne d s) s).mapEng fun e => { e with redo := e.redo.filter fun d => d.1 ≠ s.gcyc }
  match faultsFound s with
  | [] => s
  | x :: xs =>
    let s := s.mapEng fun e => { e with aflt := e.aflt.filter fun y => y.1 ≠ s.gcyc }
    let s := (x :: xs).foldl (fun s y => if y.2.2 then discardAcc y.2.1 s else s) s
    if absorbs s.gcyc x.2.1 s then beginReplay s.gcyc ((x :: xs).map fun y => y.2.1.id) s
    else (x :: xs).foldl (fun s y => endFaulted y s) ((x :: xs).foldr giveBack s)

def execReplay (k : Nat) (s : State) : Out := onCore k replayStep s

end Sys2Proof.Machine
end

