-- ==== Sys2Proof/Machine/Copy.lean ====
section
/-!
DEFINITION. Machine/Copy.lean: the copy engine: COPY, COPYT and COPYK, their beats and their completion, and the fixed-rate block
coder (R164 to R175, R180 to R183, R185, R303, R324, R325, R397).
-/
namespace Sys2Proof.Machine

/-! ## The block coder (R180 to R182) -/

/-- Mantissa width of MW, and the bytes of a coded block. -/
def codeWidth (mw : Nat) : Nat := 4 * 2 ^ mw
def codeSize (mw : Nat) : Nat := 2 + 2 * codeWidth mw

/-- An exact value times 2^(−k). -/
def Num.shift (k : Int) : Num → Num
  | .fin n m e => .fin n m (e - k)
  | x => x

/-- log2 of the step of a block with exponent byte E. -/
def codeStep (mw e : Nat) : Int := (max e 1 : Nat) - 127 - ((codeWidth mw : Int) - 2)

/-- The mantissa of one element. -/
def codeMant (mw e : Nat) (x : Nat) : Int :=
  let lim : Int := 2 ^ (codeWidth mw - 1) - 1
  max (-lim) ((Num.shift (codeStep mw e) (Num.ofBits .bf16 x)).toInt .rne (-lim - 1) lim)

/-- The element a mantissa decodes to; +0 for 0. -/
def codeElem (mw e : Nat) (m : Int) : Nat := Num.round .rne .bf16 (.fin (m < 0) m.natAbs (codeStep mw e))

/-- The magnitude of an exact value. -/
def Num.mag : Num → Num
  | .fin _ m e => .fin false m e
  | .inf _ => .inf false
  | .nan => .nan

/-- The error code of the greatest error (R182). -/
def errCode : Num → Nat
  | .fin _ m e =>
    if m = 0 then 0
    else
      let l : Int := e + m.log2 + (if 2 ^ m.log2 = m then 0 else 1)
      min 254 (l + 142).toNat
  | _ => 255

/-- Encode 16 bf16 elements: the coded bytes and the error code. -/
def encodeBlock (mw : Nat) (xs : List Nat) : List Byte × Byte :=
  if xs.any fun x => x / 128 % 256 = 255 then
    (0xFF :: BitVec.ofNat 8 mw :: List.replicate (2 * codeWidth mw) 0, 0xFF)
  else
    let e := xs.foldl (fun m x => max m (x / 128 % 256)) 1
    let ms := xs.map (codeMant mw e)
    let errs := (xs.zip ms).map fun x =>
      ((Num.ofBits .bf16 x.1).add (Num.ofBits .bf16 (codeElem mw e x.2)).neg).mag
    let worst := errs.foldl (fun a b => if a.lt b then b else a) (.fin false 0 0)
    (BitVec.ofNat 8 e :: BitVec.ofNat 8 mw ::
        leBytes (2 * codeWidth mw) (packNat (codeWidth mw) (ms.map fun m => (BitVec.ofInt (codeWidth mw) m).toNat)),
      BitVec.ofNat 8 (errCode worst))

/-- Decode a coded block to 16 bf16 elements; it raises no fault. -/
def decodeBlock (mw : Nat) (bs : List Byte) : List Nat :=
  let e := (bs.getD 0 0).toNat
  if e = 255 || (bs.getD 1 0).toNat ≠ mw then List.replicate 16 0x7FC0
  else
    let w := codeWidth mw
    let x := leNat (bs.drop 2)
    (List.range 16).map fun i => codeElem mw e (BitVec.ofNat w (x / 2 ^ (w * i))).toInt

/-! ## The command's shape -/

def copyDir (c : CopyCmd) : Bool := if c.kind = 2 then bit c.ctl 2 else bit c.ctl 0
def copyMw (ctl : Word) : Nat := (fld ctl 0 2).toNat
def copyPad (ctl : Word) : Nat := (fld ctl 8 8).toNat
def copyBlocks (ctl : Word) : Nat := (fld ctl 16 24).toNat
def copyErrt (ctl : Word) : Nat := (fld ctl 40 24).toNat

/-- Elements of a box, and its map offset at element e, i_0 fastest (R175). -/
def boxCount (m : List (Int × Nat)) : Nat := m.foldl (fun n d => n * d.2) 1
def boxOff : List (Int × Nat) → Nat → Int
  | [], _ => 0
  | (st, x) :: ds, e => ((e % x : Nat) : Int) * st + boxOff ds (e / x)

/-- Lowest and highest offset from BASE over the box (R174). -/
def boxLow (m : List (Int × Nat)) : Int := m.foldl (fun t d => t + min 0 (((d.2 : Int) - 1) * d.1)) 0
def boxHigh (m : List (Int × Nat)) : Int := m.foldl (fun t d => t + max 0 (((d.2 : Int) - 1) * d.1)) 0

/-- The innermost rows are runs of bytes. -/
def boxRows (m : List (Int × Nat)) (esz : Nat) : Bool := match m with | d :: _ => d.1 = esz | [] => false
/-- Bytes of an innermost row. -/
def rowBytes (m : List (Int × Nat)) (esz : Nat) : Nat := ((m.head?.map Prod.snd).getD 0) * esz

/-- Beats of a box (R175). -/
def boxBeats (m : List (Int × Nat)) (esz : Nat) : Nat :=
  if boxCount m = 0 then 0
  else if boxRows m esz then boxCount (m.drop 1) * ((rowBytes m esz + 127) / 128) else boxCount m

/-- Beat j of a box: its offset from BASE, its dense offset, and its bytes. -/
def boxBeat (m : List (Int × Nat)) (esz j : Nat) : Int × Nat × Nat :=
  if boxRows m esz then
    let n := rowBytes m esz
    let per := (n + 127) / 128
    let q := 128 * (j % per)
    (boxOff (m.drop 1) (j / per) + q, j / per * n + q, min 128 (n - q))
  else (boxOff m j, j * esz, esz)

/-- Beat j: offset and bytes at the source, offset and bytes at the destination. -/
def beatSpan (c : CopyCmd) (j : Nat) : Int × Nat × Int × Nat :=
  if c.kind = 0 then
    let n := min 128 ((fld c.ctl 0 32).toNat - 128 * j)
    ((128 * j : Nat), n, (128 * j : Nat), n)
  else if c.kind = 1 then
    let b := boxBeat c.map c.esz j
    if copyDir c then (b.2.1, b.2.2, b.1, b.2.2) else (b.1, b.2.2, b.2.1, b.2.2)
  else
    let pad := copyPad c.ctl
    if copyDir c then ((pad * j : Nat), codeSize (copyMw c.ctl), (32 * j : Nat), 32)
    else ((32 * j : Nat), 32, (pad * j : Nat), pad)

/-! ## Checks at issue (R169, R172 to R175, R183) -/

/-- A token of an exact offset from a pointer. -/
def offsetPtr (p : Word) (o : Int) : Word := lea p (BitVec.ofInt 64 o)

/-- The arrival a control word asks for: the key of its barrier (R173). -/
def copyArrival (ctl : Word) (s : State) : Option Nat :=
  if bit ctl 63 then some (barKey (8 * (s.core.idx / 8) + (fld ctl 60 3).toNat) (fld ctl 54 6).toNat) else none

/-- The arrival's fields and the checks of R173. -/
def arrivalBad (ctl : Word) (s : State) : Bool :=
  if bit ctl 63 then
    !((s.vf s.vfOf).ownsCore (8 * (s.core.idx / 8) + (fld ctl 60 3).toNat)) || (48 ≤ (fld ctl 54 6).toNat && !winOpen s)
  else fld ctl 54 9 ≠ 0

/-- A field of the control word outside its limits. -/
def ctlBad (kind : Nat) (ctl : Word) (s : State) : Bool :=
  if kind = 0 then 2 ^ 26 < (fld ctl 0 32).toNat || fld ctl 32 22 ≠ 0 || arrivalBad ctl s
  else if kind = 1 then fld ctl 1 53 ≠ 0 || arrivalBad ctl s
  else copyMw ctl = 3 || fld ctl 3 5 ≠ 0 || copyBlocks ctl = 0 || copyPad ctl < codeSize (copyMw ctl)
    || (bit ctl 2 && copyErrt ctl ≠ 0)

/-- A tensor map read at its pointer: BASE, ESZ in bytes, dimensions (R174). -/
structure TensorMap where
  base : Word
  esz  : Nat
  dims : List (Int × Nat)

def mapWord (p : Word) (o : Nat) (s : State) : Word := BitVec.ofNat 64 (leNat (s.peek (placeOf p s + o) 8))

def readMap (p : Word) (s : State) : TensorMap :=
  let w := mapWord p 8 s
  { base := mapWord p 0 s
    esz := 2 ^ (fld w 8 2).toNat
    dims := (List.range (fld w 0 5).toNat).map fun i =>
      ((fld (mapWord p (24 + 16 * i) s) 0 48).toInt, (fld (mapWord p (16 + 16 * i) s) 0 32).toNat) }

/-- A field of the map outside its limits. -/
def mapBad (p : Word) (s : State) : Bool :=
  let w := mapWord p 8 s
  let m := readMap p s
  fld w 10 54 ≠ 0 || fld w 5 3 ≠ 0 || m.dims.length = 0 || 16 < m.dims.length
    || (List.range m.dims.length).any (fun i => fld (mapWord p (24 + 16 * i) s) 48 16 ≠ 0 || fld (mapWord p (16 + 16 * i) s) 32 32 ≠ 0)
    || 2 ^ 26 < boxCount m.dims * m.esz

/-- BASE or a stride that is no multiple of the element size. -/
def mapAskew (m : TensorMap) : Bool := ptrOff m.base % m.esz ≠ 0 || m.dims.any fun d => d.1 % m.esz ≠ 0

/-- R99 over a range, as code and TVAL. -/
def rangeFault (r : Reach) (align n : Nat) (p : Word) (s : State) : Option (BitVec 6 × Word) :=
  (stepFault r align n s.str.timed p s).map fun x => (x.2, p)

/-- The pointer of a box's lowest byte; BASE for one that reaches below offset 0 (R169). -/
def boxPtr (m : TensorMap) : Word :=
  if boxCount m.dims = 0 || (ptrOff m.base : Int) + boxLow m.dims < 0 then m.base else offsetPtr m.base (boxLow m.dims)

/-- R99 over a box; one that reaches below offset 0 fails its bound (R169, R174). -/
def boxFault (r : Reach) (m : TensorMap) (s : State) : Option (BitVec 6 × Word) :=
  if boxCount m.dims = 0 then rangeFault r 1 0 m.base s
  else
    let lo := boxLow m.dims
    if (ptrOff m.base : Int) + lo < 0 then some (if canonical m.base then 0x05 else 0x04, m.base)
    else rangeFault r 1 (boxHigh m.dims - lo + m.esz).toNat (boxPtr m) s

/-- A write of the command breaks a typed window's rule on words: step 2 of R99 (R324). -/
def typedBad (dst : Word) (pieces : List Int) (s : State) : Bool :=
  canonical dst && ptrSpace dst = 5 && windowOpen (ptrWin dst) s && (s.window (ptrWin dst)).typed
    && pieces.any fun x => ((ptrOff dst : Int) + x) % 4 ≠ 0

/-- The offsets and lengths whose multiples of 4 R324 asks for, of a box as destination and of a dense destination. A dimension of extent 1
moves no write by its stride. -/
def boxQuads (m : TensorMap) : List Int :=
  let strides := fun (ds : List (Int × Nat)) => (ds.filter fun d => decide (1 < d.2)).map Prod.fst
  if boxCount m.dims = 0 then []
  else if boxRows m.dims m.esz then 0 :: (rowBytes m.dims m.esz : Int) :: strides (m.dims.drop 1)
  else 0 :: (m.esz : Int) :: strides m.dims
def denseQuads (m : TensorMap) : List Int :=
  if boxCount m.dims = 0 then []
  else [0, if boxRows m.dims m.esz then (rowBytes m.dims m.esz : Int) else (m.esz : Int)]

/-- The endpoints of a command: source and destination pointers with the tensor map. -/
def copyEnds (kind : Nat) (d a b : Word) (s : State) : Word × Word × TensorMap :=
  if kind = 1 then
    let m := readMap a s
    if bit b 0 then (d, m.base, m) else (m.base, d, m)
  else (a, d, ⟨0, 1, []⟩)

/-- Steps 4 and 5 of R169. A COPYK's coded end is checked for PAD bytes of every block (R183; log entry 34, DESIGN CHOICE). -/
def endsFault (kind : Nat) (d a b : Word) (s : State) : Option (BitVec 6 × Word) :=
  let e := copyEnds kind d a b s
  let m := e.2.2
  let dense := boxCount m.dims * m.esz
  if kind = 0 then
    let n := (fld b 0 32).toNat
    (rangeFault .copySrc 1 n a s).orElse fun _ => rangeFault .copyDst 1 n d s
  else if kind = 1 then
    if bit b 0 then
      (rangeFault .copySrc 1 dense d s).orElse fun _ =>
        if typedBad m.base (boxQuads m) s then some (0x03, boxPtr m) else boxFault .copyDst m s
    else (boxFault .copySrc m s).orElse fun _ =>
      if typedBad d (denseQuads m) s then some (0x03, d) else rangeFault .copyDst 1 dense d s
  else
    let coded := fun (p : Word) => rangeFault .coded 1 (copyPad b * copyBlocks b) p s
    if bit b 2 then (coded a).orElse fun _ => rangeFault .localOnly 32 (32 * copyBlocks b) d s
    else (rangeFault .localOnly 32 (32 * copyBlocks b) a s).orElse fun _ => coded d

/-- The LOCAL pointer of the side table. -/
def sidePtr (ctl : Word) : Word := BitVec.ofNat 64 (2 * 2 ^ 60 + copyErrt ctl)

/-- Step 3 of R169. -/
def mapFault (kind : Nat) (a b : Word) (s : State) : Option (BitVec 6 × Word) :=
  if kind = 1 then
    (rangeFault .localOnly 16 16 a s).orElse fun _ =>
      (rangeFault .localOnly 16 (16 + 16 * (fld (mapWord a 8 s) 0 5).toNat) a s).orElse fun _ =>
        if mapBad a s then some (0x07, a) else if mapAskew (readMap a s) then some (0x03, a) else none
  else if kind = 2 && !bit b 2 then rangeFault .localOnly 1 (copyBlocks b) (sidePtr b) s
  else none

/-- The destination lies in BARRIER space (step 1 of R169). -/
def barrierDest (kind : Nat) (d a b : Word) (s : State) : Bool :=
  if kind = 1 && bit b 0 then (rangeFault .localOnly 16 16 a s).isNone && ptrSpace (mapWord a 0 s) = 6 else ptrSpace d = 6

/-- Every check of R169, in its order. -/
def copyFault (kind : Nat) (d a b : Word) (s : State) : Option (BitVec 6 × Word) :=
  if barrierDest kind d a b s then some (0x08, d)
  else if ctlBad kind b s then some (0x07, b)
  else (mapFault kind a b s).orElse fun _ => endsFault kind d a b s

/-- The target cycle of a stamp; none where timed mode takes late copy (R165). -/
def copyTarget (t : W32) (s : State) : Option Nat :=
  let dl := stampDelta (s.stamp t) s.gcyc
  if 1 ≤ dl && dl < 2 ^ 31 && (s.str.timed || t ≠ 0) then some (s.gcyc + dl)
  else if s.str.timed then none else some (s.gcyc + 1)

/-- The checks at issue. Where a stamp has passed and the buffer is full, the late copy trap comes first (R164, R165; log entry 34, DESIGN
CHOICE). -/
def copyCheck (kind : Nat) (f : En) (s : State) : Option Stop :=
  if acquireWaits 0 s then some .wait else
  match copyFault kind (s.rs f.d) (s.rs f.a) (s.rs f.b) s with
  | some (c, v) => some (.trap c v)
  | none =>
    if (copyTarget f.stamp s).isNone then some (.trap 0x18 (f.stamp.setWidth 64))
    else if 32 ≤ s.core.eng.copyBuf.length then some .hold else none

/-! ## Acceptance (R164, R165, R171) -/

/-- Insert by target cycle, after those of the same cycle. -/
def insCopy (c : CopyCmd) : List CopyCmd → List CopyCmd
  | [] => [c]
  | d :: ds => if c.target < d.target then c :: d :: ds else d :: insCopy c ds

/-- The bytes two ranges share. -/
def rangeMeet (a n b m : Nat) : Option (Nat × Nat) :=
  if max a b < min (a + n) (b + m) then some (max a b, min (a + n) (b + m)) else none

/-- Lowest place and length of an endpoint. -/
def endRange (kind : Nat) (box : Bool) (at' : Nat) (len : Nat) (m : TensorMap) : Nat × Nat :=
  if kind = 1 && box then
    if boxCount m.dims = 0 then (at', 0) else (((at' : Int) + boxLow m.dims).toNat, (boxHigh m.dims - boxLow m.dims + m.esz).toNat)
  else (at', len)

/-- The command as the buffer takes it. -/
def makeCopy (kind : Nat) (f : En) (s : State) : CopyCmd :=
  let b := s.rs f.b
  let e := copyEnds kind (s.rs f.d) (s.rs f.a) b s
  let m := e.2.2
  let copies := if ptrSpace e.2.1 = 4 then members (ptrClu e.2.1) s else [0]
  let dense := boxCount m.dims * m.esz
  let len := fun (src : Bool) =>
    if kind = 0 then (fld b 0 32).toNat else if kind = 1 then dense
    else if src = bit b 2 then copyPad b * copyBlocks b else 32 * copyBlocks b
  let sr := endRange kind (!bit b 0) (placeOf e.1 s) (len true) m
  let dr := endRange kind (bit b 0) (placeOf e.2.1 s) (len false) m
  let same := (ptrSpace e.1 = 0) = (ptrSpace e.2.1 = 0) && ptrSpace e.2.1 ≠ 5
  { id := s.nextId, kind := kind, src := e.1, dst := e.2.1, srcAt := placeOf e.1 s, dstAt := placeOf e.2.1 s, copies := copies
    vf := s.vfOf, ctl := b, map := m.dims, esz := m.esz
    beats := if kind = 0 then (len true + 127) / 128 else if kind = 1 then boxBeats m.dims m.esz else copyBlocks b
    spec := kSpec f.k s, stamp := f.stamp, pc := s.str.pc, second := s.core.second, timed := s.str.timed
    target := (copyTarget f.stamp s).getD 0, start := 0, busy := 0, read := 0, readAt := 0, wrote := 0, wroteAt := 0, buf := [], head := []
    part := 0
    ovl := if same then copies.findSome? fun c => rangeMeet sr.1 sr.2 (c + dr.1) dr.2 else none
    old := [], bad := [], halted := none, hold := false, atWrite := false, walk := none, stopped := false, hurt := false }

def copyEff (kind : Nat) (f : En) (s : State) : State :=
  let c := makeCopy kind f s
  addDue c.target 4 (8 * s.core.idx + 4) (.copyStart s.core.idx)
    ({ s with nextId := s.nextId + 1 }.mapEng fun e => { e with copyBuf := insCopy c e.copyBuf })

def issueCopy (kind : Nat) (h : Hdr) (f : En) (s : State) : Out :=
  issue h true (useS f.d :: useS f.a :: useS f.b :: kUses f.k) noNeed (copyCheck kind f) (fun s => plain (copyEff kind f s)) s

def execCopy (h : Hdr) (f : En) (s : State) : Out := issueCopy 0 h f s
def execCopyt (h : Hdr) (f : En) (s : State) : Out := issueCopy 1 h f s
def execCopyk (h : Hdr) (f : En) (s : State) : Out := issueCopy 2 h f s

/-! ## Start (R166, R167) -/

/-- Latencies of an endpoint that lies on the package (R168), and when the source is read (R303). -/
def copyLsrc (sp : Nat) : Nat := if sp = 2 then 6 else if sp = 3 then 14 else 24
def copyLdst (sp : Nat) : Nat := if sp = 2 then 1 else if sp = 3 then 6 else if sp = 1 then 12 else 9
def copyReads (sp : Nat) : Nat := if sp = 2 then 1 else if sp = 3 then 6 else 11

def mapCopy (id : Nat) (f : CopyCmd → CopyCmd) (s : State) : State :=
  s.mapEng fun e => { e with copyRun := e.copyRun.map fun c => if c.id = id then f c else c }
def State.copyRun (s : State) (id : Nat) : Option CopyCmd := s.core.eng.copyRun.find? fun c => c.id = id

/-- A record of a command, of the context that issued it. -/
def cmdRec (c : CopyCmd) (code : Nat) (val : Word) (retry : Bool) (rid : BitVec 16) (s : State) : Rec :=
  let r := mkRec s code c.pc 1 2 val retry rid
  { r with w3 := BitVec.ofNat 64 (s.core.idx + c.vf * 2 ^ 10 + (if c.second then 2 ^ 14 else 0)) }
def copyReport (c : CopyCmd) (code : Nat) (val : Word) (s : State) : State := raiseRec (cmdRec c code val false 0 s) s

/-- The next read of a GLOBAL source is not fixed (R303). -/
def copyDelay (glob : Bool) (s : State) : Nat × State :=
  if glob then let d := draw s; (Config.tierDelay d.1, d.2) else (0, s)

/-- The command starts in this cycle. A box with no element takes one cycle of the engine and completes at the end of it, as a COPY of no bytes
does (R172, R175; log entry 34, DESIGN CHOICE). -/
def beginCopy (c : CopyCmd) (s : State) : State :=
  let k := s.core.idx
  let s := if c.timed && c.target < s.gcyc then copyReport c 0x18 (c.stamp.setWidth 64) s else s
  let glob := ptrSpace c.src = 0
  let d := copyDelay glob s
  let s := d.2
  let busy := s.gcyc + max 1 c.beats
  let first := s.gcyc + (if glob then 1 + d.1 else copyReads (ptrSpace c.src))
  let c := { c with start := s.gcyc, busy := busy, readAt := first, wroteAt := s.gcyc }
  let s := s.mapEng fun e => { e with copyRun := e.copyRun ++ [c] }
  let s := addDue busy 4 (8 * k + 4) (.copyStart k) s
  if c.beats = 0 then addDue s.gcyc 9 k (.copyComplete k c.id) s else addDue first 1 k (.copyBeat k c.id) s

/-- The first command of the buffer starts, waits for its tokens, or is discarded for want of them (R166, R167). It gives up its entry of the 32
as it starts: one that runs or has halted holds none (R164; log entry 34, DESIGN CHOICE). One that is late and lacks its
tokens is recorded for the tokens alone, and the next command is looked at in the next cycle (log entry 34, DESIGN CHOICE). One whose entry
holds a parity error stops as it is taken from there, with no byte moved (R397; log entry 24, DEDUCED). -/
def copyBegin (s : State) : State :=
  let k := s.core.idx
  match s.core.eng.copyBuf with
  | [] => s
  | c :: cs =>
    if s.gcyc < c.target || !copyFree s then s
    else if agentHolds 2 s.core then addDue (s.gcyc + 1) 4 (8 * k + 4) (.copyStart k) s
    else
      let toks := (s.ctxNum c.second).tokens
      if c.hurt then
        copyReport c 0x13 c.src (addDue (s.gcyc + 1) 4 (8 * k + 4) (.copyStart k)
          (addDue s.gcyc 9 k (.groupEnd k) (s.mapEng fun e => { e with copyBuf := cs })))
      else if tokensThere toks (specPops c.spec) then
        beginCopy c ((takeSpec c.spec c.second s).mapEng fun e => { e with copyBuf := cs })
      else
        let s := addDue (s.gcyc + 1) 4 (8 * k + 4) (.copyStart k) s
        if c.timed then
          copyReport c 0x09 (BitVec.ofNat 64 (missingToken toks (specPops c.spec)))
            (addDue s.gcyc 9 k (.groupEnd k) (s.mapEng fun e => { e with copyBuf := cs }))
        else s

def execCopyStart (k : Nat) (s : State) : Out := onCore k copyBegin s

/-! ## Translation and what stops a command (R170) -/

/-- Translate n bytes: the runs up to the first page that fails, and that failure. -/
def copyXlate (c : CopyCmd) (write : Bool) (va n : Nat) (s : State) :
    List (Nat × Nat × Word) × Option (BitVec 6 × Nat × Nat × Nat) × State :=
  let r : Rights := ⟨!write, write, some (c.kind = 2), c.timed, match c.map with | d :: _ => decide (d.1 < 0) | [] => false⟩
  let whole := xlateRun .x r c.vf (n / 65536 + 2) va n s
  match whole with
  | (.ok rs, s) => (rs, none, s)
  | (.bad code w b z, s) =>
    match xlateRun .x r c.vf (n / 65536 + 2) va (w - va) s with
    | (.ok rs, s) => (rs, some (code, w, b, z), s)
    | (_, s) => ([], some (code, w, b, z), s)

/-- The command stops: a terminal record; what it has read is still written, up to beat `upto`. -/
def stopCopy (id code : Nat) (val : Word) (upto : Nat) (s : State) : State :=
  match s.copyRun id with
  | none => s
  | some c =>
    let s := copyReport c code val s
    let s := mapCopy id (fun c => { c with
      beats := upto, stopped := true, halted := none, read := upto, buf := c.buf.filter fun b => b.beat < upto }) s
    if upto ≤ c.wrote then addDue s.gcyc 9 s.core.idx (.copyComplete s.core.idx id) s else s

/-- A page is not present in free mode: a retryable record unless one is outstanding for the region; the command halts. In a
trap's shadow, from t to u − 1, the record attaches to the frame, and the walk result is held once four have (R351). -/
def haltCopy (c : CopyCmd) (wr : Bool) (va base size : Nat) (s : State) : State :=
  let x := s.ctxNum c.second
  let wait := fun (rid : BitVec 16) (s : State) => mapCopy c.id (fun c => { c with halted := some rid, hold := true, atWrite := wr }) s
  match x.waits.find? fun w => w.base ≤ va && va < w.base + w.size with
  | some w => wait w.rid s
  | none =>
    let shadow := x.inHandler s.gcyc && x.frame.isSome
    if shadow && decide (4 ≤ (x.frame.map fun f => f.pfr.length).getD 0) then
      addDue (s.gcyc + 1) 1 s.core.idx (.copyBeat s.core.idx c.id)
        (mapCopy c.id (fun c => { c with hold := true, walk := some (wr, va, base, size) }) s)
    else
      let rid := x.rid
      let r := cmdRec c 0x06 (BitVec.ofNat 64 va) true rid s
      let r := if shadow then { r with w1 := r.w1 ||| BitVec.ofNat 64 (2 ^ 47) } else r
      let s := s.mapCtxNum c.second fun x => { x with rid := x.rid + 1, waits := x.waits ++ [⟨rid, base, size, some c.id, none⟩] }
      wait rid (raiseRec r (if shadow then attachPfr c.second r s else s))

/-! ## Reading a beat (R303, R171, R185, R397) -/

/-- A unit of 256 bytes fails: through its tag, or with an uncorrectable word in it. -/
def unitFault (raw : Word) (glob : Bool) (u : Nat) (s : State) : Option Nat :=
  if glob && (match viewRead raw s (256 * u) 256 with | .error _ => true | .ok _ => false) then some 0x12
  else if s.badAt (256 * u) 256 then some 0x13
  else none

/-- Read one run of a beat: its bytes, none in a unit that failed. Each failed unit is recorded once, with the pointer of its
first byte within the command's range. -/
def readCopyRun (id : Nat) (glob : Bool) (run : Nat × Nat × Word) (ptr : Word) (s : State) : List (Option Byte) × State :=
  let s := countBytes false run.1 run.2.1 (noteSoft run.1 run.2.1 ptr s)
  let s := (unitsOf run.1 run.2.1).foldl (fun (s : State) u =>
    match s.copyRun id with
    | none => s
    | some c =>
      if c.bad.contains u then s else
      match unitFault run.2.2 glob u s with
      | none => s
      | some code =>
        let at' := offsetPtr ptr ((max (256 * u) run.1 - run.1 : Nat) : Int)
        mapCopy id (fun c => { c with bad := c.bad ++ [u] }) (copyReport c code at' (noteUnit code u at' s))) s
  let bad := ((s.copyRun id).map fun c => c.bad).getD []
  ((List.range run.2.1).map fun j =>
    let a := run.1 + j
    if bad.contains (a / 256) then none
    else if glob then viewByte run.2.2 s a
    else some (memRead s.mem a), s)

/-- Read runs one after another, the pointer going on with them. -/
def readCopyRuns (id : Nat) (glob : Bool) : List (Nat × Nat × Word) → Word → State → List (Option Byte) × State
  | [], _, s => ([], s)
  | r :: rs, p, s =>
    let x := readCopyRun id glob r p s
    let y := readCopyRuns id glob rs (offsetPtr p r.2.1) x.2
    (x.1 ++ y.1, y.2)

/-- A source byte that this command has overwritten is what it was (R171). -/
def restoreOld (c : CopyCmd) (at' : Nat) (bs : List (Option Byte)) : List (Option Byte) :=
  if c.old.isEmpty then bs
  else bs.zipIdx.map fun x => match c.old.find? fun o => o.1 = at' + x.2 with | some o => some o.2 | none => x.1

/-- What a beat writes, from what it read: COPYK codes a block, and a block with a failed byte is not written. -/
def beatData (c : CopyCmd) (bs : List (Option Byte)) : List (Option Byte) :=
  if c.kind ≠ 2 then bs
  else
    let n := if copyDir c then 32 else copyPad c.ctl + 1
    if bs.all Option.isSome && !bs.isEmpty then
      let xs := bs.filterMap id
      if copyDir c then (leBytes 32 (packNat 16 (decodeBlock (copyMw c.ctl) xs))).map some
      else
        let e := encodeBlock (copyMw c.ctl) ((List.range 16).map fun i => leNat ((xs.drop (2 * i)).take 2))
        (e.1 ++ List.replicate (copyPad c.ctl - e.1.length) 0 ++ [e.2]).map some
    else List.replicate n none

/-- The cycle in which a beat read now is written, where both ends lie on the package; otherwise a free one after it (R168). -/
def writeCycle (c : CopyCmd) (s : State) : Nat × State :=
  let ss := ptrSpace c.src
  let ds := ptrSpace c.dst
  let extra := if c.kind = 2 then 4 else 0
  let dst := if ds = 0 || ds = 5 then 0 else copyLdst ds
  let src := if ss = 0 then 0 else copyLsrc ss - copyReads ss
  if ss = 0 || ds = 0 || ds = 5 then
    let d := draw s
    (max (c.wroteAt + 1) (s.gcyc + src + dst + extra + Config.tierDelay d.1), d.2)
  else (s.gcyc + src + dst + extra, s)

/-- The rank of a beat's write. -/
def beatRank (c : CopyCmd) : Nat := if ptrSpace c.dst = 5 then 4 else 7

/-- A beat has been read: it will be written, and the next is read. -/
def takeBeat (c : CopyCmd) (data : List (Option Byte)) (more : Bool) (s : State) : State :=
  let k := s.core.idx
  let w := writeCycle c s
  let d := copyDelay (ptrSpace c.src = 0 && more) w.2
  let next := s.gcyc + 1 + d.1
  let s := mapCopy c.id (fun c => { c with
    head := [], read := c.read + 1, readAt := next, wroteAt := w.1, buf := c.buf ++ [⟨c.read, w.1, data⟩] }) d.2
  let s := addDue w.1 (beatRank c) (2 * k + 1) (.copyBeat k c.id) s
  if more then addDue next 1 k (.copyBeat k c.id) s else s

/-- The command stops in a read: the bytes before the failing page are still written. -/
def cutBeat (c : CopyCmd) (bs : List (Option Byte)) (code va : Nat) (s : State) : State :=
  if bs.isEmpty || c.kind = 2 then stopCopy c.id code (BitVec.ofNat 64 va) c.read s
  else stopCopy c.id code (BitVec.ofNat 64 va) (c.read + 1) (takeBeat c bs false s)

/-- Read beat c.read. -/
def readBeat (c : CopyCmd) (s : State) : State :=
  let sp := beatSpan c c.read
  let at' := ((c.srcAt : Int) + sp.1).toNat
  let ptr := offsetPtr c.src sp.1
  let more := decide (c.read + 1 < c.beats)
  if ptrSpace c.src ≠ 0 then
    let r := readCopyRuns c.id false [(at', sp.2.1, 0)] ptr s
    takeBeat c (beatData c (restoreOld c at' r.1)) more r.2
  else
    let had := c.head.length
    let x := copyXlate c false (at' + had) (sp.2.1 - had) s
    let r := readCopyRuns c.id true x.1 (offsetPtr ptr had) x.2.2
    let bs := c.head ++ restoreOld c (at' + had) r.1
    match x.2.1 with
    | none => takeBeat c (beatData c bs) more r.2
    | some (code, va, b, z) =>
      if code = 0x06 && !c.timed then haltCopy c false va b z (mapCopy c.id (fun c => { c with head := bs }) r.2)
      else cutBeat c bs code.toNat va r.2

/-! ## Writing a beat (R168, R171, R324, R325) -/

/-- Maximal runs of bytes that are there, with their positions. -/
def someRuns : Nat → List (Option Byte) → List (Nat × List Byte)
  | _, [] => []
  | i, none :: bs => someRuns (i + 1) bs
  | i, some b :: bs =>
    match someRuns (i + 1) bs with
    | (j, xs) :: rs => if j = i + 1 then (i, b :: xs) :: rs else (i, [b]) :: (j, xs) :: rs
    | [] => [(i, [b])]

/-- Destination bytes in the overlap take free values, and what they held is kept for the command's own later reads (R171). -/
def overlapBytes (c : CopyCmd) (at' : Nat) (held : Nat → Byte) (bs : List (Option Byte)) (s : State) :
    List (Option Byte) × State :=
  match c.ovl with
  | none => (bs, s)
  | some (lo, hi) =>
    let within := fun (i : Nat) => lo ≤ at' + i && at' + i < hi
    if !(List.range bs.length).any within then (bs, s)
    else
      let d := draw s
      let new := (List.range bs.length).filter fun i => within i && !c.old.any fun o => o.1 = at' + i
      (bs.zipIdx.map fun x => if within x.2 && x.1.isSome then some (Config.freeByte d.1 x.2) else x.1,
        mapCopy c.id (fun c => { c with old := c.old ++ new.map fun i => (at' + i, held i) }) d.2)

/-- Write bytes into a memory of the package. -/
def pokeSome (at' : Nat) (bs : List (Option Byte)) (s : State) : State :=
  (someRuns 0 bs).foldl (fun s r => s.poke (at' + r.1) r.2) s

/-- Write a beat to LOCAL, PEER, CLUSTER or every member of an MCAST destination that it fits. -/
def writeLocal (c : CopyCmd) (off : Int) (bs : List (Option Byte)) (s : State) : State :=
  c.copies.foldl (fun s m =>
    let at' := m + ((c.dstAt : Int) + off).toNat
    if ptrSpace c.dst = 4
        && localSize (s.coreAt ((m - 2 ^ 40) / 2 ^ 21)).partw < ((c.dstAt : Int) + off).toNat + bs.length then s
    else
      let x := overlapBytes c at' (fun i => memRead s.mem (at' + i)) bs s
      pokeSome at' x.1 x.2) s

/-- The bytes of a GLOBAL destination by translated runs. -/
def globalRuns (c : CopyCmd) : List (Nat × Nat × Word) → Nat → List (Option Byte) → State → List Run × State
  | [], _, _, s => ([], s)
  | (pa, n, raw) :: rs, va, bs, s =>
    let x := overlapBytes c va (fun i => (viewByte raw s (pa + i)).getD 0) (bs.take n) s
    let y := globalRuns c rs (va + n) (bs.drop n) x.2
    ((someRuns 0 x.1).map (fun r => (raw, pa + r.1, r.2)) ++ y.1, y.2)

/-- Write translated runs of a GLOBAL destination, through the core's write-combining buffer where the page asks (R186). -/
def writeGlobal (c : CopyCmd) (rs : List (Nat × Nat × Word)) (va : Nat) (bs : List (Option Byte)) (s : State) : State :=
  let x := globalRuns c rs va bs s
  viewWrite ⟨none, some c.id, c.pc, c.second⟩ x.1 x.2

/-- The beat has been written; the last one completes the command. -/
def beatWritten (id : Nat) (s : State) : State :=
  let s := count 0x09 1 (mapCopy id (fun c => { c with wrote := c.wrote + 1, buf := c.buf.drop 1, part := 0 }) s)
  match s.copyRun id with
  | some c => if c.wrote = c.beats then addDue s.gcyc 9 s.core.idx (.copyComplete s.core.idx id) s else s
  | none => s

/-- The side table's byte of a COPYK encode, and the beat's own bytes. -/
def sideByte (c : CopyCmd) (b : CopyBeat) : List (Option Byte) × Option Byte :=
  if c.kind = 2 && !copyDir c then (b.data.take (copyPad c.ctl), b.data.getD (copyPad c.ctl) none) else (b.data, none)

/-- Beats that were due and have waited are written one a cycle from the next on (R166, R325). -/
def spaced (c : CopyCmd) (s : State) : State :=
  let buf := c.buf.zipIdx.map fun x => { x.1 with due := max x.1.due (s.gcyc + 1 + x.2) }
  let last := (buf.getLast?.map fun b => b.due).getD 0
  buf.foldl (fun s b => addDue b.due (beatRank c) (2 * s.core.idx + 1) (.copyBeat s.core.idx c.id) s)
    (mapCopy c.id (fun c => { c with buf := buf, wroteAt := max c.wroteAt last }) s)

/-- The posts of strand A already admitted to a window, but for those of the step that begins in the next cycle (R324, R325; log entry
34, DESIGN CHOICE). -/
def postsBefore (w : Nat) (s : State) : Nat × Nat := postsAhead w (fun p => !nextIsBoundary s || decide (p ≤ s.gcyc)) s

/-- A beat that would complete a unit with bytes of strand A, while bytes of older stores still wait in other entries, waits: the cycle of a
GLOBAL write is open, and stores become visible in order (R168, R301, R304). -/
def beatPasses (rs : List (Nat × Nat × Word)) (s : State) : Bool :=
  let us := byUnit ((rs.filter fun r => combines r.2.2).map fun r => (r.2.2, r.1, List.replicate r.2.1 0))
  us.any fun u =>
    s.core.eng.wc.any fun e =>
      e.hasA && e.unit = u.2.1 && pteView e.pte = pteView u.1 && 256 ≤ (mergeBytes e.bytes u.2.2).length
        && s.core.eng.wc.any fun o => o.hasA && o.unit ≠ e.unit && decide (o.first.getD 0 < e.first.getD 0)

/-- The oldest entries, with bytes of stores alone, that must leave the buffer for a beat to find room: they are written back in the strand
stores' place of the next cycle, and the beat waits for it (R168, R186, R192). -/
def beatNeeds (rs : List (Nat × Nat × Word)) (s : State) : List WcEntry :=
  let us := (rs.filter fun r => combines r.2.2).flatMap fun r => unitsOf r.1 r.2.1
  let new := us.eraseDups.filter fun u => !s.core.eng.wc.any fun e => e.unit = u
  if new.isEmpty then [] else (s.core.eng.wc.take (s.core.eng.wc.length + new.length - 31)).filter fun e => e.cmds.isEmpty

/-- Entries are written back in the next cycle. -/
def wcSoon (es : List WcEntry) (s : State) : State :=
  es.foldl (fun s e => wcDue (s.gcyc + 1) e.unit
    (s.mapEng fun g => { g with wc := g.wc.map fun x => if x.unit = e.unit then { x with due := s.gcyc + 1 } else x })) s

/-- Write the beat at the head of what has been read. A REMOTE beat looks for room in the window's queue first, and at the allowance then
(R325; log entry 34, DESIGN CHOICE). -/
def writeBeat (c : CopyCmd) (b : CopyBeat) (s : State) : State :=
  let k := s.core.idx
  let sp := beatSpan c b.beat
  let side := sideByte c b
  let s' := match side.2 with
    | some e => s.poke (poolAddr k (copyErrt c.ctl + b.beat)) [e]
    | none => s
  match ptrSpace c.dst with
  | 5 =>
    let w := ptrWin c.dst
    let off := ((c.dstAt : Int) + sp.2.2.1).toNat
    let parts := someRuns 0 b.data
    let cost := parts.foldl (fun m r => m + postCharge r.2.length) 0
    if !windowHolds w parts.length s then
      if c.timed then stopCopy c.id 0x0D (c.stamp.setWidth 64) c.wrote s else spaced c s
    else if (s.window w).left < cost + (postsBefore w s).2 then stopCopy c.id 0x15 0 c.wrote s
    else beatWritten c.id (parts.foldl (fun s r => postWrite 1 w (off + r.1) r.2 s) s)
  | 0 =>
    let va := ((c.dstAt : Int) + sp.2.2.1).toNat + c.part
    let x := copyXlate c true va (sp.2.2.2 - c.part) s
    if beatPasses x.1 s then spaced c s
    else if beatNeeds x.1 s ≠ [] then spaced c (wcSoon (beatNeeds x.1 s) s)
    else match x.2.1 with
    | none => beatWritten c.id (writeGlobal c x.1 va (side.1.drop c.part) (match side.2 with
        | some e => x.2.2.poke (poolAddr k (copyErrt c.ctl + b.beat)) [e]
        | none => x.2.2))
    | some (code, fail, base, size) =>
      let t := writeGlobal c x.1 va (side.1.drop c.part) x.2.2
      if code = 0x06 && !c.timed then
        haltCopy c true fail base size (mapCopy c.id (fun c => { c with part := c.part + (fail - va) }) t)
      else stopCopy c.id code.toNat (BitVec.ofNat 64 fail) c.wrote t
  | _ => beatWritten c.id (writeLocal c sp.2.2.1 side.1 s')

/-- The beats that are due are written, in ascending order. -/
def writeBeats (id : Nat) : Nat → State → State
  | 0, s => s
  | n + 1, s =>
    match s.copyRun id with
    | none => s
    | some c =>
      match c.buf with
      | [] => s
      | b :: _ =>
        if s.gcyc < b.due || c.halted.isSome || c.walk.isSome then s
        else
          let t := writeBeat c b s
          if (t.copyRun id).map (fun d => d.wrote) = some (c.wrote + 1) then writeBeats id n t else t

/-- A walk result that the command holds: it halts there once the context is out of its handler (R351). -/
def heldWalk (c : CopyCmd) (w : Bool × Nat × Nat × Nat) (s : State) : State :=
  if (s.ctxNum c.second).inHandler s.gcyc then addDue (s.gcyc + 1) 1 s.core.idx (.copyBeat s.core.idx c.id) s
  else haltCopy c w.1 w.2.1 w.2.2.1 w.2.2.2 (mapCopy c.id (fun c => { c with walk := none }) s)

/-- A beat of the command in this cycle: the read that is due, or else the writes. -/
def copyStep (id : Nat) (s : State) : State :=
  match s.copyRun id with
  | none => s
  | some c =>
    if c.halted.isSome then s
    else match c.walk with
    | some w => heldWalk c w s
    | none =>
    if c.read < c.beats && c.readAt ≤ s.gcyc then readBeat c s
    else writeBeats id c.buf.length s

def execCopyBeat (k id : Nat) (s : State) : Out := onCore k (copyStep id) s

/-! ## The write-combining buffer's write-backs (R186) -/

/-- A beat of the core's copy engine writes to the unit in this cycle and is still to come. -/
def beatAhead (unit : Nat) (s : State) : Bool :=
  s.core.eng.copyRun.any fun c => ptrSpace c.dst = 0 && c.halted.isNone && match c.buf with
    | b :: _ => b.due ≤ s.gcyc &&
      (copyXlate c true (((c.dstAt : Int) + (beatSpan c b.beat).2.2.1).toNat + c.part) ((beatSpan c b.beat).2.2.2 - c.part) s).1.any fun r =>
        (unitsOf r.1 r.2.1).contains unit
    | [] => false

/-- A write-combining entry has waited WCWAIT (R186). One that holds bytes of a copy, or that a beat of this cycle may still complete, is
written behind its core's beats, as they are (R171, R192; log entry 34, DESIGN CHOICE). -/
def wcStep (unit : Nat) (late : Bool) (s : State) : State :=
  match s.core.eng.wc.find? fun e => e.unit = unit && e.due ≤ s.gcyc with
  | some e =>
    if !late && (!e.cmds.isEmpty || beatAhead unit s) then
      addDue s.gcyc 7 (2 * s.core.idx + 2) (.wcWrite s.core.idx unit true) s
    else addDue s.gcyc 9 s.core.idx (.groupEnd s.core.idx) (wcFlush e (dropWc (fun x => x.unit = unit) s))
  | none => s

def execWcReadModifyWrite (k unit : Nat) (s : State) : Out := onCore k (wcStep unit true) s

/-! ## Completion (R168, R173, R177) and resuming (R357) -/

/-- Bytes of the command wait in the write-combining buffer: they have not performed (R301). -/
def stillCombining (id : Nat) (s : State) : Bool := s.core.eng.wc.any fun e => e.cmds.contains id

/-- The command is over: the token and the arrival at the end of the cycle, unless it stopped or a unit failed. It is not over while
bytes of it are still to perform (R168). -/
def copyDone (id : Nat) (s : State) : State :=
  match s.copyRun id with
  | none => s
  | some c =>
    if c.wrote < c.beats then s else
    let k := s.core.idx
    if stillCombining id s then addDue (s.gcyc + 1) 9 k (.copyComplete k id) s else
    let good := !c.stopped && c.bad.isEmpty
    let s := s.mapEng fun e => { e with copyRun := e.copyRun.filter fun d => d.id ≠ id }
    let s := addDue (s.gcyc + 1) 4 (8 * k + 4) (.copyStart k) (addDue s.gcyc 9 k (.groupEnd k) s)
    if !good then s else
    let s := enginePush 4 c.spec c.pc c.second s
    match (if c.kind = 2 then none else copyArrival c.ctl s) with
    | some key => stage (.arrive k c.second 4 key (fld c.ctl 54 9 |>.setWidth 64) c.pc) s
    | none => s

def execCopyComplete (k id : Nat) (s : State) : Out := onCore k (copyDone id) s

/-- A reply resumes the command at its page in the next cycle. -/
def resumeCopy (id : Nat) (s : State) : State :=
  let k := s.core.idx
  match s.copyRun id with
  | none => s
  | some c =>
    let s := mapCopy id (fun c => { c with halted := none, readAt := max c.readAt (s.gcyc + 1) }) s
    spaced c (if c.read < c.beats then addDue (max c.readAt (s.gcyc + 1)) 1 k (.copyBeat k id) s else s)

/-- A reply stops the command at the page on which it has halted. -/
def failCopy (id : Nat) (s : State) : State :=
  match s.copyRun id with
  | none => s
  | some c =>
    if c.atWrite then
      stopCopy id 0x06 (BitVec.ofNat 64 (((c.dstAt : Int) + (beatSpan c c.wrote).2.2.1).toNat + c.part)) c.wrote s
    else
      let va := ((c.srcAt : Int) + (beatSpan c c.read).1).toNat + c.head.length
      let t := cutBeat c c.head 0x06 va (mapCopy id (fun c => { c with halted := none }) s)
      match t.copyRun id with | some c => spaced c t | none => t

end Sys2Proof.Machine
end

