-- ==== Sys2Proof/Machine/Stream.lean ====
section
/-!
DEFINITION. Machine/Stream.lean: the weight stream: its header and timetable, STRM.CHK, STRM.OPEN, STRM.STAT, STRM.CLOSE, OLOAD.S,
the drains of the chisel and their faults (R141 to R162).
-/
namespace Sys2Proof.Machine

/-! ## Header, timetable and walk (R141 to R151) -/

/-- The little-endian number of n bytes at offset o. -/
def field (bs : List Byte) (o n : Nat) : Nat := leNat ((bs.drop o).take n)

/-- Timetable entry k. -/
def ttEntry (tt : List Byte) (k : Nat) : TtEntry :=
  let w := BitVec.ofNat 64 (field tt (8 * k) 8)
  ⟨bit w 58, (fld w 56 2).toNat, 32 * (fld w 44 12).toNat, (fld w 0 32).toNat⟩

/-- The reserved fields of entry k are zero, and its kind and size lie in range (R150). A DRAIN of 2^31 or more, which R142 does not admit and
R150 does not check, passes (log entry 34, DESIGN CHOICE). -/
def ttOk (tt : List Byte) (k : Nat) : Bool :=
  let w := BitVec.ofNat 64 (field tt (8 * k) 8)
  fld w 59 5 = 0 && fld w 32 12 = 0 && fld w 56 2 ≠ 3 && 1 ≤ (fld w 44 12).toNat && (fld w 44 12).toNat ≤ 2048

/-- A(t) (R147). -/
def arrived (rate total t : Nat) : Nat := min total (rate * t / 16)

/-- A result word (R151). A value that does not fit its 24 bits is taken mod 2^24, and VAL is 0 with the codes for which
R151 states none (log entry 34, DESIGN CHOICE). -/
def strmWord (code blk val : Nat) : Word :=
  BitVec.ofNat 64 ((if code = 0 then 0 else 2 ^ 63) + blk % 65536 * 2 ^ 32 + val % 2 ^ 24 * 2 ^ 8 + code)

/-- MAGIC and VERSION hold. -/
def strmMagic (h : List Byte) : Bool := field h 0 4 = 0x44545242 && field h 4 2 = 1
def strmBlocks (h : List Byte) : Nat := field h 6 2

/-- The least offset c, from lo on, at whose end the bytes credited exceed x. -/
def crossing (rate x lo : Nat) : Nat := max lo ((16 * (x + 1) + rate - 1) / rate - 1)

/-- The walk over the blocks from k on (R150): the result word, or none where every block passes, with the peak and its block. -/
def walkBlocks (h tt : List Byte) : Nat → Nat → Nat → Nat → Nat → Nat → Except Word (Nat × Nat)
  | 0, _, _, peak, pk, _ => .ok (peak, pk)
  | n + 1, k, cum, peak, pk, prev =>
    let e := ttEntry tt k
    let rate := field h 8 4
    let total := field h 20 4
    if !ttOk tt k then .error (strmWord 0x04 k 0)
    else if (k = 0 && e.drain ≠ field h 12 4) || (k ≠ 0 && e.drain < prev + 32) then .error (strmWord 0x05 k 0)
    else
      let a := arrived rate total e.drain
      if a < cum + e.size then .error (strmWord 0x06 k (cum + e.size - a))
      else
        let f := a - cum
        if field h 16 4 < f then .error (strmWord 0x07 k (crossing rate (field h 16 4 + cum) (if k = 0 then 0 else prev)))
        else walkBlocks h tt n (k + 1) (cum + e.size) (max peak f) (if peak < f then k else pk) e.drain

/-- The walk of R150 over a header and its timetable; sb is the granules of the stream buffer. -/
def strmWalk (h tt : List Byte) (sb : Nat) : Word :=
  let n := strmBlocks h
  let sizes := (List.range n).foldl (fun m k => m + (ttEntry tt k).size) 0
  if !strmMagic h then strmWord 0x01 0xFFFF 0
  else if (crc32c (h.take 60 ++ tt)).toNat ≠ field h 60 4 then strmWord 0x02 0xFFFF 0
  else if n < 1 || 4096 < n || field h 8 4 < 1 || 4096 < field h 8 4 || field h 16 4 % 32 ≠ 0 || field h 16 4 < 32
      || 262144 < field h 16 4 || field h 24 36 ≠ 0 || field h 20 4 ≠ sizes then strmWord 0x03 0xFFFF 0
  else match walkBlocks h tt n 0 0 0 0 0 with
    | .error w => w
    | .ok (peak, pk) => if 16384 * sb < field h 16 4 then strmWord 0x08 0xFFFF 0 else strmWord 0x00 pk peak

/-! ## Opening (R153) -/

/-- Bytes from the header to the first block (R143). -/
def strmP (n : Nat) : Nat := (64 + 8 * n + 31) / 32 * 32

/-- The pages of an extent, or the first address whose page fails (R151 PAGES). -/
def strmPages (vf : Nat) : Nat → Nat → Nat → State → Except Nat (List Pte) × State
  | 0, _, _, s => (.ok [], s)
  | n + 1, va, last, s =>
    if last < va then (.ok [], s) else
    if 2 ^ 48 ≤ va then (.error va, s) else
    match lookup .x vf va s with
    | .found p =>
      let s := touchTlb .x vf p false s
      if (permit s vf true false none true p.raw).isSome then (.error va, s)
      else
        match strmPages vf n (p.base + p.size) last s with
        | (.ok ps, s) => (.ok (p :: ps), s)
        | r => r
    | _ => (.error va, s)

/-- The first block with bytes at or behind an offset from the header, where a page that fails begins; 0xFFFF for the header's own page. -/
def strmBlockAt (tt : List Byte) (n off : Nat) : Nat :=
  if off = 0 then 0xFFFF
  else ((List.range n).find? fun k => decide (off < strmP n + (List.range (k + 1)).foldl (fun m j => m + (ttEntry tt j).size) 0)).getD 0xFFFF

/-- The cycle at whose end the fullness first exceeds B, if nothing more is drained (R158). -/
def overAt (x : Stream) : Option Nat :=
  if x.total ≤ x.bcap + x.gone then none else some (x.start + crossing x.rate (x.bcap + x.gone) 0)

/-- A block drains at its offset or later: 32 cycles behind the drain before it, and behind the issue of its OLOAD.S (R156, R158). -/
def drainAfter (x : Stream) (last : Option Nat) (e : TtEntry) (early : Nat) : Nat :=
  max (max (x.start + e.drain) (match last with | some d => d + 32 | none => 0)) early

/-- The cycle in which the next block drains, where it is known (R156, R158). -/
def drainDue (x : Stream) (olds : List OloadS) : Option Nat :=
  match x.tt[x.next]? with
  | none => none
  | some e =>
    if x.failed then none
    else if e.discard then some (drainAfter x x.lastD e 0)
    else (olds.find? fun o => o.block = x.next && o.ends.isNone).map fun o => drainAfter x x.lastD e o.early

/-- The cycle in which block k drains, where an OLOAD.S has been accepted for every block up to it that is not discarded (R156, R158). -/
def drainOf (x : Stream) (olds : List OloadS) (k : Nat) : Option Nat :=
  (List.range (k + 1 - x.next)).foldl (fun last j =>
    match x.tt[x.next + j]? with
    | some e => some (drainAfter x last e (((olds.find? fun o => o.block = x.next + j && o.ends.isNone).map fun o => o.early).getD 0))
    | none => last) x.lastD

/-- Schedule the next drain and the next overflow. -/
def strmPlan (s : State) : State :=
  match s.core.eng.stream with
  | none => s
  | some x =>
    let s := match drainDue x s.core.eng.olds with | some c => addDue (max c s.gcyc) 1 s.core.idx (.drain s.core.idx) s | none => s
    match overAt x with
    | some c => addDue (max c s.gcyc) 9 s.core.idx (.streamOver s.core.idx) s
    | none => s

/-- The steps of STRM.OPEN, in the cycle in which its reads are over: the result word and what it leaves (R153). -/
def strmOpen (h tt : List Byte) (va t pc : Nat) (s : State) : Word × State :=
  let w := strmWalk h tt (partSB s.core.partw)
  let n := strmBlocks h
  let rate := field h 8 4
  let total := field h 20 4
  let last := va + strmP n + total - 1
  if bit w 63 then (w, s)
  else if s.core.eng.stream.isSome then (strmWord 0x09 0xFFFF 0, s)
  else match strmPages s.vfOf ((last - va) / 65536 + 2) va last s with
    | (.error a, s) => (strmWord 0x0C (strmBlockAt tt n (a - va)) 0, s)
    | (.ok ps, s) =>
      if 65536 < s.charge + rate then (strmWord 0x0A 0xFFFF 0, s)
      else if t ≤ s.gcyc then (strmWord 0x0B 0xFFFF 1, s)
      else
        let handle := BitVec.ofNat 64 (1 + 256 * (s.core.eng.serial % 2 ^ 24))
        let x : Stream :=
          { handle := handle, hva := va, start := t, rate := rate, bcap := field h 16 4, total := total
            tt := (List.range n).map (ttEntry tt), pages := ps, next := 0, gone := 0, lastD := none, taken := 0, charged := true
            failed := false, overrun := false, integ := false, corr := false, late := false, lates := [], pc := pc, vf := s.vfOf, second := s.core.second }
        let s := { s with charge := s.charge + rate }.mapEng fun e => { e with stream := some x, serial := e.serial + 1 }
        let s := addDue t 1 s.core.idx (.streamStart s.core.idx) s
        (handle, strmPlan (addDue (t + (16 * total + rate - 1) / rate) 1 s.core.idx (.reservationEnd s.core.idx) s))

/-! ## STRM.CHK and STRM.OPEN (R152, R153) -/

/-- The reads as one access of strand A. -/
def strmReq (openIt : Bool) (stamp : W32) (d : BitVec 5) (p : Word) (n : Nat) : Req :=
  { plainReq (.streamRead openIt stamp) (.load false) 64 n p [] (some (.scalar, d)) with merge := false }

/-- The pointer checks of R152. -/
def strmPtr (p : Word) (s : State) : Option (BitVec 6) :=
  match stepFault (.load false) 64 64 s.str.timed p s with
  | some (n, c) => if n < 4 then some c else if ptrSpace p ≠ 0 then some 0x07 else some c
  | none => if ptrSpace p ≠ 0 then some 0x07 else none

/-- The header as it stands, where it can be read. -/
def strmPeek (a : Access) (s : State) : Option (List Byte) :=
  match (xlateAccess a s).1 with
  | .ok rs => rs.foldr (fun r rest => match rest, viewRead r.2.2 s r.1 r.2.1 with
    | some bs, .ok x => some (x ++ bs)
    | _, _ => none) (some [])
  | _ => none

/-- The faults of the header's read, and of the timetable's where the header leads to it; TVAL is s_a for both (log entry 34, DESIGN CHOICE). -/
def strmReadCheck (q : Req) (s : State) : Option Stop :=
  match accessCheck q s with
  | some x => some x
  | none =>
    match strmPeek (q.access s) s with
    | none => none
    | some h =>
      if strmMagic h && strmBlocks h ≠ 0 then
        match accessCheck { q with ptrs := [lea q.first 64], align := 8, len := 8 * strmBlocks h } s with
        | some (.trap c _) => some (.trap c q.first)
        | x => x
      else none

def strmChkCheck (f : R2) (s : State) : Option Stop :=
  if acquireWaits 0 s then some .wait else
  match strmPtr (s.rs f.a) s with
  | some c => some (.trap c (s.rs f.a))
  | none => strmReadCheck (strmReq false 0 f.d (s.rs f.a) 64) s

def execStrmChk (h : Hdr) (f : R2) (s : State) : Out :=
  issue h false [useS f.a f.la] oneLatch (strmChkCheck f)
    (fun s => plain (accessEff (strmReq false 0 f.d (s.rs f.a) 64) s)) s

/-- A stamp has passed at issue. -/
def stampPassed (t : W32) (s : State) : Bool := let d := stampDelta t s.gcyc; d = 0 || 2 ^ 31 ≤ d

def strmOpenCheck (f : R2T) (s : State) : Option Stop :=
  if acquireWaits 0 s then some .wait else
  match strmPtr (s.rs f.a) s with
  | some c => some (.trap c (s.rs f.a))
  | none => if stampPassed (s.stamp f.stamp) s then none else strmReadCheck (strmReq true (s.stamp f.stamp) f.d (s.rs f.a) 64) s

/-- STRM.OPEN reads its start stamp with the slip added (R153, R402). -/
def execStrmOpen (h : Hdr) (f : R2T) (s : State) : Out :=
  issue h true [useS f.a f.la] (if stampPassed (s.stamp f.stamp) s then noNeed else oneLatch) (strmOpenCheck f)
    (fun s => plain (if stampPassed (s.stamp f.stamp) s then putS f.d (strmWord 0x0B 0xFFFF 0) s
      else accessEff (strmReq true (s.stamp f.stamp) f.d (s.rs f.a) 64) s)) s

/-- The access is over: its result lands in this cycle. -/
def landNow (a : Access) (v : Word) (s : State) : State :=
  addDue s.gcyc 8 s.core.idx (.resultLanding s.core.idx)
    (mapFlight a.id (fun f => { f with lands := some s.gcyc }) (setValue a.id (v.setWidth 4096) (markDone a.id s)))

/-- Header and timetable have been read. -/
def strmFinish (a : Access) (openIt : Bool) (stamp : W32) (h tt : List Byte) (s : State) : State :=
  if openIt then
    let r := strmOpen h tt (ptrOff a.ptr) (a.issued + stampDelta stamp a.issued) a.pc s
    landNow a r.1 r.2
  else landNow a (strmWalk h tt (partSB s.core.partw)) s

/-- The reads perform: first the header; where its MAGIC and VERSION hold, then the timetable (R152). -/
def performStream (a : Access) (openIt : Bool) (stamp : W32) (s : State) : State :=
  match loadFault a s, loadBytes a s with
  | some c, _ => failRead c a s
  | none, none => failRead 0x12 a s
  | none, some bs =>
    let s := noteReads a s
    if !a.data.isEmpty then strmFinish a openIt stamp a.data bs s
    else if strmMagic bs && strmBlocks bs ≠ 0 then
      let again := mapAccess a.id (fun a => { a with
        data := bs, va := [(ptrOff a.ptr + 64, 8 * strmBlocks bs)], pieces := [], ptes := [], p := none }) s
      let d := draw again
      addDue (s.gcyc + 1 + Config.walkDelay d.1) 4 (8 * s.core.idx + 1) (.translationWalk s.core.idx a.id) d.2
    else strmFinish a openIt stamp bs [] s

/-! ## STRM.STAT and STRM.CLOSE (R154, R155) -/

/-- NEXT and the bytes drained at the start of the cycle, before its drain (R162). -/
def strmBefore (x : Stream) (c : Nat) : Nat × Nat :=
  if x.lastD = some c then (x.next - 1, x.gone - ((x.tt[x.next - 1]?).map fun e => e.size).getD 0) else (x.next, x.gone)

def strmStatus (x : Stream) (c : Nat) : Word :=
  let b := strmBefore x c
  let st := if x.failed then 4 else if b.1 = x.tt.length then 3 else if c < x.start then 1 else 2
  let full := if x.failed || c < x.start then 0 else arrived x.rate x.total (c - x.start) - b.2
  BitVec.ofNat 64 (st * 2 ^ 60 + (if x.overrun then 2 ^ 59 else 0) + (if x.integ then 2 ^ 58 else 0) + (if x.corr then 2 ^ 57 else 0)
    + (if x.late then 2 ^ 56 else 0) + b.1 * 2 ^ 32 + full % 2 ^ 32)

def strmStat (h : Word) (s : State) : Word :=
  match s.core.eng.stream with
  | some x => if x.handle = h then strmStatus x s.gcyc else BitVec.ofNat 64 (2 ^ 63)
  | none => BitVec.ofNat 64 (2 ^ 63)

/-- STRM and mailbox instructions wait for every acquire (R306). -/
def acquireCheck (s : State) : Option Stop := if acquireWaits 0 s then some .wait else none

def execStrmStat (h : Hdr) (f : R2) (s : State) : Out :=
  issue h false [useS f.a f.la] noNeed acquireCheck (fun s => plain (putS f.d (strmStat (s.rs f.a) s) s)) s

/-- The charge to the package's account is released (R147). -/
def strmRelease (s : State) : State :=
  match s.core.eng.stream with
  | some x =>
    if x.charged then
      { s with charge := s.charge - x.rate }.mapEng fun e => { e with stream := some { x with charged := false } }
    else s
  | none => s

/-- Poison a slot; the rest of its record stays, as an OLOAD.S accepted in the cycle leaves it. -/
def poisonSlot (x : Nat) (code : BitVec 6) (s : State) : State :=
  let mine := fun (u : Staged) => match u with | .slotRec k y _ _ => k = s.core.idx && y = x | _ => false
  let r := (s.staged.filter mine).foldl (fun (r : SlotRec) u => match u with
    | .slotRec _ _ ready tag => { r with ready := ready, tag := tag }
    | _ => r) (s.slot x)
  { s with staged := s.staged.filter fun u => !mine u }.setSlot x { r with poison := some code }

/-- Every OLOAD.S of the open stream that has not completed completes at its stamp + 32, poisoned (R155, R158). The slot is poisoned at once;
one that has drained and not completed is pending too; a stamp + 32 that has passed completes at once; and one that the failure of its
stream has poisoned takes the close's code (log entry 34, DESIGN CHOICE). -/
def strmPoison (code : BitVec 6) (s : State) : State :=
  (s.core.eng.olds.filter fun o => !o.closed).foldl (fun (s : State) o =>
    let c := max s.gcyc (o.due + 32)
    let s := s.mapEng fun e => { e with olds := e.olds.map fun p => if p.id = o.id then { p with ends := some c } else p }
    addDue c 9 s.core.idx (.oloadSComplete s.core.idx o.id) (poisonSlot o.x code s)) s

/-- Close the open stream (R155). -/
def closeStream (s : State) : State :=
  if s.core.eng.stream.isSome then
    (strmPoison 0x0F (strmRelease s)).mapEng fun e => { e with stream := none, olds := e.olds.map fun o => { o with closed := true } }
  else s

def execStrmClose (h : Hdr) (f : R1) (s : State) : Out :=
  issue h false [useS f.a f.la] noNeed acquireCheck
    (fun s => plain (match s.core.eng.stream with
      | some x => if x.handle = s.rs f.a then closeStream s else s
      | none => s)) s

/-! ## OLOAD.S (R156) -/

/-- The block that the next OLOAD.S of a stream names: the next one the chisel does not discard. -/
def strmNext (x : Stream) : Option Nat :=
  ((List.range x.tt.length).filter fun k => (x.tt[k]?).any fun e => !e.discard)[x.taken]?

/-- The tokens left to the chisel: it pops behind the copy engine and the array half (R176). -/
def chiselTokens (s : State) : Vector Nat 16 := (tileStart (copyBegin s)).ctx.tokens

/-- The stamp's cycle: T + d of the block. -/
def blockCycle (x : Stream) (k : Nat) : Nat := x.start + ((x.tt[k]?).map fun e => e.drain).getD 0

/-- The checks of R156. The chisel holds an accepted OLOAD.S until it completes (log entry 34, DESIGN CHOICE). -/
def oloadSCheck (f : Ms) (s : State) : Option Stop :=
  match s.core.eng.stream with
  | none => some (.trap 0x07 (s.rs f.g))
  | some x =>
    if x.handle ≠ s.rs f.g then some (.trap 0x07 (s.rs f.g))
    else if !s.claims f.x.toNat then some (.trap 0x19 0)
    else match strmNext x with
      | none => some (.trap 0x0D (f.stamp.setWidth 64))
      | some k =>
        if f.stamp ≠ BitVec.ofNat 32 (blockCycle x k) then some (.trap 0x0D (f.stamp.setWidth 64))
        else if s.str.timed && stampPassed f.stamp s then some (.trap 0x0C (f.stamp.setWidth 64))
        else if 8 ≤ s.core.eng.olds.length then
          (if s.str.timed then some (.trap 0x0D (f.stamp.setWidth 64)) else some .hold)
        else popsHold (kSpec f.k s) (chiselTokens s) s

/-- OLOAD.S is accepted: the slot's record changes at the end of the cycle (R265). -/
def oloadSEff (f : Ms) (s : State) : State :=
  match s.core.eng.stream with
  | none => s
  | some x =>
    let k := (strmNext x).getD 0
    let due := blockCycle x k
    let id := s.nextId
    let o : OloadS :=
      { id := id, x := f.x.toNat, block := k, due := due, early := s.gcyc + 1, spec := kSpec f.k s, pc := s.str.pc
        second := s.core.second, ends := none, popped := false, closed := false }
    let s := { s with nextId := id + 1 }.mapEng fun e => { e with olds := e.olds ++ [o], stream := some { x with taken := x.taken + 1 } }
    let s := addDue s.gcyc 4 (8 * s.core.idx + 6) (.oloadSComplete s.core.idx id) s
    if x.failed then
      let c := max s.gcyc (due + 32)
      let s := s.mapEng fun e => { e with olds := e.olds.map fun p => if p.id = id then { p with ends := some c } else p }
      addDue c 9 s.core.idx (.oloadSComplete s.core.idx id) (poisonSlot f.x.toNat 0x10 s)
    else
      let at' := (drainOf x s.core.eng.olds k).getD (max due o.early)
      strmPlan (stage (.slotRec s.core.idx f.x.toNat (at' + 32) (BitVec.ofNat 16 k)) s)

def execOloadS (h : Hdr) (f : Ms) (s : State) : Out :=
  issue h true (useS f.g :: kUses f.k) noNeed (oloadSCheck f) (fun s => plain (oloadSEff f s)) s

/-- In the cycle of its issue OLOAD.S pops its tokens; when it completes its token is pushed. -/
def oloadSDone (id : Nat) (s : State) : State :=
  match s.core.eng.olds.find? fun o => o.id = id with
  | none => s
  | some o =>
    if !o.popped then
      takeSpec o.spec o.second (s.mapEng fun e => { e with olds := e.olds.map fun p => if p.id = id then { p with popped := true } else p })
    else if !(o.ends.any fun c => decide (c ≤ s.gcyc)) then s
    else
    addDue s.gcyc 9 s.core.idx (.groupEnd s.core.idx)
      (enginePush 6 o.spec o.pc o.second (s.mapEng fun e => { e with olds := e.olds.filter fun p => p.id ≠ id }))

def execOloadSComplete (k id : Nat) (s : State) : Out := onCore k (oloadSDone id) s

/-! ## What the chisel decodes (R144 to R146, R159) -/

/-- The formats a kind admits. -/
def strmAdmits (kind fmt : Nat) : Bool :=
  [1, 10, 11, 12, 7, 13].contains fmt || (fmt = 8 && kind ≠ 1)

/-- The zero code of a format in a group with a block entry. -/
def zeroCode (fmt entry : Nat) : Nat :=
  if fmt = 10 || fmt = 11 then entry / 2 ^ 24 % 2 ^ typeWidth fmt
  else if fmt = 12 then 0x77 else if fmt = 13 then 0x008 else 0

/-- The codes of a group's elements: the next code where the mask has a bit. -/
def groupCodes (w mask fill : Nat) : Nat → Nat → Nat → List Nat
  | 0, _, _ => []
  | n + 1, j, codes =>
    if mask / 2 ^ j % 2 = 1 then codes % 2 ^ w :: groupCodes w mask fill n (j + 1) (codes / 2 ^ w)
    else fill :: groupCodes w mask fill n (j + 1) codes

def popBits (m : Nat) : Nat := ((List.range 32).filter fun j => m / 2 ^ j % 2 = 1).length

/-- The groups of a GROUP block, from payload bytes: tile bytes and block entries; none where they run past the end. -/
def strmGroups (fmt : Nat) : Nat → List Byte → Option (List Byte × List Byte)
  | 0, _ => some ([], [])
  | n + 1, bs =>
    let w := typeWidth fmt
    let entry := field bs 0 4
    let mask := field bs 4 4
    let size := (popBits mask * w + 7) / 8
    if bs.length < 8 + size then none
    else
      let codes := groupCodes w mask (zeroCode fmt entry) 32 0 (field bs 8 size)
      (strmGroups fmt n (bs.drop (8 + size))).map fun r => (leBytes (4 * w) (packNat w codes) ++ r.1, bs.take 4 ++ r.2)

/-- A slot's bytes from its tile and its block entries (R146). -/
def slotImage (fmt : Nat) (tile entries : List Byte) : List Byte :=
  if fmt = 8 then tile
  else tile ++ List.replicate (0x6000 - tile.length) 0 ++ entries ++ List.replicate 0x1800 0

/-- Decode block k; none where its header or its payload is bad, FILLB and ENTRY of a GROUP or RAW block included (log entry 34, DESIGN
CHOICE). -/
def decodeStream (k : Nat) (e : TtEntry) (bs : List Byte) : Option (List Byte) :=
  let fmt := field bs 3 1
  if (crc32c (bs.take 28)).toNat ≠ field bs 28 4 || field bs 0 2 ≠ k || field bs 2 1 ≠ e.kind || field bs 4 4 ≠ e.size
      || !strmAdmits e.kind fmt || field bs 9 3 ≠ 0 || field bs 16 12 ≠ 0
      || (e.kind ≠ 0 && (field bs 8 1 ≠ 0 || field bs 12 4 ≠ 0)) then none
  else
    let n := 2048 * typeWidth fmt
    let body := bs.drop 32
    match e.kind with
    | 0 => some (slotImage fmt (List.replicate n (bs.getD 8 0)) (List.replicate 512 ((bs.drop 12).take 4)).flatten)
    | 1 => (strmGroups fmt 512 body).map fun r => slotImage fmt r.1 r.2
    | _ =>
      if body.length < n + (if fmt = 8 then 0 else 2048) then none
      else some (slotImage fmt (body.take n) ((body.drop n).take 2048))

/-! ## Drains (R148, R157 to R160) -/

/-- Where n bytes of a stream lie, through the translations it keeps. -/
def strmRuns (ps : List Pte) : Nat → Nat → Nat → List (Nat × Nat × Word)
  | 0, _, _ => []
  | fuel + 1, va, n =>
    if n = 0 then [] else
    match ps.find? fun p => p.base ≤ va && va < p.base + p.size with
    | none => []
    | some p =>
      let k := min n (p.base + p.size - va)
      (pageRuns p.raw (k / 64 + 2) (va - p.base) k).map (fun x => (x.1, x.2, p.raw)) ++ strmRuns ps fuel (va + k) (n - k)

/-- The bytes of a block, or the code of the unit that taints it, with that unit (R160, R397). -/
def strmBytes (runs : List (Nat × Nat × Word)) (s : State) : Except (Nat × Nat) (List Byte) :=
  runs.foldr (fun r rest =>
    match rest with
    | .error c => .error c
    | .ok bs =>
      match (unitsOf r.1 r.2.1).findSome? fun u => (unitFault r.2.2 true u s).map fun c => (c, u) with
      | some c => .error c
      | none => match viewRead r.2.2 s r.1 r.2.1 with | .ok x => .ok (x ++ bs) | .error a => .error (0x12, a / 256)) (.ok [])

/-- Single-bit errors among the bytes of runs that hold a GLOBAL range from va on. -/
def noteRuns : List (Nat × Nat × Word) → Nat → State → State
  | [], _, s => s
  | r :: rs, va, s => noteRuns rs (va + r.2.1) (noteSoft r.1 r.2.1 (BitVec.ofNat 64 va) s)

/-- The VA of the first byte of a unit among those runs. -/
def runVa (u : Nat) : List (Nat × Nat × Word) → Nat → Nat
  | [], va => va
  | r :: rs, va => if (unitsOf r.1 r.2.1).contains u then va + (256 * u - r.1) else runVa u rs (va + r.2.1)

def mapStream (f : Stream → Stream) (s : State) : State := s.mapEng fun e => { e with stream := e.stream.map f }

/-- A stream record: VAL is the block index. -/
def strmReport (code k : Nat) (o : Option OloadS) (x : Stream) (s : State) : State :=
  match o with
  | some o => reportAs o.second code o.pc 3 3 (BitVec.ofNat 64 k) s
  | none => reportAs x.second code x.pc 1 3 (BitVec.ofNat 64 k) s

/-- A slot's bytes written whole. -/
def fillSlot (x : Nat) (bs : List Byte) (s : State) : State := s.poke (slotAddr s.arr.idx x) bs

/-- The chisel decodes a block that has arrived, into its slot where an OLOAD.S names one. Its bytes and their tags are read in the cycle
of the drain, or of a late block's decoding (log entry 34, DESIGN CHOICE). -/
def strmDecode (x : Stream) (k : Nat) (o : Option OloadS) (ready : Nat) (s : State) : State :=
  match x.tt[k]? with
  | none => s
  | some e =>
    let off := (x.tt.take k).foldl (fun m e => m + e.size) 0
    let va := x.hva + strmP x.tt.length + off
    let runs := strmRuns x.pages (e.size / 65536 + 2) va e.size
    let s := noteRuns runs va s
    let good := fun (bs : List Byte) (p : Option (BitVec 6)) (s : State) => match o with
      | some o => (fillSlot o.x bs s).setSlot o.x { s.slot o.x with ready := ready, tag := BitVec.ofNat 16 k, poison := p }
      | none => s
    match strmBytes runs s with
    | .error (c, u) =>
      let s := noteUnit c u (BitVec.ofNat 64 (runVa u runs va)) s
      mapStream (fun x => { x with integ := true }) (strmReport c k o x (good (List.replicate 32768 0) (some 0x12) s))
    | .ok bs =>
      match decodeStream k e bs with
      | some img => good img none s
      | none => mapStream (fun x => { x with corr := true }) (strmReport 0x11 k o x (good (List.replicate 32768 0) (some 0x11) s))

/-- The next block leaves the buffer at the start of its drain cycle. -/
def drainBlock (x : Stream) (s : State) : State :=
  let k := x.next
  match x.tt[k]? with
  | none => s
  | some e =>
    let idx := s.core.idx
    let o := s.core.eng.olds.find? fun o => o.block = k && o.ends.isNone
    let s := countAt 2 0 0x80 e.size (count 0x0A 1 s)
    let s := mapStream (fun x => { x with next := k + 1, gone := x.gone + e.size, lastD := some s.gcyc }) s
    let s := match o with
      | some o =>
        let s := s.mapEng fun g => { g with olds := g.olds.map fun p => if p.id = o.id then { p with ends := some (s.gcyc + 32) } else p }
        addDue (s.gcyc + 32) 9 idx (.oloadSComplete idx o.id) (spoilSlot o.x s)
      | none => s
    let d := draw s
    let a := arrived x.rate x.total (s.gcyc - x.start)
    let s := if a - Config.streamLag d.1 < x.gone + e.size then
        let d' := draw d.2
        let done := s.gcyc + 1 + Config.streamLag d'.1
        let s := mapStream (fun x => { x with late := true, lates := x.lates ++ [(k, done, o)] }) (strmReport 0x0F k o x d'.2)
        let s := match o with
          | some o => s.setSlot o.x { s.slot o.x with ready := s.gcyc + 32, tag := BitVec.ofNat 16 k, poison := some 0x0F }
          | none => s
        addDue done 9 idx (.streamLateDecode idx k) s
      else strmDecode x k o (s.gcyc + 32) d.2
    strmPlan s

/-- A drain is due; a chisel whose record waits for room in the buffer starts none (R355). -/
def drainStep (s : State) : State :=
  match s.core.eng.stream with
  | none => s
  | some x =>
    if !(drainDue x s.core.eng.olds).any fun c => decide (c ≤ s.gcyc) then s
    else if agentHolds 3 s.core then addDue (s.gcyc + 1) 1 s.core.idx (.drain s.core.idx) s
    else drainBlock x s

def execDrain (k : Nat) (s : State) : Out := onCore k drainStep s

/-- The last byte of a late block has arrived: it is decoded into its slot, whatever that holds by now (R157). -/
def lateDecode (k : Nat) (s : State) : State :=
  match s.core.eng.stream with
  | none => s
  | some x =>
    if x.failed then s
    else
      let mine := fun (l : Nat × Nat × Option OloadS) => l.1 = k && decide (l.2.1 ≤ s.gcyc)
      let s := mapStream (fun x => { x with lates := x.lates.filter fun l => !mine l }) s
      match x.lates.find? mine with
      | none => s
      | some (_, _, none) => strmDecode x k none (s.gcyc + 32) s
      | some (_, _, some o) => strmDecode x k (some o) (s.gcyc + 32) (spoilSlot o.x s)

def execStreamLateDecode (k blk : Nat) (s : State) : Out := onCore k (lateDecode blk) s

/-- The fullness exceeds B at the end of the cycle: the stream fails (R158). -/
def strmOverflow (s : State) : State :=
  match s.core.eng.stream with
  | none => s
  | some x =>
    if x.failed || s.gcyc + 1 < x.start || arrived x.rate x.total (s.gcyc + 1 - x.start) ≤ x.bcap + x.gone then s
    else
      let s := strmReport 0x10 x.next none x s
      strmPoison 0x10 (strmRelease (mapStream (fun x => { x with failed := true, overrun := true }) s))

def execStreamOver (k : Nat) (s : State) : Out := onCore k strmOverflow s

/-- The stream enters RUNNING, which its state shows from its start stamp on (R147, R154). -/
def execStreamStart (k : Nat) (s : State) : Out := onCore k strmPlan s

/-- A(t) has reached TOTAL: the reservation ends. -/
def reservationStep (s : State) : State :=
  match s.core.eng.stream with
  | some x => if arrived x.rate x.total (s.gcyc - x.start) = x.total then strmRelease s else s
  | none => s

def execReservationEnd (k : Nat) (s : State) : Out := onCore k reservationStep s

end Sys2Proof.Machine
end

