-- ==== Sys2Proof/Machine/Mailbox.lean ====
section
/-!
DEFINITION. Machine/Mailbox.lean: the step mailboxes: MBXS, MBXR and MBXQ on the cores' side (R209 to R212), and episodes, deliveries and
the watchdog on the maquette's side (R388 to R395).
-/
namespace Sys2Proof.Machine

/-! ## The cores' side -/

def mailboxOf (p : Word) : Nat := ptrOff p / 4096

/-- The mailbox of a checked pointer. -/
def mboxAt (p : Word) (s : State) : Mailbox := (s.mbox (mailboxOf p)).getD (.idle (mailboxOf p))

/-- The latency with which an instruction's result lands at the end of issue + 32 (R210; log entry 36, DEDUCED). -/
def mbxLatency : Nat := 33

/-- The checks of R210: the mailbox pointer, then the scratchpad pointer. The bound of the mailbox pointer is checked for the 4096 bytes of a
mailbox's page (R98, R108; log entry 34, DESIGN CHOICE). -/
def mbxCheck (p : Word) (buf : Option Word) (s : State) : Option Stop :=
  if acquireWaits 0 s then some .wait else
  match stepFault .mailbox 4096 4096 s.str.timed p s with
  | some (_, c) => some (.trap c p)
  | none =>
    match buf with
    | none => none
    | some q =>
      match stepFault .localOnly 64 512 s.str.timed q s with
      | some (_, c) => some (.trap c q)
      | none => none

/-- A status word (R210). -/
def mbxStatus (kind seq occ code : Nat) : Word := BitVec.ofNat 64 (kind * 2 ^ 32 + seq * 2 ^ 16 + occ * 2 ^ 8 + code)

/-- An access of a mailbox's side: it performs in the next cycle. -/
def mbxAccess (kind : AccKind) (p buf : Word) (s : State) : Access :=
  { id := s.nextId, kind := kind, ptr := p, va := [], pieces := [(placeOf buf s, 512)], copies := [0], data := [], was := []
    fwd := [], desc := false, nat := 1, lat := 32, rights := (true, false), p := some (s.gcyc + 1), issued := s.gcyc
    pc := s.str.pc, timed := s.str.timed, ptes := [], done := false, cancelled := false, rid := none, walk := none }

/-- What the access takes from pending stores, as a load of its bytes would (R193). Its read keeps its cycle and raises nothing over a pending
atomic (log entry 34, DESIGN CHOICE). -/
def mbxForward (a : Access) (s : State) : List (Nat × Byte) :=
  forwarded s (s.ctx.acc.filter (Access.pendingAt s.gcyc)) { a with kind := .load .vector, ptr := BitVec.ofNat 64 (2 * 2 ^ 60) }

/-- MBXS reads a bad word (R397). -/
def mbxsBad (p buf : Word) (s : State) : Bool :=
  let a := mbxAccess (.mbxSend (mailboxOf p)) p buf s
  (mboxAt p s).acts.length < 4 && (readFault false (mbxForward a s) (a.pieces.map fun x => (x.1, x.2, 0)) s).isSome

def mbxsCheck (f : R3) (s : State) : Option Stop :=
  match mbxCheck (s.rs f.a) (some (s.rs f.b)) s with
  | some x => some x
  | none => if mbxsBad (s.rs f.a) (s.rs f.b) s then some (.trap 0x13 (s.rs f.b)) else none

/-- The access enters the unit. -/
def enterMbx (a : Access) (s : State) : State :=
  let a := { a with fwd := mbxForward a s }
  let s := { s with nextId := s.nextId + 1 }.mapCtx fun x => { x with acc := x.acc ++ [a] }
  addDue (s.gcyc + 1) 9 s.core.idx (.groupEnd s.core.idx)
    (addDue (s.gcyc + 1) 1 (2 * s.core.idx) (.accessPerform s.core.idx a.id) s)

def mbxsEff (f : R3) (s : State) : State :=
  let b := mboxAt (s.rs f.a) s
  if 4 ≤ b.acts.length then result mbxLatency f.d (mbxStatus 0 0 b.acts.length 1) s
  else
    let e : MbEntry := ⟨s.nextId, List.replicate 512 0, s.gcyc + 32, false⟩
    let a := mbxAccess (.mbxSend b.idx) (s.rs f.a) (s.rs f.b) s
    let s := addDue e.vis 1 b.idx (.actionDelivery b.idx) (s.setMbox { b with acts := b.acts ++ [e] })
    result mbxLatency f.d (mbxStatus 0 0 (b.acts.length + 1) 0) (enterMbx a s)

def execMbxs (h : Hdr) (f : R3) (s : State) : Out :=
  issue h false [useS f.a f.la, useS f.b f.lb] oneLatch (mbxsCheck f) (fun s => plain (mbxsEff f s)) s

/-- The header of an observation (R209). -/
def obsKind (e : MbEntry) : Nat := (e.bytes.getD 0 0).toNat
def obsSeq (e : MbEntry) : Nat := field e.bytes 4 2

/-- A pending system observation may find a free entry: it is appended at the end of the cycle (R393). -/
def wakeObs (m : Nat) (s : State) : State := stage (.obs m) s

/-- MBXR's LOCAL store performs at issue + 31 (R210, R212). -/
def mbxrEff (f : R3) (s : State) : State :=
  let b := mboxAt (s.rs f.a) s
  match b.obs with
  | [] => result mbxLatency f.d (mbxStatus 0 0 0 2) s
  | e :: es =>
    let s := wakeObs b.idx (s.setMbox { b with obs := es })
    let q := plainReq .store .store 64 512 (s.rs f.b) e.bytes none
    let id := s.nextId
    let a := { q.access s with nat := 31 }
    let s := { s with nextId := id + 1 }.mapCtx fun x => { x with acc := x.acc ++ [a] }
    let s := if s.ctx.auHalt then s else planAccess id s
    result mbxLatency f.d (mbxStatus (obsKind e) (obsSeq e) es.length 0) s

/-- Its store needs an entry of the store queue where an observation is there to be taken (R190); one that holds an error is not (R397). -/
def mbxrCheck (f : R3) (s : State) : Option Stop :=
  match mbxCheck (s.rs f.a) (some (s.rs f.b)) s with
  | some x => some x
  | none =>
    match (mboxAt (s.rs f.a) s).obs with
    | [] => none
    | e :: _ => if e.bad then some (.trap 0x13 (s.rs f.a)) else if 16 ≤ queueLength true s then some .hold else none

def execMbxr (h : Hdr) (f : R3) (s : State) : Out :=
  issue h false [useS f.a f.la, useS f.b f.lb] oneLatch (mbxrCheck f) (fun s => plain (mbxrEff f s)) s

/-- The state word of R211. -/
def mbxWord (b : Mailbox) : Word :=
  BitVec.ofNat 64 (b.pver.toNat * 2 ^ 48 + (if b.retire then 2 ^ 11 else 0) + b.epi % 8 * 2 ^ 8 + b.acts.length % 16 * 2 ^ 4
    + b.obs.length % 16)

def mbxqEff (f : R2) (s : State) : State :=
  let p := s.rs f.a
  let a := { mbxAccess (.mbxQuery (mailboxOf p)) p 0 s with pieces := [] }
  let s := flyFrom a.id .scalar [⟨f.d, 0, BitVec.allOnes 4096⟩] (some (s.gcyc + mbxLatency - 1)) false s
  enterMbx a s

def execMbxq (h : Hdr) (f : R2) (s : State) : Out :=
  issue h false [useS f.a f.la] oneLatch (fun s => mbxCheck (s.rs f.a) none s) (fun s => plain (mbxqEff f s)) s

/-- MBXS reads its bytes and fills its entry (R210); a word that has gone bad since the issue goes on as bad (R397; log entry 19, DEDUCED). -/
def performMbxSend (a : Access) (m : Nat) (s : State) : State :=
  let fault := loadFault a s
  let s := if fault.isSome then deferTrap ⟨0x13, a.ptr, .A, true⟩ s else s
  let bytes := (loadBytes a s).getD []
  let s := noteReads a (markDone a.id s)
  match s.mbox m with
  | none => s
  | some b =>
    s.setMbox { b with acts := b.acts.map fun e => if e.id = a.id then { e with bytes := bytes, bad := fault.isSome } else e }

/-- MBXQ's state at issue + 1. -/
def performMbxQuery (a : Access) (m : Nat) (s : State) : State :=
  setValue a.id ((mbxWord ((s.mbox m).getD (mboxAt a.ptr s))).setWidth 4096) (markDone a.id s)

/-! ## The maquette's side (R388 to R393) -/

/-- A mailbox that exists (R108). -/
def State.mailbox (s : State) (m : Nat) : Mailbox := (s.mbox m).getD (.idle m)
def onMailbox (m : Nat) (f : Mailbox → State → State) (s : State) : Out := onUnit (m < 1024) (fun s => f (s.mailbox m) s) s

/-- The head action may be delivered in the next cycle. -/
def wakeDelivery (m : Nat) (s : State) : State := addDue (s.gcyc + 1) 1 m (.actionDelivery m) s

/-- An observation entry: the header of R209, then bytes 8 to 511. -/
def obsEntry (pver seq : BitVec 16) (len kind : Nat) (body : List Byte) : List Byte :=
  leBytes 8 (pver.toNat * 2 ^ 48 + seq.toNat * 2 ^ 32 + len * 2 ^ 16 + kind) ++ body

/-- A pending system observation is appended where the queue has a free entry; its bytes after the header are free (R393). -/
def appendSys (b : Mailbox) (s : State) : State :=
  match b.sys with
  | none => s
  | some k =>
    if 4 ≤ b.obs.length then s
    else
      let d := draw s
      let e : MbEntry := ⟨0, obsEntry b.sysEver b.seq 0 k ((List.range 504).map fun i => Config.freeByte d.1 i), s.gcyc + 1, false⟩
      d.2.setMbox { b with obs := b.obs ++ [e], seq := b.seq + 1, sys := none }

def execSystemObservationAppend (m : Nat) (s : State) : Out := onMailbox m appendSys s

/-- An episode is terminated: the staging closes, the actions are dropped, and TIMEOUT becomes pending (R391, R393). -/
def terminate (b : Mailbox) : Mailbox :=
  { b with epi := 2, staging := false, timer := none, acts := [], ahead := false, sys := some 1, sysEver := b.ever }

/-- The divider of the clock of a hart's group; 1 where none is set (R383, R422; log entry 10, DESIGN CHOICE). -/
def State.hartDivider (s : State) (h : Nat) : Nat := ((s.hartDiv.find? fun x => x.1 = h / 16).map Prod.snd).getD 1

/-- The clock of a hart's group runs: its island is ON, as that of group 0, which also holds the service processor, still is in S2 (R421,
R422, R425, R426). -/
def hartRuns (h : Nat) (s : State) : Bool := s.svc.power < 2 || (s.svc.power = 2 && h < 16)

/-- Twelfths of a cycle of a hart's clock in one main-clock cycle: 1.88 GHz or a part of it against 940 MHz, or half of that under a
halving; none while the clock is stopped (R5, R322, R422). -/
def hartTwelfths (h : Nat) (s : State) : Nat := if hartRuns h s then (if s.svc.halved then 48 else 24) / s.hartDivider h else 0

/-- The step timer goes through one main-clock cycle: the hart cycles counted by its end, where the first one began within the cycle of
the delivery being free; the watchdog expires in the cycle in which the count reaches BUDGET (R391; log entry 32, DESIGN CHOICE). -/
def countStep (b : Mailbox) (s : State) : Option Mailbox :=
  b.timer.map fun t =>
    let u := t.1 + hartTwelfths b.hart s
    if b.budget ≠ 0 && b.budget ≤ (u + Config.hartPhase t.2 % 12) / 12 then { terminate b with wdog := true }
    else { b with timer := some (u, t.2) }

/-- The main-clock cycle passes for the step timer; `post` is what a system observation that becomes pending is handed to. -/
def watchdogBy (post : Mailbox → State → State) (b : Mailbox) (s : State) : State :=
  match countStep b s with
  | none => s
  | some c =>
    if c.timer.isNone then post c (s.setMbox c) else addDue (s.gcyc + 1) 0 b.idx (.watchdogExpiry b.idx) (s.setMbox c)

def watchdog (b : Mailbox) (s : State) : State := watchdogBy (fun c s => wakeObs c.idx s) b s

def execWatchdogExpiry (m : Nat) (s : State) : Out := onMailbox m watchdog s

/-- The step timer starts from 0 in this cycle, which it counts. -/
def startTimerBy (post : Mailbox → State → State) (b : Mailbox) (s : State) : State :=
  let d := draw s
  watchdogBy post { b with timer := some (0, d.1) } d.2

def startTimer (b : Mailbox) (s : State) : State := startTimerBy (fun c s => wakeObs c.idx s) b s

/-- PVER and RETIRE of a write to MBCTL (R389). -/
def ctlFields (v : Word) (b : Mailbox) : Mailbox := { b with pver := fld v 48 16, retire := bit v 15 }

/-- CMD START. -/
def ctlStart (b : Mailbox) (s : State) : State :=
  if b.epi = 1 then s.setMbox b
  else
    let b := { b with epi := 1, ever := b.pver, retire := false, staging := true }
    wakeDelivery b.idx (if b.ahead then startTimerBy appendSys b s else s.setMbox b)

/-- CMD END. -/
def ctlEnd (b : Mailbox) (s : State) : State :=
  s.setMbox (if b.epi = 0 then b else { b with epi := 0, staging := false, timer := none })

/-- CMD KILL. -/
def ctlKill (b : Mailbox) (s : State) : State := if b.epi = 1 then appendSys (terminate b) (s.setMbox (terminate b)) else s.setMbox b

/-- A write to MBCTL applies PVER, then RETIRE, then CMD, at the end of its cycle (R389). -/
def applyMbctl (m : Nat) (v : Word) (s : State) : State :=
  let b := ctlFields v (s.mailbox m)
  match (fld v 8 4).toNat with
  | 1 => ctlStart b s
  | 2 => ctlEnd b s
  | 3 => ctlKill b s
  | _ => s.setMbox b

/-- A write to MBCTL with the CMD given. -/
def writeMbctl (m : Nat) (v : Word) (cmd : Nat) (s : State) : Out :=
  onUnit (m < 1024) (stage (.mbctl m ((v &&& ~~~(0xF00 : Word)) ||| BitVec.ofNat 64 (cmd % 16 * 256)))) s

def execMbctlStart (m : Nat) (v : Word) (s : State) : Out := writeMbctl m v 1 s
def execMbctlEnd (m : Nat) (v : Word) (s : State) : Out := writeMbctl m v 2 s
def execMbctlKill (m : Nat) (v : Word) (s : State) : Out := writeMbctl m v 3 s

/-- The head action is delivered, or dropped where RETIRE is set (R390, R392). -/
def deliver (b : Mailbox) (s : State) : State :=
  match b.acts with
  | [] => s
  | e :: es =>
    if b.epi ≠ 1 || b.ahead || s.gcyc < e.vis then s
    else if b.retire then
      wakeObs b.idx (s.setMbox { b with acts := es, epi := 3, staging := false, sys := some 2, sysEver := b.ever, aev := true })
    else startTimer { b with ahead := true, aev := true } s

def execActionDelivery (m : Nat) (s : State) : Out := onMailbox m deliver s

def apop (b : Mailbox) (s : State) : State :=
  if b.ahead then wakeDelivery b.idx (s.setMbox { b with acts := b.acts.drop 1, ahead := false, lastr := 0 })
  else s.setMbox { b with lastr := 4 }

def execApop (m : Nat) (s : State) : Out := onMailbox m apop s

/-- The bytes of the action delivered, 0 while there is none (R390). -/
def actwin (b : Mailbox) : List Byte := if b.ahead then (b.acts.head?.map fun e => e.bytes).getD [] else List.replicate 512 0

def opush (v : Word) (b : Mailbox) (s : State) : State :=
  let len := (fld v 0 9).toNat
  if b.epi ≠ 1 || !b.staging then s.setMbox { b with lastr := 3 }
  else if 504 < len then s.setMbox { b with lastr := 2 }
  else if 4 ≤ b.obs.length || b.sys.isSome then s.setMbox { b with lastr := 1 }
  else
    let e : MbEntry := ⟨0, obsEntry b.ever b.seq len 0 (b.obswin.drop 8), s.gcyc + 1, false⟩
    s.setMbox { b with obs := b.obs ++ [e], seq := b.seq + 1, timer := none, lastr := 0 }

def execOpush (m : Nat) (v : Word) (s : State) : Out := onMailbox m (opush v) s

/-- MBSTAT (R390); an action counts from the cycle in which the harts see it (R210). -/
def mbstat (c : Nat) (b : Mailbox) : Word :=
  BitVec.ofNat 64 (b.ever.toNat * 2 ^ 48 + b.pver.toNat * 2 ^ 32 + b.lastr % 16 * 2 ^ 20 + (if b.ahead then 2 ^ 16 else 0)
    + (if b.retire then 2 ^ 15 else 0) + b.epi % 8 * 2 ^ 12 + (b.acts.filter fun e => decide (e.vis ≤ c)).length % 16 * 2 ^ 4
    + b.obs.length % 16)

/-- Hart h's pending interrupts 23 and 24 (R388). -/
def hartWdog (h : Nat) (s : State) : Bool := s.mboxes.any fun b => b.hart = h && b.wdog
def hartAev (h : Nat) (s : State) : Bool := s.mboxes.any fun b => b.hart = h && b.aev && b.aie

/-- RESET-VF clears a mailbox (R395). -/
def clearMailbox (b : Mailbox) : Mailbox :=
  { b with acts := [], obs := [], sys := none, seq := 0, staging := false, ahead := false, timer := none
           epi := if b.epi = 1 then 2 else b.epi, wdog := b.wdog || b.epi = 1 }

end Sys2Proof.Machine
end

