-- ==== Sys2Proof/Machine/Harts.lean ====
section
/-!
DEFINITION. Machine/Harts.lean: the accesses of the maquette's harts to the part (R384 to R388, R390). What a hart executes beside them is
RISC-V's own (log entry 30, DESIGN CHOICE); the order in which its accesses arrive is that in which it performs them.
-/
namespace Sys2Proof.Machine

/-- Hart h; its timer comparator is 0 at reset, so its interrupt is pending (log entry 10, DESIGN CHOICE). -/
def State.hart (s : State) (h : Nat) : Hart := (s.harts.find? fun x => x.idx = h).getD ⟨h, 0, 0, true, [], false, 0⟩
def State.setHart (s : State) (x : Hart) : State := { s with harts := x :: s.harts.filter fun y => y.idx ≠ x.idx }

/-! ## Time (R386) -/

/-- The machine timer interrupt is pending while GCYC has reached the comparator. -/
def hartTimer (h : Nat) (s : State) : State :=
  let x := s.hart h
  s.setHart { x with mtip := decide (x.timecmp.toNat ≤ s.gcyc) }

def execHartTimerInterrupt (h : Nat) (s : State) : Out := onUnit (h < 128) (hartTimer h) s

/-- The comparator takes a value. -/
def armHart (h : Nat) (v : Word) (s : State) : State :=
  let s := hartTimer h (s.setHart { s.hart h with timecmp := v })
  if s.gcyc < v.toNat then addDue v.toNat 0 h (.hartTimer h) s else s

/-- The hart's access has read these bytes, or has taken an access fault. -/
def hartGot (h : Nat) (r : Option (List Byte)) (s : State) : State :=
  match r with
  | some bs => s.setHart { s.hart h with got := bs, fault := false }
  | none => s.setHart { s.hart h with fault := true }

/-- A read of GCYC gives that of one of the four cycles before; which one is free, but no read goes back (R386; log entry 12,
DESIGN CHOICE). -/
def readTime (h : Nat) (s : State) : Nat × State :=
  let d := draw s
  let x := d.2.hart h
  let t := max x.seen (s.gcyc - 1 - Config.clockLag d.1 % 4)
  (t, d.2.setHart { x with seen := t })

def hartTime (h : Nat) (s : State) : State :=
  let t := readTime h s
  hartGot h (some (leBytes 8 t.1)) t.2

/-! ## The address map (R385) -/

/-- Where an access of a hart goes. -/
inductive HartPlace where
  | cached (pa : Nat)
  | uncached (pa : Nat)
  | data (m off : Nat)
  | control (m off : Nat)
  | gcyc (off : Nat)
  | timer (h off : Nat)
  deriving DecidableEq, Repr

/-- The regions; none where the access faults: it leaves them, or it is misaligned or atomic outside second tier. -/
def hartPlace (pa n : Nat) (excl : Bool) : Option HartPlace :=
  if pa + n ≤ 2 ^ 38 then some (.cached pa)
  else if 2 ^ 39 ≤ pa && pa + n ≤ 2 ^ 39 + 2 ^ 38 then some (.uncached (pa - 2 ^ 39))
  else if excl || n = 0 || pa % n ≠ 0 || pa < 2 ^ 38 then none
  else
    let o := pa - 2 ^ 38
    if o < 2 ^ 22 then some (.data (o / 4096) (o % 4096))
    else if o < 2 ^ 23 then some (.control ((o - 2 ^ 22) / 4096) (o % 4096))
    else if o < 2 ^ 23 + 8 then some (.gcyc (o - 2 ^ 23))
    else if 2 ^ 23 + 2 ^ 16 ≤ o && o < 2 ^ 23 + 2 ^ 16 + 1024 then some (.timer ((o - 2 ^ 23 - 2 ^ 16) / 8) (o % 8))
    else none

/-! ## Second tier under MQKEY (R384, R387) -/

/-- The page entry whose KEY and VF are those of MQKEY: the harts' view is linear and not coded. -/
def keyView (q : Word) : Word := BitVec.ofNat 64 ((fld q 0 8).toNat * 2 ^ 56 + (fld q 8 4).toNat * 2 ^ 52)

/-- The slot is plaintext, or one that the VF's partition owns and that holds a key. -/
def keyOwned (q : Word) (s : State) : Bool :=
  let k := s.keySlot (fld q 0 8).toNat
  fld q 0 8 = 0 || (k.vf = fld q 8 4 && k.valid)

/-- An event that an access of a hart meets: no core's, of the VF of its MQKEY, with no address in guest terms (R409 to R411). -/
def tierEvent (type unit : Nat) (q : Word) (a : Nat) (s : State) : State :=
  logEvent type unit 0x3FF (fld q 8 4).toNat 0 (BitVec.ofNat 64 a) 0 s

/-- Single-bit errors of second tier that a hart's read finds (R397). -/
def tierSoft (q : Word) (pa n : Nat) (s : State) : State :=
  (s.softAt pa n).foldl (fun s w => nextScrub w (tierEvent 1 5 q (8 * w) s)) s

/-- Bytes of second tier checked under a key slot: none where the access faults. A word that cannot be corrected faults too (R397; log
entry 35, DEDUCED). -/
def tierRead (q : Word) (pa n : Nat) (s : State) : Option (List Byte) × State :=
  if !keyOwned q s then (none, s)
  else
    match s.bad.find? (touchesWord pa n) with
    | some w => (none, tierEvent 2 5 q (8 * w) s)
    | none =>
      match ctlRead s [(pa, n, keyView q)] with
      | some bs => (some bs, tierSoft q pa n s)
      | none => (none, tierEvent 6 5 q pa s)

/-- Bytes of second tier sealed under a key slot; none where a partly written unit fails its tag. -/
def tierStore (q : Word) (pa : Nat) (bs : List Byte) (s : State) : Option State :=
  if !keyOwned q s then none
  else if pteKey (keyView q) ≠ 0 && (bs.length < 256 || pa % 256 ≠ 0)
    && ((List.range ((pa + bs.length + 255) / 256 - pa / 256)).any fun j => (unitRead (keyView q) (pa / 256 + j) s).isNone)
  then none
  else some (ctlWrite (keyView q) pa bs s)

/-- The line that holds an address under a key slot: the slot alone is its tag (R384). -/
def State.line? (s : State) (slot : BitVec 8) (l : Nat) : Option HartLine := s.lines.find? fun x => fld x.key 0 8 = slot && x.line = l
def State.setLine (s : State) (x : HartLine) : State :=
  { s with lines := x :: s.lines.filter fun y => !(fld y.key 0 8 = fld x.key 0 8 && y.line = x.line) }

/-- Bytes of a line (log entry 35, DESIGN CHOICE). -/
def lineBytes : Nat := 64

/-- A fill, where no cache of the maquette holds the line under this key slot; whether the line is there then. -/
def fillLine (h : Nat) (q : Word) (l : Nat) (s : State) : Bool × State :=
  if (s.line? (fld q 0 8) l).isSome then (true, s)
  else
    match tierRead q (lineBytes * l) lineBytes s with
    | (some bs, s) => (true, s.setLine ⟨q, l, bs, false, h, []⟩)
    | (none, s) => (false, s)

/-- A byte of a cached access: read, or written. A key slot that the hart's VF does not own faults, on a hit too (R387); a word of the line
that cannot be corrected faults a read (R397). -/
def cachedByte (h : Nat) (q : Word) (a : Nat) (new : Option Byte) (s : State) : Option Byte × State :=
  if !keyOwned q s then (none, s) else
  let s := (fillLine h q (a / lineBytes) s).2
  match s.line? (fld q 0 8) (a / lineBytes) with
  | none => (none, s)
  | some x =>
    let i := a % lineBytes
    match new with
    | none => if x.bad.contains (i / 8) then (none, tierEvent 2 8 q a s) else (some (x.bytes.getD i 0), s)
    | some b => (some b, s.setLine { x with bytes := x.bytes.take i ++ b :: x.bytes.drop (i + 1), dirty := true, hart := h })

/-- Bytes of a cached access, read or written in turn. -/
def cachedBytes (h : Nat) (q : Word) : Nat → List (Option Byte) → State → Option (List Byte) × State
  | _, [], s => (some [], s)
  | a, b :: bs, s =>
    match cachedByte h q a b s with
    | (none, s) => (none, s)
    | (some x, s) => let r := cachedBytes h q (a + 1) bs s; (r.1.map fun l => x :: l, r.2)

/-- Words of the lines that a write of n bytes covers whole are good again (R398). -/
def cleanLines (q : Word) (a n : Nat) (s : State) : State :=
  let clean := fun (x : HartLine) =>
    if fld x.key 0 8 = fld q 0 8 then
      { x with bad := x.bad.filter fun w => !(a ≤ lineBytes * x.line + 8 * w && lineBytes * x.line + 8 * w + 8 ≤ a + n) }
    else x
  { s with lines := s.lines.map clean }

/-- A cache writes a line back under its own key slot, or drops a clean one; a word that cannot be corrected goes with it as marked bad. A
write-back that fails drops the bytes, and the hart takes an access fault (R387). -/
def lineBack (slot : BitVec 8) (l : Nat) (s : State) : State :=
  match s.line? slot l with
  | none => s
  | some x =>
    let s := { s with lines := s.lines.filter fun y => !(fld y.key 0 8 = slot && y.line = l) }
    if !x.dirty then s
    else
      match tierStore x.key (lineBytes * l) x.bytes s with
      | some s => x.bad.foldl (fun s w => s.markBad (lineBytes * l + 8 * w) 8) s
      | none => hartGot x.hart none s

/-! ## The mailbox pages (R388, R390) -/

/-- A write to MBCFG takes HART and AIE, only while EPI = 0. -/
def writeMbcfg (v : Word) (b : Mailbox) : Mailbox := if b.epi = 0 then { b with hart := (fld v 8 7).toNat, aie := bit v 1 } else b

/-- A write to the control page: of 8 bytes, from machine or supervisor mode; MBCFG from machine mode alone. -/
def writeControl (mode m off : Nat) (bytes : List Byte) (s : State) : State :=
  let v := BitVec.ofNat 64 (leNat bytes)
  let b := s.mailbox m
  if bytes.length ≠ 8 || mode = 0 then s
  else match off with
  | 0x000 => if mode = 3 then s.setMbox (writeMbcfg v b) else s
  | 0x008 => stage (.mbctl m v) s
  | 0x010 => s.setMbox { b with budget := (fld v 0 40).toNat }
  | 0x018 => s.setMbox { b with wdog := b.wdog && !bit v 1, aev := b.aev && !bit v 0 }
  | _ => s

/-- The control page as it reads; CMD reads zero. -/
def controlBytes (b : Mailbox) : List Byte :=
  leBytes 8 ((if b.on then 1 else 0) + (if b.aie then 2 else 0) + b.hart % 128 * 256 + b.vf % 16 * 2 ^ 16)
    ++ leBytes 8 (b.pver.toNat * 2 ^ 48 + (if b.retire then 2 ^ 15 else 0)) ++ leBytes 8 (b.budget % 2 ^ 40)
    ++ leBytes 8 ((if b.wdog then 2 else 0) + if b.aev then 1 else 0)

/-- The data page as it reads; its write-only registers and what is reserved read zero. -/
def dataBytes (c : Nat) (b : Mailbox) : List Byte :=
  leBytes 8 (mbstat c b).toNat ++ List.replicate 1016 0 ++ actwin b ++ b.obswin

def pageRead (bs : List Byte) (off n : Nat) : List Byte := (List.range n).map fun j => bs.getD (off + j) 0

/-- Bytes written into OBSWIN. -/
def writeObs (off : Nat) (bs : List Byte) (b : Mailbox) : Mailbox :=
  { b with obswin := (b.obswin.take off ++ bs ++ b.obswin.drop (off + bs.length)).take 512 }

/-- A write to the data page: APOP and OPUSH take 8 bytes, OBSWIN any width; the rest ignores writes. -/
def writeData (m off : Nat) (bytes : List Byte) (s : State) : State :=
  let b := s.mailbox m
  if 0x600 ≤ off && off + bytes.length ≤ 0x800 then s.setMbox (writeObs (off - 0x600) bytes b)
  else if bytes.length ≠ 8 then s
  else if off = 8 then apop b s
  else if off = 16 then opush (BitVec.ofNat 64 (leNat bytes)) b s
  else s

/-! ## The accesses -/

/-- A hart reads the data page; one of an action that holds an error faults (R390, R396, R397; log entry 35, DEDUCED). -/
def readData (h m off n : Nat) (s : State) : State :=
  let b := s.mailbox m
  if b.ahead && decide (off < 0x600) && decide (0x400 < off + n) && b.acts.head?.any fun e => e.bad then
    hartGot h none (logEvent 2 7 0x3FF b.vf 0 (BitVec.ofNat 64 (4096 * m + off)) 0 s)
  else hartGot h (some (pageRead (dataBytes s.gcyc b) off n)) s

/-- A hart reads n bytes. -/
def hartLoad (h pa n : Nat) (excl : Bool) (s : State) : State :=
  let q := (s.hart h).mqkey
  match hartPlace pa n excl with
  | none => hartGot h none s
  | some (.cached a) =>
    let r := cachedBytes h q a (List.replicate n none) s
    hartGot h r.1 r.2
  | some (.uncached a) =>
    let r := tierRead q a n s
    hartGot h r.1 r.2
  | some (.data m off) => readData h m off n s
  | some (.control m off) => hartGot h (some (pageRead (controlBytes (s.mailbox m)) off n)) s
  | some (.gcyc off) =>
    let t := readTime h s
    hartGot h (some (pageRead (leBytes 8 t.1) off n)) t.2
  | some (.timer k off) => hartGot h (some (pageRead (leBytes 8 (s.hart k).timecmp.toNat) off n)) s

/-- A hart writes bytes. -/
def hartStore (h mode pa : Nat) (bytes : List Byte) (excl : Bool) (s : State) : State :=
  let q := (s.hart h).mqkey
  match hartPlace pa bytes.length excl with
  | none => hartGot h none s
  | some (.cached a) =>
    let r := cachedBytes h q a (bytes.map some) s
    hartGot h (r.1.map fun _ => []) (if r.1.isSome then cleanLines q a bytes.length r.2 else r.2)
  | some (.uncached a) =>
    match tierStore q a bytes s with
    | some s => hartGot h (some []) s
    | none => hartGot h none s
  | some (.data m off) => hartGot h (some []) (writeData m off bytes s)
  | some (.control m off) => hartGot h (some []) (writeControl mode m off bytes s)
  | some (.gcyc _) => hartGot h (some []) s
  | some (.timer k off) =>
    let old := leBytes 8 (s.hart k).timecmp.toNat
    hartGot h (some []) (armHart k (BitVec.ofNat 64 (leNat (old.take off ++ bytes ++ old.drop (off + bytes.length)))) s)

/-- A hart's AMO: it reads, and writes what the operation gives. -/
def hartAmo (h pa n : Nat) (op : AtomOp) (v : Word) (s : State) : State :=
  let s := hartLoad h pa n true s
  let x := s.hart h
  if x.fault then s
  else
    let s := hartStore h 3 pa (leBytes n ((atomNew (.atomic op n v) (leNat x.got)).getD 0)) true s
    if (s.hart h).fault then s else hartGot h (some x.got) s

end Sys2Proof.Machine
end

