-- ==== Sys2Proof/Machine/Traps.lean ====
section
/-!
DEFINITION. Machine/Traps.lean: results landing and accesses performing; the trap frame, the start of the handler, RETT, the replies to
page faults, CTXSW and the switch back (R64, R191, R340 to R346, R356 to R362).
-/
namespace Sys2Proof.Machine

/-! ## Results land (R64) -/

/-- A result's marks go into its register, whose words a pool's scrubber then finds (R397, R398). -/
def landMarks (kind : RegKind) (st : StrandId) (m : BitVec 64) (r : BitVec 5) (s : State) : State :=
  let s := markReg kind st m r s
  if kind = .vector then visitVector s.core.second (physV s.ctx.v.rotb r) m s else s

/-- The results of a strand that land in the cycle, in issue order. -/
def landStrand (st : StrandId) (s : State) : State :=
  let due := fun (f : Flight) => f.lands.any fun c => decide (c ≤ s.gcyc)
  let t := s.ctx.strand st
  let now := t.flights.filter fun f => due f && f.beaten ≠ some s.gcyc
  let s := now.foldl (fun s f =>
    let s := landAll f.kind st f.regs s
    if f.bad = 0 then s else f.regs.foldl (fun s r => landMarks f.kind st f.bad r.reg s) s) s
  s.mapCtx fun x =>
    let t := x.strand st
    x.setStrand st { t with flights := t.flights.filter fun f => !due f }

/-- Strand V's results land after strand A's loads: of one register both change in a cycle, the inactive lanes of strand V's result keep the
load's data (R232; log entry 34, DESIGN CHOICE). Of two results of strand V in one register in one cycle the later issued lands behind the
other, and its inactive lanes keep that one's lanes (the same entry). -/
def landCtx (s : State) : State := landStrand .M (landStrand .V (landStrand .A (landStrand .C s)))

/-- Every result of the core whose cycle has come lands; the group may be over (R93). -/
def landResults (s : State) : State :=
  let s := landCtx s
  let s := if s.core.shadow.a.flights.isEmpty && s.core.shadow.v.flights.isEmpty then s else withShadow landCtx s
  addDue s.gcyc 9 s.core.idx (.groupEnd s.core.idx) s

def execResultLanding (k : Nat) (s : State) : Out := onCore k landResults s

/-! ## Accesses perform (R191, R192) -/

/-- The access that performs in this cycle. -/
def performOf (a : Access) (s : State) : State :=
  match a.kind with
  | .load f => performLoad a f s
  | .store => writeAll a a.data (markDone a.id (countAt 1 (s.core.idx / 8) 0x42 (if ptrSpace a.ptr = 4 then 1 else 0) s))
  | .atomic .. => performAtomic a s
  | .cas .. => performAtomic a s
  | .post w => performPost a w s
  | .mbxSend m => performMbxSend a m s
  | .mbxQuery m => performMbxQuery a m s
  | .streamRead o t => performStream a o t s

def performHere (id : Nat) (s : State) : State :=
  match s.access id with
  | some a =>
    if a.p = some s.gcyc && !a.done then
      match orderWait a s, combineWait a s with
      | some c, _ => putOff a c s
      | none, some c => putOff a c s
      | none, none => performOf a s
    else s
  | none => s

/-- The access of either context. -/
def performAccess (id : Nat) (s : State) : State :=
  if (s.access id).isSome then performHere id s else withShadow (performHere id) s

def execAccessPerform (k id : Nat) (s : State) : Out := onCore k (performAccess id) s

/-! ## The frame (R344, R345) -/

/-- The loop that uses counter n, and a figure of each of the four. -/
def loopOf (t : Strand) (n : Nat) : Option Loop := t.loops.find? fun l => l.lc.toNat = n
def perLoop (t : Strand) (g : Loop → Nat) : List Nat := (List.range 4).map fun n => ((loopOf t n).map g).getD 0

/-- LFL: loops active, LBRK marks, stage counts, ROTB and DEADCHK. -/
def loopFlags (t : Strand) : Nat :=
  packNat 1 (perLoop t fun _ => 1) + 2 ^ 4 * packNat 1 (perLoop t fun l => if l.brk then 1 else 0)
    + 2 ^ 8 * packNat 3 (perLoop t fun l => l.stages.toNat) + 2 ^ 20 * t.rotb.toNat + (if t.deadchk then 2 ^ 24 else 0)

/-- The 128 bytes of a strand's record. Of a WAIT's remainder the field IDLE holds the low 32 bits (R87, R344; log entry 34, DESIGN
CHOICE). -/
def strandRec (v : SavedStrand) : List Byte :=
  let t := v.st
  leBytes 8 t.pc ++ leBytes 4 v.idle ++ leBytes 4 (~~~t.dead).toNat
    ++ (t.lc.toList.flatMap fun c => leBytes 4 c.toNat)
    ++ ((perLoop t fun l => l.last).flatMap fun n => leBytes 4 n)
    ++ leBytes 8 (loopFlags t) ++ leBytes 8 t.pert.key.toNat ++ leBytes 8 (t.pert.mem.toNat * 2 ^ 32 + t.pert.ctr.toNat)
    ++ ((perLoop t fun l => l.trips.toNat).flatMap fun n => leBytes 4 n) ++ List.replicate 40 0

/-- SREG of a strand: dead registers and s0 as zero. -/
def strandRegs (t : Strand) : List Byte :=
  (List.range 32).flatMap fun n => leBytes 8 (if n = 0 || t.dead.getLsbD n then 0 else (t.regs.toList.getD n 0).toNat)

/-- SST and what stands beside it. -/
def frameFlags (f : Frame) : Nat :=
  let b := fun (v : SavedStrand) => (if v.st.halted then 1 else 0) + (if v.st.timed then 2 else 0) + (if v.held then 4 else 0)
  b f.sc + b f.sa * 2 ^ 8 + b f.sv * 2 ^ 16 + b f.sm * 2 ^ 24 + f.pfr.length * 2 ^ 32 + (if f.segv then 2 ^ 36 else 0)

/-- The queue pointers: their distance is the queue's length; where they start is free (log entry 11, DESIGN CHOICE). -/
def queueWord (x : Ctx) (s : State) : Nat × State :=
  let d := draw s
  let n := fun (st : Bool) =>
    (x.acc.filter fun a => a.kind.queued && a.kind.isStore = st && a.pendingAt s.gcyc).length
  let h := fun (i : Nat) => (Config.freeByte d.1 i).toNat % 32
  (h 0 + (h 0 + n false) % 32 * 2 ^ 5 + h 1 * 2 ^ 10 + (h 1 + n true) % 32 * 2 ^ 15 + (if x.auHalt then 2 ^ 20 else 0), d.2)

/-- The header of the frame. -/
def frameHead (f : Frame) : List Byte := leBytes 8 f.tcause.toNat ++ leBytes 8 f.tval.toNat ++ leBytes 8 f.tcyc ++ leBytes 8 (frameFlags f)

/-- The pieces of the frame, as offsets and bytes. -/
def framePieces (f : Frame) (x : Ctx) (aq : Nat) (kd : Nat) : List (Nat × List Byte) :=
  let vlive := packNat 1 ((List.range 32).map fun n =>
    if x.vdead.getLsbD (physV f.sv.st.rotb (BitVec.ofNat 5 n)).val then 0 else 1)
  [(0, frameHead f)]
    ++ (strandOrder.map fun st => (0x40 + 128 * st.num, strandRec (f.strand st)))
    ++ (strandOrder.map fun st => (0x240 + 256 * st.num, strandRegs (f.strand st).st))
    ++ [(0x640 + 128, (x.preds.toList.drop 1).flatMap fun p => leBytes 128 p.toNat),
        (0xA40, leBytes 4 vlive), (0xA48, leBytes 8 (packNat 4 x.tokens.toList)),
        (0xA50, leBytes 4 aq), (0xA54, leBytes 4 (x.fq.length + x.tq.length % 8 * 2 ^ 5 + kd % 256 * 2 ^ 8))]
    ++ (strandOrder.map fun st => (0xA80 + 128 * st.num, (f.strand st).st.tickets.toList.flatMap fun t => leBytes 2 t.toNat))
    ++ [(0xC80, x.fq.flatMap fun w => leBytes 16 w.toNat), (0xD80, f.pfr.flatMap Rec.bytes)]
    ++ latchPieces f

/-- The header is written at the end of the trap cycle (R340). -/
def writeHead (s : State) : State :=
  match s.ctx.frame with
  | none => s
  | some f => s.poke (trapArea s) (frameHead f)

/-- The frame with strand A's registers as the loads that landed before it is written have left them (R342). -/
def Frame.settled (x : Ctx) (f : Frame) : Frame :=
  { f with sa := { f.sa with st := { f.sa.st with regs := x.a.regs, dead := x.a.dead, upset := x.a.upset } } }

/-- The frame is written into the context's trap area. -/
def writeFrame (s : State) : State :=
  let s := s.mapCtx fun x => { x with frame := x.frame.map (Frame.settled x) }
  match s.ctx.frame with
  | none => s
  | some f =>
    let base := trapArea s
    let aq := queueWord s.ctx s
    let s := { aq.2 with
      mem := memZero aq.2.mem base (base + 16384)
      bad := aq.2.bad.filter fun w => !wholeWord base 16384 w
      soft := aq.2.soft.filter fun w => !wholeWord base 16384 w }
    (framePieces f s.ctx aq.1 (kdone s)).foldl (fun s p => s.poke (base + p.1) p.2) s

/-! ## Replies (R356, R357) -/

/-- The halted access is translated again, and the unit goes on in queue order. -/
def resumeUnit (rid : BitVec 16) (s : State) : State :=
  let mine := s.ctx.acc.any fun a => a.rid = some rid && !a.cancelled
  let s := s.mapCtx fun x => { x with
    acc := x.acc.map fun a => if a.rid = some rid then { a with rid := none } else a
    auHalt := if mine then false else x.auHalt }
  if mine then pump 64 s else s

/-- A reply is applied to the running context; one that names no outstanding record is discarded. -/
def applyReply (r : Word) (s : State) : State :=
  let rid := fld r 48 16
  match s.ctx.waits.find? fun w => w.rid = rid with
  | none => s
  | some _ =>
    if (fld r 34 4).toNat ≠ s.vfOf then s else
    let s := s.mapCtx fun x => { x with waits := x.waits.filter fun v => v.rid ≠ rid }
    let copies := s.core.eng.copyRun.filter fun c => c.halted = some rid && c.second = s.core.second
    if bit r 32 then
      let s := copies.foldl (fun s c => failCopy c.id s) s
      match s.ctx.acc.find? fun a => a.rid = some rid with
      | some a => pump 64 (failAccess a.id 0x06 s)
      | none => s
    else resumeUnit rid (copies.foldl (fun s c => resumeCopy c.id s) s)

/-- Every waiting reply of the running context that arrived before this cycle is applied, in arrival order (R356). -/
def applyReplies (s : State) : State :=
  let ripe := fun (r : Nat × BitVec 64) => decide (r.1 ≤ s.gcyc)
  (s.ctx.replies.filter ripe).foldl (fun s r => applyReply r.2 s) (s.mapCtx fun x => { x with replies := x.replies.filter fun r => !ripe r })

/-- The running context's replies are applied, unless it is in its handler (R356, R362). -/
def replyStep (s : State) : State := if s.ctx.inHandler s.gcyc then s else applyReplies s

/-- The VF of a context's group, or of the core's last one. -/
def ctxVf (x : Ctx) (s : State) : Nat := (x.group.map fun g => g.vf).getD (s.core.lastVf.getD 0)

/-- A reply arrives at the queue of its core, context and VF; a full queue refuses it, and one of another VF names no record there (R356).
It is applied in the next cycle. -/
def replyArrive (r : Word) (s : State) : State :=
  let second := bit r 33
  let x := s.ctxNum second
  if (s.vf (fld r 34 4).toNat).resetting.isSome then s
  else if (fld r 34 4).toNat ≠ ctxVf x s then s
  else if 512 ≤ x.replies.length then s
  else
    addDue (s.gcyc + 1) 2 s.core.idx (.reply r)
      (s.setCtxNum second { x with replies := x.replies ++ [(s.gcyc + 1, r)] })

def replyCore (r : Word) : Nat := (fld r 38 10).toNat

def execReplyResume (r : Word) (s : State) : Out := onCore (replyCore r) (replyArrive (r &&& ~~~(2 ^ 32 : Word))) s
def execReplyFail (r : Word) (s : State) : Out := onCore (replyCore r) (replyArrive (r ||| (2 ^ 32 : Word))) s

/-! ## The handler starts, and the context resumes (R340, R342, R346, R351) -/

/-- An access or a result that entry waits for before the frame is written (R342). -/
def entryWaits (x : Ctx) (c : Nat) : Bool :=
  (x.acc.any fun a => !a.cancelled && !a.untranslated && a.pendingAt c) || x.a.flights.any fun f => f.late && f.lands.isSome

/-- At u the frame is done with, the cancelled accesses are issued again in queue order, and the waiting replies are applied. -/
def resumeAccesses (s : State) : State :=
  let s := s.mapCtx fun x => { x with
    acc := x.acc.map fun a => { a with cancelled := false }, auHalt := false, handler := .none, frame := none }
  applyReplies (pump 64 s)

def handlerStep (s : State) : State :=
  let x := s.ctx
  match x.handler with
  | .entering h =>
    if s.gcyc < h then s
    else if entryWaits x s.gcyc then addDue (s.gcyc + 1) 2 s.core.idx (.handlerStart s.core.idx) s
    else
      let s := writeFrame s
      s.mapCtx fun x => { x with handler := .running, c := { x.c with next := s.gcyc, held := false } }
  | .returning u => if s.gcyc < u then s else resumeAccesses s
  | _ => s

def execHandlerStart (k : Nat) (s : State) : Out := onCore k handlerStep s

/-- The handler's strand C may leave it: it runs, and none of its own results is in flight. -/
def handlerRuns (s : State) : Bool := s.cur = .C && s.ctx.handler = .running

def rettCheck (s : State) : Option Stop :=
  if !handlerRuns s then some (.trap 0x01 (s.word.setWidth 64))
  else if !s.ctx.c.flights.isEmpty then some .hold else none

/-- RETT restores the frame; the context resumes 32 cycles later (R92, R346). -/
def execRett (h : Hdr) (s : State) : Out :=
  match stops h [] noNeed rettCheck s with
  | some .hold => .next (stall s)
  | some .wait => .next (linger s)
  | some (.trap code tval) => .next (precise code tval s)
  | none => .next { returnTrap (prepare [] s) with verdict := .issued }

/-! ## CTXSW and the switch back (R359 to R361) -/

/-- The stop image area lies wholly in LOCAL. -/
def imageFits (s : State) : Bool := 64 * (fld s.core.trapbase 40 24).toNat + 65600 ≤ localSize s.core.partw

def ctxswCheck (s : State) : Option Stop :=
  if !handlerRuns s || s.core.second || partC s.core.partw < 2 then some (.trap 0x01 (s.word.setWidth 64))
  else if s.core.shadow.group.isNone then none
  else if !s.ctx.c.flights.isEmpty then some .hold
  else if !imageFits s then some (.trap 0x07 s.core.trapbase)
  else none

/-- Context 1's strands make their first issue 4 cycles later. -/
def firstIssue (c : Nat) (x : Ctx) : Ctx :=
  let f := fun (t : Strand) => { t with next := c, idleFrom := c }
  { x with c := f x.c, a := f x.a, v := f x.v, m := f x.m }

/-- The core is handed to context 1; the array half stops context 0's command at the end of the cycle's starts. -/
def switchTo (s : State) : State :=
  let k := s.core.idx
  let c := s.core.flip
  addDue (s.gcyc + 4) 2 k (.groupStart k) (addDue s.gcyc 4 (8 * k + 5) (.tileStart k)
    { s with core := { c with ctx := firstIssue (s.gcyc + 4) c.ctx, shadow := { c.shadow with handler := .switched s.gcyc } } })

def execCtxsw (h : Hdr) (s : State) : Out :=
  match stops h [] noNeed ctxswCheck s with
  | some .hold => .next (stall s)
  | some .wait => .next (linger s)
  | some (.trap code tval) => .next (precise code tval s)
  | none =>
    let r := retire h false s.str.pc (plain (prepare [] s))
    .next (if s.core.shadow.group.isNone then r else switchTo r)

/-- Context 0 goes on behind its CTXSW, still in its handler; its queues are served again. -/
def switchBack (s : State) : State :=
  if s.core.second && s.core.ctx.group.isNone then
    let k := s.core.idx
    let c := s.core.flip
    let x := c.ctx
    let s := { s with core := { c with ctx := { x with handler := .running, c := { x.c with next := s.gcyc, held := false } } } }
    addDue s.gcyc 4 (8 * k + 5) (.tileStart k) (addDue s.gcyc 2 k (.groupStart k) (applyReplies (resumeStopped s)))
  else s

def execContextSwitchBack (k : Nat) (s : State) : Out := onCore k switchBack s

end Sys2Proof.Machine
end

