-- ==== Sys2Proof/Machine/Pod.lean ====
section
/-!
DEFINITION. Machine/Pod.lean: the superstep: packets, the plinth, STEP and its boundary, the armature's exchange and the routing
tables of control messages (R316 to R334).
-/
namespace Sys2Proof.Machine

/-! ## Flits and links (R317 to R319, R325) -/

/-- The flits of a packet that leaves in cycle c which one that leaves in cycle d has a flit due with, in the same cycle. -/
def flitsMet (c : Nat) (p : Packet) (d : Nat) (q : Packet) : List Nat :=
  (List.range (packetFlits p)).filter fun i => !p.lost.contains i && decide (d ≤ c + i) && decide (c + i < d + packetFlits q)
    && !q.lost.contains (c + i - d)

/-- The port's link leads back to the package itself: the pod's extent is 1 in its dimension (R4, R316). -/
def selfLink (port : Nat) (s : State) : Bool := (if port < 6 then s.pod.ex else if port < 12 then s.pod.ey else s.pod.ez) = 1

/-- The input port at the other end of an output port's link: that of the opposite direction (R316). -/
def facingPort (port : Nat) : Nat := 3 * (if port / 3 % 2 = 0 then port / 3 + 1 else port / 3 - 1) + port % 3

/-- Cycles from a packet's departure to its coming in: its head goes on where its route does, its last flit ends it (R318). -/
def linkCycles (p : Packet) : Nat := Config.hop + if p.route.isEmpty then packetFlits p - 1 else 0

/-- A packet that leaves on a link back to the package comes in 180 cycles after its departure: its head where it goes on, its last
flit where its route ends (R318). -/
def loopBack (port inPort : Nat) (p : Packet) (s : State) : State :=
  if port < 18 && selfLink port s then
    addDue (s.gcyc + linkCycles p) 1 (65 + port) (.linkArrive s.gcyc port inPort) s
  else s

/-- Put a packet on an output port: where two flits are due in one cycle, that from the lower-numbered input port departs and the other is
dropped (R318); of two from one input port, that of the packet put there first. A flit lost on the way is due nowhere. -/
def sendPacket (port inPort : Nat) (p : Packet) (s : State) : State :=
  let c := s.gcyc
  let here := s.pod.out.filter fun e => e.2.1 = port
  let lost := (here.filter fun e => e.2.2.1 ≤ inPort).flatMap fun e => flitsMet c p e.1 e.2.2.2
  let hit := fun (e : Nat × Nat × Nat × Packet) =>
    if e.2.1 = port && decide (inPort < e.2.2.1) then
      (e.1, e.2.1, e.2.2.1, { e.2.2.2 with lost := e.2.2.2.lost ++ flitsMet e.1 e.2.2.2 c p })
    else e
  let q := { p with route := p.route.drop 1, lost := p.lost ++ lost.eraseDups }
  loopBack port inPort q { s with pod := { s.pod with out := s.pod.out.map hit ++ [(c, port, inPort, q)] } }

/-- Flits of a packet that are not lost. -/
def flitsLeft (p : Packet) : Nat := packetFlits p - p.lost.length

/-- The boundary is active: the window slots carry only retransmissions, or nothing (R325, R328). -/
def inBoundary (s : State) : Bool := s.pod.bound.isSome

/-- U of the active boundary. -/
def boundaryU (s : State) : Nat := s.pod.bound.getD 0 + 12288

/-- Flits that still fit in the slot at cycle c; a slot ends with its period. -/
def slotLeft (w : Window) (c : Nat) : Nat :=
  let p := 2 ^ w.plog
  let r := c % p
  if w.phase ≤ r && r < w.phase + w.slotf then min (w.phase + w.slotf) p - r else 0

/-! ## The plinth (R326) -/

/-- Where a packet's bytes go, if the target exists and the holder's VF owns it. -/
def plinthTarget (p : Packet) (s : State) : Option Nat :=
  match (s.launches.find? fun l => some l.id = s.pod.holder) with
  | none => none
  | some l =>
    let v := s.vf l.vf
    if p.tsp = 1 then
      match v.sliceOf p.tclu with
      | some (base, size) => if p.off + p.bytes.length ≤ size then some (clusterAddr p.tclu (base + p.off)) else none
      | none => none
    else
      let k := 8 * p.tclu + p.tcore
      if v.ownsCore k && p.off + p.bytes.length ≤ localSize (s.coreAt k).partw then some (poolAddr k p.off) else none

/-- Two entries reach one byte of the target. -/
def plinthMeets (p q : Packet) (s : State) : Bool :=
  match plinthTarget p s, plinthTarget q s with
  | some a, some b => a < b + q.bytes.length && b < a + p.bytes.length
  | _, _ => false

/-- The plinth share of the pod launch's VF. -/
def plinthShare (s : State) : Nat :=
  match s.launches.find? fun l => some l.id = s.pod.holder with | some l => (s.vf l.vf).plinth | none => 0

/-- A good packet is checked and entered, or dropped whole with a cause. -/
def enterPlinth (p : Packet) (s : State) : State :=
  if (plinthTarget p s).isNone then recordCause 5 s
  else if plinthShare s < s.pod.used + postCharge p.bytes.length then recordCause 1 s
  else if s.pod.plinth.any fun q => plinthMeets p q s && (p.rule = 0 || q.rule ≠ p.rule) then recordCause 4 s
  else { s with pod := { s.pod with plinth := s.pod.plinth ++ [p], used := s.pod.used + postCharge p.bytes.length } }

/-- A packet of the next step waits until the boundary is over; another is entered at once. -/
def takePacket (p : Packet) (s : State) : State :=
  if s.pod.bound.any fun b => decide (s.pod.closed || (p.sender = s.podIdx && b ≤ p.cyc)) then
    { s with pod := { s.pod with nextPlinth := s.pod.nextPlinth ++ [p] } }
  else enterPlinth p s

/-! ## Departures and retransmissions -/

/-- The cycle from which no flit of a window's own departures is on its port. -/
def windowFree (w : Nat) (s : State) : Nat :=
  s.pod.out.foldl (fun m e => if e.2.2.1 = 18 && e.2.2.2.win = w then max m (e.1 + packetFlits e.2.2.2) else m) 0

/-- The queue's head departs in its window's slot, if all its flits fit. -/
def departStep (w : Nat) (s : State) : State :=
  let x := s.window w
  match x.queue with
  | [] => s
  | p :: ps =>
    if x.hops = 0 then
      if s.gcyc ≤ p.cyc then departAt (p.cyc + 1) w s
      else
        let s := takePacket p (s.setWindow w { x with queue := ps })
        if ps.isEmpty then s else departAt s.gcyc w s
    else if s.svc.viral then s
    else if inBoundary s then departAt (slotFrom x (boundaryU s)) w s
    else if s.gcyc ≤ p.cyc then departAt (slotFrom x (p.cyc + 1)) w s
    else if s.gcyc < windowFree w s then departAt (slotFrom x (windowFree w s)) w s
    else if slotLeft x s.gcyc < packetFlits p then departAt (slotFrom x (s.gcyc + max 1 (slotLeft x s.gcyc))) w s
    else
      let s := s.setWindow w { x with queue := ps, sent := x.sent ++ [p] }
      let s := sendPacket (p.route.headD 0) 18 p s
      if ps.isEmpty then s else departAt (slotFrom x (s.gcyc + packetFlits p)) w s

def onWindow (w : Nat) (f : State → State) (s : State) : Out := onUnit (w < 64) f s

def execSlotDepart (w : Nat) (s : State) : Out := onWindow w (departStep w) s

/-- The start of the next slot of a window, at or after c. -/
def slotStart (w : Window) (c : Nat) : Nat :=
  let p := 2 ^ w.plog
  if c % p ≤ w.phase then c - c % p + w.phase else c - c % p + p + w.phase

/-- In the repair span a slot carries the oldest packet still unacknowledged at its start, each packet once (R319, R328). -/
def retransmitStep (w : Nat) (s : State) : State :=
  let x := s.window w
  match s.pod.bound with
  | none => s
  | some b =>
    if b + 1024 ≤ s.gcyc || s.svc.viral then s
    else
      let s := addDue (slotStart x (s.gcyc + 1)) 1 (w + 1) (.retransmit w) s
      match x.sent.find? fun p => !x.tried.contains p.seq with
      | none => s
      | some p => sendPacket (p.route.headD 0) 18 { p with again := true } (s.setWindow w { x with tried := p.seq :: x.tried })

def execRetransmit (w : Nat) (s : State) : Out := onWindow w (retransmitStep w) s

/-! ## Wake events (R424 to R426) -/

/-- Exit latency of a power state in nanoseconds. -/
def exitNs : Nat → Nat
  | 1 => 2000 | 2 => 40000 | 3 => 3000000 | _ => 2000000000

/-- Main-clock cycles in a time: 940 a microsecond, half as many under a halving (R5, R322). -/
def cyclesOf (ns : Nat) (s : State) : Nat :=
  let f := if s.svc.halved then 47 else 94
  (ns * f + 99) / 100

/-- The first cycle of an exit that a wake event starts now: in the entry cycle the entry is completed first (R428). -/
def exitFrom (s : State) : Nat := if s.gcyc = s.svc.entered then s.gcyc + 1 else s.gcyc

/-- A wake event starts an exit to S0 (R426). -/
def wakePower (s : State) : State :=
  if (s.svc.power = 1 || s.svc.power = 2 || s.svc.power = 3) && s.svc.exitAt.isNone then
    let c := exitFrom s + cyclesOf (exitNs s.svc.power) s
    addDue c 2 0 .powerExitComplete { s with svc := { s.svc with exitAt := some c } }
  else s

/-! ## Control messages (R334) -/

/-- The port the active bank names for a destination. -/
def ctlPort (dst : Nat) (s : State) : Nat :=
  (((if s.pod.bankB then s.pod.routeB else s.pod.routeA).find? fun r => r.1 = dst).map Prod.snd).getD 0

/-- Send a control message: it leaves in link cycles that no window slot uses, so its own are not fixed; from a cutoff on none enters the
links until U. An acknowledgement of the package to itself comes back to it after cycles that are not fixed either. -/
def sendCtl (m : CtlMsg) (s : State) : State :=
  if s.pod.closed || s.svc.viral then s
  else if m.dst = s.podIdx && m.win < 64 then
    let d := draw s
    addDue (s.gcyc + 1 + Config.ctlDelay d.1) 1 m.win (.ackReceive m.win m.seq) d.2
  else
    let d := draw s
    { d.2 with pod := { d.2.pod with ctl := d.2.pod.ctl ++ [(s.gcyc + Config.ctlDelay d.1, ctlPort m.dst s, m)] } }

/-- An acknowledgement that comes by the cutoff frees the sender's copy (R319). -/
def ackStep (w seq : Nat) (s : State) : State :=
  if s.pod.closed then s
  else
    let x := s.window w
    s.setWindow w { x with sent := x.sent.filter fun p => p.seq ≠ seq }

def execAckReceive (w seq : Nat) (s : State) : Out := onWindow w (ackStep w seq) s

/-- A message for this package is taken in; another is routed on. -/
def ctlStep (m : CtlMsg) (s : State) : State :=
  if m.dst = s.podIdx then (if m.win < 64 then ackStep m.win m.seq s else s) else sendCtl m s

def execControlMessage (m : CtlMsg) (s : State) : Out := .next (ctlStep m s)

/-- The banks are swapped, where a swap has been requested. -/
def swapBanks (s : State) : State :=
  { s with pod := { s.pod with bankB := if s.pod.swap then !s.pod.bankB else s.pod.bankB, swap := false } }

/-- A package that no pod launch holds swaps in the first cycle in which its links carry no control message. -/
def trySwap (s : State) : State :=
  if !s.pod.swap || s.pod.holder.isSome then s
  else
    let busy := s.pod.ctl.filter fun m => decide (s.gcyc ≤ m.1)
    if busy.isEmpty then swapBanks s
    else addDue (busy.foldl (fun c m => max c (m.1 + 1)) (s.gcyc + 1)) 1 0 .boundaryResume s

/-- A swap of the two banks is requested: it is made at U where a pod launch holds the package. -/
def execRouteSwapRequest (s : State) : Out := .next (trySwap (wakePower { s with pod := { s.pod with swap := true } }))

/-- No pod launch holds the package any more: a swap that is still wanted no longer waits for a U. -/
def releasePod (s : State) : State :=
  let s := { s with pod := { s.pod with holder := none } }
  if s.pod.swap then addDue (s.gcyc + 1) 1 0 .boundaryResume s else s

/-! ## Packets that arrive (R318, R319) -/

/-- A packet is taken in: checked, acknowledged, entered or discarded. From the cutoff to U nothing is counted. TGT is a field of the head
flit: where that is lost, nothing is compared. -/
def receiveStep (p : Packet) (s : State) : State :=
  if s.pod.closed then s
  else if !p.lost.contains 0 && p.tgt ≠ s.podIdx then recordCause 5 s
  else if p.poison then (if p.again then recordCause 2 s else s)
  else if !p.hdrOk || !p.crcOk || !p.lost.isEmpty then s
  else
    let s := sendCtl ⟨p.sender, p.win, p.seq⟩ s
    if s.pod.seen.contains (p.sender, p.win, p.seq) then s
    else takePacket p { s with pod := { s.pod with seen := (p.sender, p.win, p.seq) :: s.pod.seen } }

def execPacketReceive (p : Packet) (s : State) : Out := .next (receiveStep p (countAt 2 0 0x83 (flitsLeft p) s))

/-- A packet that comes in on a port mid-route goes out on its next hop; a header that fails its check poisons it. -/
def forwardStep (port : Nat) (p : Packet) (s : State) : State :=
  match p.route with
  | [] => receiveStep p s
  | out :: _ => if s.svc.viral then s else sendPacket out port { p with poison := p.poison || !p.hdrOk } s

def execPacketForward (port : Nat) (p : Packet) (s : State) : Out := onUnit (port < 18) (fun s => forwardStep port p (countAt 2 0 0x83 (flitsLeft p) s)) s

/-- The packets that the package has sent to itself and that come in now: each is taken in where its route ends, and goes on elsewhere. -/
def linkStep (c port inPort : Nat) (s : State) : State :=
  (s.pod.out.filter fun e => e.1 = c && e.2.1 = port && e.2.2.1 = inPort && c + linkCycles e.2.2.2 = s.gcyc).foldl
    (fun s e => forwardStep (facingPort port) e.2.2.2 (countAt 2 0 0x83 (flitsLeft e.2.2.2) s)) s

/-! ## STEP (R327) -/

/-- The boundary cycle a stamp names. -/
def stepBoundary (t : W32) (s : State) : Nat := s.gcyc + stampDelta t s.gcyc

/-- Inside a boundary that the package has opened: one that a STEP it has accepted names. -/
def insideOpened (b : Nat) (s : State) : Bool := s.pod.opened.any fun x => decide (x < b && b < x + 12288)

/-- The checks of a STEP, in order; one that has passed them waits for its boundary and is not checked again. -/
def stepCheck (f : R2T) (s : State) : Option Stop :=
  let b := stepBoundary f.stamp s
  if !bit s.core.domain 3 then some (.trap 0x07 0)
  else if !s.str.timed then some (.trap 0x0D 0)
  else if s.pod.waiting.contains (s.core.idx, b) then (if s.gcyc = b then none else some .wait)
  else if stampPassed f.stamp s then some (.trap 0x0C (f.stamp.setWidth 64))
  else if insideOpened b s then some (.trap 0x0D 0)
  else some .wait

/-- A boundary comes at b. -/
def nameBoundary (b : Nat) (s : State) : State :=
  addDue b 9 0 .boundaryStart (addDue b 1 0 .boundaryStart { s with pod := { s.pod with
    bounds := if s.pod.bounds.contains b then s.pod.bounds else b :: s.pod.bounds } })

/-- The package opens the boundary that a STEP names, and the core waits for it. -/
def openBoundary (b : Nat) (s : State) : State :=
  nameBoundary b { s with pod := { s.pod with
    opened := if s.pod.opened.contains b then s.pod.opened else b :: s.pod.opened
    waiting := (s.core.idx, b) :: s.pod.waiting.filter fun w => w.1 ≠ s.core.idx } }

/-- A boundary that a core of another package has named comes in every package of the pod (R328); the armature tells of it. -/
def peerBoundary (b : Nat) (s : State) : State :=
  if s.gcyc < b && s.pod.holder.isSome then nameBoundary b s else s

/-- STEP issues at B: its result lands at the end of U − 1, and strand A issues again at U + I. -/
def stepEff (f : R2T) (s : State) : Eff :=
  let id := s.nextId
  let p : Stepper := ⟨s.core.idx, s.rs f.a ≠ 0, id, s.str.pc⟩
  let s := { s with
    nextId := id + 1
    pod := { s.pod with steppers := s.pod.steppers ++ [p], waiting := s.pod.waiting.filter fun w => w.1 ≠ s.core.idx } }
  let s := s.setStr { s.str with idleFrom := s.gcyc + 12288 }
  after (flyFrom id .scalar [⟨f.d, 0, BitVec.allOnes 4096⟩] (some (s.gcyc + 12287)) false s) 12287

def execStepPod (h : Hdr) (f : R2T) (s : State) : Out :=
  match stops h [useS f.a f.la] oneLatch (stepCheck f) s with
  | some .hold => .next (stall s)
  | some .wait => .next (linger (if (gateStop s).isSome then s else openBoundary (stepBoundary f.stamp s) s))
  | some (.trap code tval) =>
    let t := precise code tval s
    .next (if code = 0x0C then recordCause 6 t else t)
  | none => .next (retire h true s.str.pc (stepEff f (prepare [useS f.a f.la] s)))

/-! ## The boundary (R328, R329) -/

/-- The participating cores: those of the pod launch whose groups have not ended. -/
def participants (s : State) : List Nat :=
  match s.launches.find? fun l => some l.id = s.pod.holder with
  | some l => ((l.live.map Prod.fst) ++ (l.todo.map fun t => t.1)).eraseDups
  | none => []

/-- Every window's LEFT becomes ALLOW; what is still queued is discarded, with cause LOST. -/
def boundaryWindows : Nat → State → State
  | 0, s => s
  | n + 1, s =>
    let x := s.window n
    if !x.valid then boundaryWindows n s
    else
      let s := if x.queue.isEmpty then s else recordCause 2 s
      let s := s.setWindow n { x with left := x.allow, queue := [], tried := [] }
      boundaryWindows n (if x.sent.isEmpty then s else addDue (slotStart x s.gcyc) 1 (n + 1) (.retransmit n) s)

/-- The events of a boundary at b that follow its start (R328). -/
def boundaryEvents (b : Nat) (s : State) : State :=
  addDue (b + 2560) 2 0 .voteCutoff (addDue (b + 4096) 1 0 .applySpan (addDue (b + 12288) 1 0 .boundaryResume s))

/-- A boundary begins while an earlier one is active. The timeline of that one holds strand A of every participating core, so none of them
issues a STEP at this one: the armature counts the missing vote as an error (R327), and what is posted for its step stays queued or is
discarded. Only its allowances, its discards, its abort records and its U are left of it (log entry 30, DEDUCED). -/
def laterBoundary (b : Nat) (s : State) : State :=
  boundaryEvents b { s with
    windows := s.windows.map fun x => if x.valid then { x with left := x.allow, queue := [] } else x
    pod := { s.pod with later := s.pod.later ++ [b] } }

/-- Cycle B: first its start, then, when the cores have issued, the check that all of them did. -/
def boundaryStep (s : State) : State :=
  if !s.pod.bounds.contains s.gcyc then s
  else if s.pod.bound = some s.gcyc then
    let here := s.pod.steppers.map fun p => p.core
    if !here.isEmpty && (participants s).any fun k => !here.contains k then recordCause 6 s else s
  else if s.pod.bound.isSome then (if s.pod.later.contains s.gcyc then s else laterBoundary s.gcyc s)
  else
    let s := { s with pod := { s.pod with bound := some s.gcyc, steppers := [], closed := false, result := none } }
    boundaryEvents s.gcyc (boundaryWindows 64 s)

def execBoundaryStart (s : State) : Out := .next (boundaryStep s)

/-- Control traffic stops entering the links: what has not entered yet is discarded, and so is what would come in later (R334). -/
def stopControl (s : State) : State :=
  { s with
    cal := s.cal.filter fun d => match d.ev with | .ackReceive .. => false | _ => true
    pod := { s.pod with ctl := s.pod.ctl.filter fun m => decide (m.1 ≤ s.gcyc) } }

/-- The package closes its vote: what is not acknowledged is lost (R319, R329). At the cutoff of a later boundary the causes of its own step
are done with. -/
def cutoffStep (s : State) : State :=
  if s.pod.later.any fun b => decide (b + 2560 = s.gcyc) then { s with pod := { s.pod with nextCauses := 0 } }
  else if s.pod.bound.isNone || s.pod.closed then s
  else
    let s := stopControl s
    let s := if s.windows.toList.any fun w => !w.sent.isEmpty then recordCause 2 s else s
    let s := if s.pod.steppers.any fun p => p.err then recordCause 0 s else s
    { s with pod := { s.pod with
      closed := true, own := s.pod.causes
      ownErr := s.pod.causes ≠ 0 || s.pod.steppers.isEmpty || s.svc.viral } }

def execVoteCutoff (s : State) : Out := .next (cutoffStep s)

/-! ## The apply span (R330 to R332) -/

/-- Order of the entries: sender, then post stamp, then sequence number, in which the elements of one VSTS are posted (R324). -/
def entryBefore (p q : Packet) : Bool :=
  p.sender < q.sender || (p.sender = q.sender && (p.cyc < q.cyc || (p.cyc = q.cyc && (p.core < q.core
    || (p.core = q.core && (p.agent < q.agent
      || (p.agent = q.agent && p.seq ≠ q.seq && (q.seq + 2 ^ 32 - p.seq) % 2 ^ 32 < 2 ^ 31)))))))

def insEntry (p : Packet) : List Packet → List Packet
  | [] => [p]
  | q :: qs => if entryBefore p q then p :: q :: qs else q :: insEntry p qs

/-- A typed rule on two words. -/
def ruleWord (rule old new : Nat) : Nat :=
  let a := BitVec.ofNat 32 old
  let b := BitVec.ofNat 32 new
  match rule with
  | 2 => (a + b).toNat
  | 3 => faddLane .f32 old new
  | 4 => (if b.slt a then b else a).toNat
  | _ => (if a.slt b then b else a).toNat

/-- The bytes an element takes from one entry. -/
def ruleBytes (rule : Nat) (old new : List Byte) : List Byte :=
  if rule = 6 then (old.zip new).map fun x => x.1 ||| x.2
  else if 2 ≤ rule && rule ≤ 5 then leBytes 4 (ruleWord rule (leNat old) (leNat new))
  else new

/-- Bytes of an element under a rule. -/
def ruleSize (rule : Nat) : Nat := if 2 ≤ rule && rule ≤ 5 then 4 else 1

/-- One entry on the element values so far; an element not yet written starts from what its target holds. -/
def applyEntry (s : State) (p : Packet) (m : List (Nat × List Byte)) : List (Nat × List Byte) :=
  match plinthTarget p s with
  | none => m
  | some a =>
    let z := ruleSize p.rule
    (List.range (p.bytes.length / z)).foldl (fun m i =>
      let at' := a + z * i
      let new := (p.bytes.drop (z * i)).take z
      let old := ((m.find? fun x => x.1 = at').map Prod.snd).getD (s.peek at' z)
      (at', ruleBytes p.rule old new) :: m.filter fun x => x.1 ≠ at') m

/-- The final value of every element written in the step. -/
def plinthValues (s : State) : List (Nat × List Byte) :=
  (s.pod.plinth.foldl (fun l p => insEntry p l) []).foldl (fun m p => applyEntry s p m) []

/-- The UNIT and the place of what the apply finds that cannot be corrected: an entry of the plinth, or a target word that an entry's rule
takes (R397, R409). -/
def plinthBad (s : State) : Option (Nat × Nat) :=
  s.pod.plinth.zipIdx.findSome? fun x =>
    if x.1.bad then some (6, x.2)
    else if x.1.rule < 2 then none
    else (plinthTarget x.1 s).bind fun a => (s.bad.find? (touchesWord a x.1.bytes.length)).map fun w => (unitOf s (8 * w), 8 * w)

/-- The VF of the launch that holds the package; 16 where none does. -/
def podVf (s : State) : Nat := ((s.launches.find? fun l => some l.id = s.pod.holder).map fun l => l.vf).getD 16

/-- STEP's result word. -/
def stepWord (abort : Bool) (podc own : BitVec 8) (n : Nat) : Word :=
  BitVec.ofNat 64 ((if abort then 2 ^ 63 else 0) + podc.toNat * 2 ^ 48 + own.toNat * 2 ^ 40 + n % 2 ^ 32)

/-- A step abort of one participating core, in the terminal ring, for boundary index n. -/
def abortRecord (n k : Nat) (s : State) : State :=
  withCore k (fun t =>
    let pc := ((s.pod.steppers.find? fun p => p.core = k).map fun p => p.pc).getD t.ctx.a.pc
    inCtx (t.core.zero.group.all fun g => some g.launch ≠ s.pod.holder) (report 0x16 pc 1 6 (BitVec.ofNat 64 (n % 2 ^ 32))) t) s

/-- The package's part in the abort of the step with boundary index n (R332). -/
def abortStep (n : Nat) (s : State) : State := (participants s).foldl (fun s k => abortRecord n k s) (countAt 2 0 0x85 1 s)

/-- What the step that ended at a later boundary b has posted to its own plinth is discarded, and its step is aborted (R332). -/
def abortLater (i b : Nat) (s : State) : State :=
  abortStep (s.pod.stepno + 1 + i) { s with pod := { s.pod with nextPlinth := s.pod.nextPlinth.filter fun p => decide (b ≤ p.cyc) } }

/-- The votes are in: the plinth is applied, each element in some cycle of the span, or it is discarded. -/
def decideStep (s : State) : State :=
  let alone := s.pod.ex * s.pod.ey * s.pod.ez ≤ 1
  let d := if alone then (0, s) else draw s
  let s := d.2
  let abort := s.pod.ownErr || (!alone && Config.peerError d.1)
  let podc := if alone || !Config.peerError d.1 then s.pod.own else s.pod.own ||| (Config.peerCauses d.1 &&& 0x7F)
  let word := stepWord abort podc s.pod.own s.pod.stepno
  let s := s.pod.steppers.foldl (fun s p => withCore p.core (fun s => relatch (setValue p.id (word.setWidth 4096) s)) s) s
  let s := { s with pod := { s.pod with result := some word } }
  if abort then abortStep s.pod.stepno { s with pod := { s.pod with plinth := [] } }
  else
    match plinthBad s with
    | some (unit, at') =>
      let o := if unit = 6 then (0x3FF, podVf s) else ownerOf s at'
      goViral (logEvent 2 unit o.1 o.2 0 (BitVec.ofNat 64 at') 0 { s with pod := { s.pod with plinth := [] } })
    | none =>
      let e := draw s
      let vals := (plinthValues s).zipIdx.map fun x => (s.gcyc + Config.applyDelay e.1 x.2 % 8192, x.1.1, x.1.2)
      let s := { e.2 with pod := { e.2.pod with applies := vals, plinth := [] } }
      vals.foldl (fun s v => addDue v.1 7 0 .applySpan s) s

/-- The elements whose cycle has come take their values; in the viral state no write is performed (R408). -/
def applyStep (s : State) : State :=
  if s.pod.bound.isSome && s.pod.closed && s.pod.result.isNone then decideStep s
  else
  let s := match s.pod.later.findIdx? fun b => decide (b + 4096 = s.gcyc) with
    | some i => abortLater i (s.gcyc - 4096) s
    | none => s
  if s.svc.viral then s
  else
    let now := s.pod.applies.filter fun v => v.1 ≤ s.gcyc
    let s := { s with pod := { s.pod with applies := s.pod.applies.filter fun v => !(v.1 ≤ s.gcyc : Bool) } }
    now.foldl (fun s v => countAt 2 0 0x84 v.2.2.length (s.poke v.2.1 v.2.2)) s

def execApplySpan (s : State) : Out := .next (applyStep s)

/-- Window w's packets wait for its first slot from U on. A slot in progress at U carries what still fits in it (R325; log entry 34, DESIGN
CHOICE). -/
def resumeWindows : Nat → State → State
  | 0, s => s
  | n + 1, s =>
    let x := s.window n
    let s := s.setWindow n { x with sent := [], tried := [] }
    resumeWindows n (if x.queue.isEmpty || x.hops = 0 then s else departAt (slotFrom x s.gcyc) n s)

/-- A later boundary goes on as the active one from the U of the one before it: its vote, where it is closed, is an error, and where its
4096 cycles are over, its step has been aborted. -/
def promote (s : State) : State :=
  match s.pod.later with
  | [] => s
  | b :: bs => { s with pod := { s.pod with
      bound := some b, later := bs, closed := decide (b + 2560 ≤ s.gcyc), own := s.pod.causes, ownErr := true
      result := if b + 4096 ≤ s.gcyc then some (stepWord true s.pod.causes s.pod.causes s.pod.stepno) else none } }

/-- U: the next step begins, with what has been recorded and has arrived for it; a requested swap of the banks takes effect. With no
boundary active, one that waits for the links does. -/
def boundaryEnd (s : State) : State :=
  match s.pod.bound with
  | none => trySwap s
  | some b =>
    if s.gcyc < b + 12288 then s
    else
      let next := s.pod.nextPlinth.filter fun p => s.pod.later.head?.all fun c => decide (c ≤ p.cyc)
      let s := { s with pod := { s.pod with
        bound := none, bounds := s.pod.bounds.filter (fun x => x ≠ b), opened := s.pod.opened.filter (fun x => x ≠ b), steppers := [], closed := false
        causes := s.pod.nextCauses, nextCauses := 0, own := 0, ownErr := false, result := none
        stepno := s.pod.stepno + 1, plinth := [], nextPlinth := [], used := 0, seen := [] } }
      let s := promote (resumeWindows 64 (swapBanks s))
      next.foldl (fun s p => takePacket p s) s

def execBoundaryResume (s : State) : Out := .next (boundaryEnd s)

/-! ## The armature's exchange (R320, R321) -/

/-- The package is the root of the tree. -/
def isRoot (s : State) : Bool := s.pod.x = 0 && s.pod.y = 0 && s.pod.z = 0

/-- Every child of the package by the sending port (R321). -/
def childPorts (s : State) : List Nat :=
  let p := s.pod
  (if p.x + 1 < p.ex then [0] else []) ++ (if p.x = 0 && p.y + 1 < p.ey then [6] else [])
    ++ (if p.x = 0 && p.y = 0 && p.z + 1 < p.ez then [12] else [])

/-- The exchange: GCYC goes to every child, and the parent's message is awaited. -/
def exchangeStep (s : State) : State :=
  if s.gcyc % 65536 ≠ 0 then s
  else
    let s := { s with pod := { s.pod with
      sentG := s.pod.sentG ++ (childPorts s).map fun c => (c, s.gcyc)
      parentAt := if isRoot s || s.pod.heard = some s.gcyc then none else some s.gcyc } }
    let s := if s.pod.parentAt.isNone then s else addDue (s.gcyc + 1024) 2 0 .realignTimeout s
    addDue (s.gcyc + 65536) 1 0 .realignExchange s

def execRealignExchange (s : State) : Out := .next (exchangeStep s)

/-- The parent's message, of the exchange that is awaited or of the next one: the clock is trimmed against the offset, and an offset beyond
STEPTOL is SKEW. -/
def messageStep (g : Word) (s : State) : State :=
  let early := !isRoot s && s.gcyc ≤ g.toNat && s.pod.heard ≠ some g.toNat && s.pod.parentAt ≠ some g.toNat
  if s.pod.parentAt.isNone && !early then s
  else
    let off : Int := (s.gcyc : Int) - (g.toNat + 180)
    let s := { s with pod := { s.pod with
      heard := some g.toNat, parentAt := if early then s.pod.parentAt else none
      trim := if 0 < off then -1 else if off < 0 then 1 else 0 } }
    if (s.pod.stepTol.toNat : Int) < off.natAbs then recordCause 3 s else s

def execRealignMessage (g : Word) (s : State) : Out := .next (messageStep g s)

/-- No message came: SKEW, and the clock runs untrimmed. -/
def timeoutStep (s : State) : State :=
  match s.pod.parentAt with
  | some c => if c + 1024 ≤ s.gcyc then recordCause 3 { s with pod := { s.pod with parentAt := none, trim := 0 } } else s
  | none => s

def execRealignTimeout (s : State) : Out := .next (timeoutStep s)

end Sys2Proof.Machine
end

