-- ==== Sys2Proof/Machine/Launch.lean ====
section
/-!
DEFINITION. Machine/Launch.lean: the launch queues and their heads, the dispatcher's checks, the loader, launch groups from their first
issue to their end, slices, parks and completions (R28, R36, R93, R258, R283, R294, R299, R363 to R378, R420).
-/
namespace Sys2Proof.Machine

/-! ## Wakeups of the dispatcher -/

def serveIn (c vf q : Nat) (s : State) : State := addDue c 2 (4 * vf + q) (.serve vf q) s
def wakeQueue (vf q : Nat) (s : State) : State := serveIn (s.gcyc + 1) vf q s
def wakeVf (vf : Nat) (s : State) : State := wakeQueue vf 3 (wakeQueue vf 2 (wakeQueue vf 1 (wakeQueue vf 0 s)))
def wakeDispatch (s : State) : State := addDue (s.gcyc + 1) 2 64 .launchDispatch s

/-- The dispatcher serves queue heads: the part accepts capsules, is not viral, and is in S0 (R408, R412, R426). -/
def serving (s : State) : Bool := s.svc.running && !s.svc.viral && s.svc.power = 0 && s.svc.exitAt.isNone

/-! ## Completions (R365, R420) -/

/-- The ring's region is not writable. -/
def ringBlocked (v : Vf) : Bool := v.ring.any fun r => !r.2.2.2

/-- A record is written into the next of the ring's 2^n entries of 32 bytes, and the send after it carries the new tail (R365, R420). -/
def Vf.deliver (v : Vf) : Vf :=
  { v with
    ringTail := v.ringTail + 1
    sends := match v.ring with
      | some (a, n, key, _) => v.sends ++ [(a + 32 * (v.ringTail % 2 ^ n), key, v.ringTail + 1)]
      | none => v.sends }

/-- A record is delivered, or held behind a ring that is not writable. In the viral state none is sent (R408). -/
def complete (c : Completion) (s : State) : State :=
  if s.svc.viral then s
  else
    let v := s.vf c.vf
    if !v.held.isEmpty then s.setVf c.vf { v with held := v.held ++ [c] }
    else if ringBlocked v then
      addDue (s.gcyc + 2 ^ 20) 9 c.vf (.completionRetry c.vf) (s.setVf c.vf { v with held := [c] })
    else { s.setVf c.vf v.deliver with done := s.done ++ [c] }

/-- The retry of held completions. -/
def retryHeld (vf : Nat) (s : State) : State :=
  let v := s.vf vf
  if v.held.isEmpty then s
  else if ringBlocked v then addDue (s.gcyc + 2 ^ 20) 9 vf (.completionRetry vf) s
  else { s.setVf vf (v.held.foldl (fun v _ => v.deliver) { v with held := [] }) with done := s.done ++ v.held }

def execCompletionRetry (vf : Nat) (s : State) : Out := onUnit (vf < 16) (retryHeld vf) s

/-! ## Capsules and queues (R363 to R365) -/

def capKind (c : Capsule) : Nat := (fld c.w0 0 8).toNat
def capQueue (c : Capsule) : Nat := (fld c.w0 8 2).toNat
def capTag (c : Capsule) : BitVec 16 := fld c.w0 16 16

/-- A completion record for a capsule in the cycle of the state. -/
def answer (c : Capsule) (status : Nat) (data : Word) (core : Nat) (bytes : List Byte) (s : State) : State :=
  complete ⟨c.vf, capTag c, fld c.w0 0 8, BitVec.ofNat 8 status, data, BitVec.ofNat 10 core, s.gcyc, bytes⟩ s

def queueOf (vf q : Nat) (s : State) : List Capsule := (s.vf vf).queues.toList.getD q []
def State.setQueue (s : State) (vf q : Nat) (cs : List Capsule) : State :=
  if h : q < 4 then s.setVf vf { s.vf vf with queues := (s.vf vf).queues.set q cs h } else s
def State.setBusy (s : State) (vf q : Nat) (b : Bool) : State :=
  if h : q < 4 then s.setVf vf { s.vf vf with busy := (s.vf vf).busy.set q b h } else s
def State.setHead (s : State) (vf q : Nat) (x : Option Head) : State :=
  if h : q < 4 then s.setVf vf { s.vf vf with heads := (s.vf vf).heads.set q x h } else s
def headBusy (vf q : Nat) (s : State) : Bool := (s.vf vf).busy.toList.getD q false
def headOf (vf q : Nat) (s : State) : Option Head := (s.vf vf).heads.toList.getD q none

/-- The head of a queue completes; the next entry reaches the head, and is looked at in cycle `next`. -/
def finish (next vf q status : Nat) (data : Word) (core : Nat) (bytes : List Byte) (s : State) : State :=
  match queueOf vf q s with
  | [] => s
  | c :: cs =>
    let s := answer c status data core bytes s
    let s := ((s.setQueue vf q cs).setBusy vf q false).setHead vf q none
    addDue next 2 (4 * vf + q) (.serve vf q) s

/-- A signal changes; a WAITSIG of the VF may be over (R367, R368). -/
def addSignal (vf n : Nat) (v : Word) (s : State) : State :=
  let x := s.vf vf
  wakeVf vf (if h : n < 64 then s.setVf vf { x with signals := x.signals.set n (x.signals[n] + v) h } else s)

/-! ## COPYIN, COPYOUT, SIGNAL, WAITSIG and QUERY (R364) -/

/-- Runs of the pages of a range up to the first page that fails, and whether none fails. -/
def hostPrefix (s : State) (vf : Nat) (read write : Bool) : Nat → Nat → Nat → List (Nat × Nat × Word) × Bool
  | 0, _, n => ([], n = 0)
  | fuel + 1, va, n =>
    if n = 0 then ([], true) else
    if 2 ^ 48 ≤ va then ([], false) else
    match walk s vf va with
    | .found p =>
      match permit s vf read write (some false) false p.raw with
      | some _ => ([], false)
      | none =>
        let k := min n (p.base + p.size - va)
        let r := hostPrefix s vf read write fuel (va + k) (n - k)
        ((pageRuns p.raw (k / 64 + 2) (va - p.base) k).map (fun x => (x.1, x.2, p.raw)) ++ r.1, r.2)
    | _ => ([], false)

def copyLen (c : Capsule) : Bool := 1 ≤ c.arg1.toNat && c.arg1.toNat ≤ 2 ^ 20

def serveCopyin (c : Capsule) (vf q : Nat) (s : State) : State :=
  if !copyLen c || c.payload.length ≠ c.arg1.toNat then finish s.gcyc vf q 2 0 0 [] s
  else
    let r := hostPrefix s vf false true (c.arg1.toNat / 65536 + 2) c.arg0.toNat c.arg1.toNat
    finish s.gcyc vf q (if r.2 then 0 else 3) 0 0 [] (ctlWriteRuns r.1 c.payload s)

/-- What the read of one run at a VA for a VF meets is logged: single-bit errors, a word that cannot be corrected, a unit that fails its tag
(R185, R397, R410, R411). The bytes are none where it fails: the read of the host path has no trap to take, so such a word ends it as a failed
tag does (log entry 24, DEDUCED). -/
def readRun (vf va : Nat) (r : Nat × Nat × Word) (s : State) : Option (List Byte) × State :=
  let log := fun (type a : Nat) => logEvent type 5 0x3FF vf (BitVec.ofNat 64 va) (BitVec.ofNat 64 a) 0
  match s.bad.find? (touchesWord r.1 r.2.1) with
  | some w => (none, log 2 (8 * w) s)
  | none =>
    let s := (s.softAt r.1 r.2.1).foldl (fun s w => nextScrub w (log 1 (8 * w) s)) s
    match (unitsOf r.1 r.2.1).find? fun u => (unitRead r.2.2 u s).isNone with
    | some u => (none, log 6 (256 * u) s)
    | none => (ctlRead s [r], s)

/-- The bytes of the runs from a VA on up to one that fails, and whether none does. -/
def readRuns (vf : Nat) : Nat → List (Nat × Nat × Word) → State → (List Byte × Bool) × State
  | _, [], s => (([], true), s)
  | va, r :: rs, s =>
    match readRun vf va r s with
    | (none, s) => (([], false), s)
    | (some bs, s) => let x := readRuns vf (va + r.2.1) rs s; ((bs ++ x.1.1, x.1.2), x.2)

def serveCopyout (c : Capsule) (vf q : Nat) (s : State) : State :=
  if !copyLen c then finish s.gcyc vf q 2 0 0 [] s
  else
    let r := hostPrefix s vf true false (c.arg1.toNat / 65536 + 2) c.arg0.toNat c.arg1.toNat
    let b := readRuns vf c.arg0.toNat r.1 s
    let ok := r.2 && b.1.2
    finish s.gcyc vf q (if ok then 0 else 3) (if ok then c.arg1 else 0) 0 b.1.1 (countAt 2 0 0x80 b.1.1.length b.2)

def serveSignal (c : Capsule) (vf q : Nat) (s : State) : State :=
  finish s.gcyc vf q 0 0 0 [] (addSignal vf (fld c.arg0 0 6).toNat c.arg1 s)

/-- A SIGNAL with INT = 1 raises the SIGNAL source of a context of a core of the VF (R347). -/
def serveInterrupt (c : Capsule) (vf q : Nat) (s : State) : State :=
  let k := (fld c.arg0 32 10).toNat
  if k < Config.cores && (s.vf vf).ownsCore k then
    finish s.gcyc vf q 0 0 0 [] (withCore k (fun s => s.mapCtxNum (bit c.arg0 48) fun x => { x with pendSig := true }) s)
  else finish s.gcyc vf q 2 0 0 [] s

def signalMet (c : Capsule) (vf : Nat) (s : State) : Bool :=
  c.arg1.toNat ≤ ((s.vf vf).signals.toList.getD (fld c.arg0 0 6).toNat 0).toNat

def serveWaitsig (c : Capsule) (vf q : Nat) (s : State) : State :=
  if signalMet c vf s then finish s.gcyc vf q 0 0 0 [] s else s

/-- Occupancies of the four queues, 8 bits each. -/
def occupancies (vf : Nat) (s : State) : Nat :=
  (List.range 4).foldl (fun n q => n + (queueOf vf q s).length * 256 ^ q) 0

def serveQuery (c : Capsule) (vf q : Nat) (s : State) : State :=
  match c.arg0.toNat with
  | 0 => finish s.gcyc vf q 0 (BitVec.ofNat 64 (occupancies vf s)) 0 [] s
  | 1 => finish s.gcyc vf q 0 ((s.vf vf).signals.toList.getD (fld c.arg1 0 6).toNat 0) 0 [] s
  | 2 => finish s.gcyc vf q 0 (BitVec.ofNat 64 (2 * (s.vf vf).pairs.length)) 0 [] s
  | _ => finish s.gcyc vf q 2 0 0 [] s

/-! ## The launch record and its checks (R366, R369, R378) -/

/-- A field of a 256-bit window record (R323). -/
def winFld (n lo w : Nat) : Nat := n / 2 ^ lo % 2 ^ w

/-- What is wrong with a window record in itself; its zero fields, route and slot fields are zero (R323, R366). A record with VALID = 0 is invalid
wherever it stands, below a used one too (R30, R369; log entry 34, DESIGN CHOICE). -/
def winBad (n : Nat) : Bool :=
  winFld n 160 32 ≠ 0 || winFld n 98 62 ≠ 0 || winFld n 64 34 ≠ 0 || winFld n 41 7 ≠ 0 || winFld n 63 1 = 0
    || winFld n 60 3 = 7 || winFld n 58 2 = 3 || 95 < winFld n 51 7 || (winFld n 58 2 = 1 && winFld n 48 3 ≠ 0)
    || winFld n 192 32 = 0 || winFld n 192 32 % 64 ≠ 0 || winFld n 224 32 < 64 || 2 ^ 26 < winFld n 224 32

/-- Check 6 for record i, which describes window i (log entry 14, DESIGN CHOICE). -/
def winRefused (vf i n : Nat) (s : State) : Bool :=
  winBad n || !(s.vf vf).podIdx.contains (winFld n 32 9) || ((s.window i).hops = 0 && winFld n 32 9 ≠ s.podIdx)

/-- The image that the loader reads at IMAGE: the object that lies there, or, where none does, whatever words the bytes make: the spec gives
an image no layout, so they are free (R369; log entry 14, DESIGN CHOICE). -/
def imageAt (vf q va : Nat) (s : State) : Image :=
  (s.images.find? fun i => i.vf = vf && i.va = BitVec.ofNat 64 va).getD
    (let ws := fun n => Config.foreignWords s.gcyc (4 * vf + q) n
     ⟨vf, BitVec.ofNat 64 va, 0, ws 0, ws 1, ws 2, ws 3, [], [], [], 0⟩)

/-- The image's bytes can be read (R111, R112, R369). -/
def imageReadable (i : Image) (s : State) : Bool := (hostRuns s i.vf true false i.va.toNat (max 1 i.size)).isSome

/-- The launch record, its window records and its image, where check 1 holds. -/
def readRecord (c : Capsule) (vf q : Nat) (s : State) : Option Head :=
  let va := c.arg0.toNat
  if va % 32 ≠ 0 then none else
  match hostGet vf va 32 s with
  | none => none
  | some b =>
    let w1 := field b 8 8
    let w2 := field b 16 8
    let w3 := field b 24 8
    let nwin := w3 % 256
    let zero := winFld w1 10 6 = 0 && winFld w1 26 6 = 0 && winFld w1 45 3 = 0 && winFld w1 60 4 = 0 && w2 / 2 ^ 48 = 0
      && w3 / 256 = 0 && nwin ≤ 64
    let img := imageAt vf q (field b 0 8) s
    match hostGet vf (va + 32) (32 * nwin) s with
    | some wb =>
      if !zero || !imageReadable img s then none
      else some
        { launch :=
            { id := 0, vf := vf, queue := q, tag := capTag c, first := winFld w1 0 10, count := winFld w1 16 10
              partw := BitVec.ofNat 64 (winFld w1 32 13), dom := BitVec.ofNat 4 (winFld w1 48 4), sig := winFld w1 52 6
              timed := winFld w1 58 1 = 1, urg := winFld w1 59 1 = 1, gx := winFld w2 0 16, gy := winFld w2 16 16
              gz := winFld w2 32 16, image := img, g := 0, slice := 0, todo := [], live := [], parked := false, fail := none
              since := 0 }
          wins := (List.range nwin).map fun i => field wb (32 * i) 32 }
    | none => none

/-- The bytes that a data record loads (R28, R29). -/
def DataRec.all (d : DataRec) : List Byte := d.bytes ++ List.replicate d.zeros 0
def DataRec.length (d : DataRec) : Nat := d.bytes.length + d.zeros

def launchCores (l : Launch) : List Nat := (List.range l.count).map fun i => l.first + i
def launchClusters (l : Launch) : List Nat :=
  (List.range Config.clusters).filter fun c => 8 * c < l.first + l.count && l.first < 8 * c + 8 && 0 < l.count
def launchGroups (l : Launch) : Nat := l.gx * l.gy * l.gz
def domClu (l : Launch) : Bool := l.dom.getLsbD 1
def domPod (l : Launch) : Bool := l.dom.getLsbD 3

/-- Checks 2 to 7 and 9, and that an urgent launch is not timed. -/
def launchOk (h : Head) (s : State) : Bool :=
  let l := h.launch
  let v := s.vf l.vf
  (1 ≤ l.count && l.first + l.count ≤ Config.cores && (launchCores l).all v.ownsCore)
    && partValid l.partw
    && (l.dom = 1 || l.dom = 3 || l.dom = 7 || l.dom = 15)
    && (l.image.data.all fun d => d.space ≠ 1 || (launchClusters l).all fun c =>
      match v.sliceOf c with | some (_, size) => decide (d.off + d.length ≤ size) | none => false)
    && !(h.wins.zipIdx.any fun x => winRefused l.vf x.2 x.1 s)
    && !(l.timed && l.count < launchGroups l)
    && !(l.urg && l.timed)
    && (l.image.data.all fun d => d.space ≠ 0 || (hostRuns s l.vf false true d.off d.length).isSome)

/-- A LAUNCH has reached the head: its checks are made, and the first failure refuses it. -/
def checkHead (c : Capsule) (vf q : Nat) (s : State) : State :=
  if headBusy vf q s then s
  else if (headOf vf q s).isSome then addDue s.gcyc 2 64 .launchDispatch s
  else
    match readRecord c vf q s with
    | none => finish s.gcyc vf q 2 0 0 [] s
    | some h =>
      if launchOk h s then addDue s.gcyc 2 64 .launchDispatch (s.setHead vf q (some h)) else finish s.gcyc vf q 2 0 0 [] s

/-- The dispatcher looks at the head of one queue (R365, R368). -/
def serveHead (vf q : Nat) (s : State) : State :=
  if !serving s || (s.vf vf).resetting.isSome then s
  else
    match queueOf vf q s with
    | [] => s
    | c :: _ =>
      match capKind c with
      | 1 => checkHead c vf q s
      | 2 => serveCopyin c vf q s
      | 3 => serveCopyout c vf q s
      | 4 => if bit c.arg0 16 then serveInterrupt c vf q s else serveSignal c vf q s
      | 5 => serveWaitsig c vf q s
      | _ => serveQuery c vf q s

/-- Serve the head of a queue if it is a capsule of which p holds. -/
def serveIf (p : Capsule → Bool) (vf q : Nat) (s : State) : Out :=
  onUnit (vf < 16 && q < 4) (fun s => if (queueOf vf q s).head?.any p then serveHead vf q s else s) s

def execCopyin (vf q : Nat) (s : State) : Out := serveIf (fun c => capKind c = 2) vf q s
def execCopyout (vf q : Nat) (s : State) : Out := serveIf (fun c => capKind c = 3) vf q s
def execSignalAdd (vf q : Nat) (s : State) : Out := serveIf (fun c => capKind c = 4 && !bit c.arg0 16) vf q s
def execSignalInterrupt (vf q : Nat) (s : State) : Out := serveIf (fun c => capKind c = 4 && bit c.arg0 16) vf q s
def execWaitsigComplete (vf q : Nat) (s : State) : Out := serveIf (fun c => capKind c = 5) vf q s
def execQueryQueues (vf q : Nat) (s : State) : Out := serveIf (fun c => capKind c = 7 && c.arg0 = 0) vf q s
def execQuerySignal (vf q : Nat) (s : State) : Out := serveIf (fun c => capKind c = 7 && c.arg0 = 1) vf q s
def execQueryCores (vf q : Nat) (s : State) : Out := serveIf (fun c => capKind c = 7 && c.arg0 = 2) vf q s

/-! ## Readiness and choice (R368, R378) -/

/-- Some launch that is not parked has a group to start on the core. -/
def claimed (k : Nat) (s : State) : Bool := s.launches.any fun l => !l.parked && l.todo.any fun t => t.1 = k

/-- The core is idle in context 0. -/
def idleZero (k : Nat) (s : State) : Bool := (s.coreAt k).zero.group.isNone && !claimed k s

/-- An urgent group can be placed in context 1 of the core. -/
def urgentFits (l : Launch) (k : Nat) (s : State) : Bool :=
  let c := s.coreAt k
  c.zero.group.any (fun g => g.vf = l.vf) && c.partw = l.partw && partC c.partw = 2 && c.one.group.isNone
    && !(s.launches.any fun m => m.urg && !m.parked && m.todo.any fun t => t.1 = k)

/-- Ready but for cores of which `free` holds. -/
def readyBut (free : Nat → Bool) (l : Launch) (s : State) : Bool :=
  ((launchCores l).all fun k => free k || idleZero k s || (l.urg && urgentFits l k s))
    && !(domClu l && (launchClusters l).any fun c => s.winHold.any fun w => w.1 = c && w.2 ≠ l.id)
    && !(domPod l && s.pod.holder.isSome)

/-- The launch at the head of a queue that could be dispatched: one that has passed its checks, or one that is parked. -/
def candidate (vf q : Nat) (s : State) : Option Launch :=
  let v := s.vf vf
  if v.resetting.isSome || v.paused || v.pausing then none
  else if headBusy vf q s then s.launches.find? fun l => l.vf = vf && l.queue = q && l.parked && l.live.isEmpty
  else (headOf vf q s).map Head.launch

def readyAtQueue (vf q : Nat) (s : State) : Bool := (candidate vf q s).any fun l => readyBut (fun _ => false) l s

def weightOf (vf : Nat) (s : State) : Nat := (s.vf vf).weight.toNat

/-- Weighted round robin among VFs with ready heads at one priority: the VF and how many dispatches it has had in its turn. -/
def chooseVf (vfs : List Nat) (s : State) : Option (Nat × Nat) :=
  let pos := vfs.filter fun v => 0 < weightOf v s
  let from' := if pos.isEmpty then vfs else pos
  let cur := s.rr.1
  if from'.contains cur && s.rr.2 < max 1 (weightOf cur s) then some (cur, s.rr.2 + 1)
  else (((List.range 16).map fun j => (cur + 1 + j) % 16).find? from'.contains).map fun v => (v, 1)

/-- The queue and VF to be served next. -/
def chooseHead (s : State) : Nat → Option (Nat × Nat × Nat)
  | 0 => none
  | q + 1 =>
    match chooseVf ((List.range 16).filter fun v => readyAtQueue v q s) s with
    | some (v, n) => some (v, n, q)
    | none => chooseHead s q

/-! ## The loader (R28, R36, R258, R323, R370) -/

/-- The array of a pair as R258 sets it. -/
def resetArray (j : Nat) (s : State) : State :=
  let clr := fun (c : Ctx) => { c with fq := [], tq := [] }
  let one := fun (k : Nat) (s : State) => withCore k (fun s => { s with core := { s.core with ctx := clr s.core.ctx, shadow := clr s.core.shadow } }) s
  let s := one (2 * j) (one (2 * j + 1) s)
  let lo := slotAddr j 0
  let za := accAddr j 0
  let out := fun (w : Nat) => !wholeWord lo (16 * 32768) w && !wholeWord za (4 * 65536) w
  let s := { s with
    mem := memZero (memZero s.mem lo (lo + 16 * 32768)) za (za + 4 * 65536), bad := s.bad.filter out, soft := s.soft.filter out }
  if s.arr.idx = j then { s with arr := .idle j } else { s with arrs := s.arrs.filter fun a => a.idx ≠ j }

/-- A core passes from one VF to another: what step 3 of function-level reset clears on it (R370, R381). -/
def clearCore (k : Nat) (s : State) : State :=
  withCore k (fun s =>
    let lo := poolAddr k 0
    let clr := fun (x : Ctx) =>
      let t := fun (st : Strand) => { st with tickets := Vector.replicate 64 0 }
      { x with
        c := t x.c, a := t x.a, v := t x.v, m := t x.m, vregs := Vector.replicate 32 0, vdead := 0
        tokens := Vector.replicate 16 0, acc := [], auHalt := false, waits := [], fq := [], tq := [], replies := [] }
    { s with
      mem := memZero s.mem lo (lo + 2 ^ 21)
      bad := s.bad.filter fun w => !wholeWord lo (2 ^ 21) w
      soft := s.soft.filter fun w => !wholeWord lo (2 ^ 21) w
      bars := s.bars.filter fun b => !(64 * k ≤ b.key && b.key < 64 * k + 48)
      core := { s.core with
        ctx := clr s.core.ctx, shadow := clr s.core.shadow, eng := { s.core.eng with rbrec := [], wc := [] } } }) s

/-- The windows of a cluster are zeroed (R294). -/
def zeroWindows (c : Nat) (s : State) : State :=
  cleanBars (fun k => 49152 + 64 * c + 48 ≤ k && k < 49152 + 64 * c + 64) { s with bars := s.bars.filter fun b => !(49152 + 64 * c + 48 ≤ b.key && b.key < 49152 + 64 * c + 64) }

/-- The windows a launch has configured are in use no more (R100). -/
def dropWindows (id : Nat) (s : State) : State :=
  (List.range 64).foldl (fun s i =>
    if (s.window i).valid && (s.window i).launch = id then s.setWindow i { s.window i with valid := false } else s) s

/-- One data record of an image: to every core, to every cluster, or once to GLOBAL (R28). -/
def loadData (l : Launch) (again : Bool) (d : DataRec) (s : State) : State :=
  match d.space with
  | 0 => if again then s else (hostPut l.vf d.off d.all s).getD s
  | 1 => (launchClusters l).foldl (fun s c =>
      match (s.vf l.vf).sliceOf c with | some (base, _) => s.poke (clusterAddr c (base + d.off)) d.all | none => s) s
  | _ => (launchCores l).foldl (fun s k => s.poke (poolAddr k d.off) d.all) s

/-- The target fields of window i, and its allowance, for the launch that configures it. -/
def loadWindow (id i n : Nat) (s : State) : State :=
  s.setWindow i { s.window i with
    allow := winFld n 224 32, size := winFld n 192 32, valid := true, rule := winFld n 60 3, tsp := winFld n 58 2
    tclu := winFld n 51 7, tcore := winFld n 48 3, tgt := winFld n 32 9, left := winFld n 224 32, launch := id }

def Image.section (i : Image) : StrandId → List W32
  | .C => i.c | .A => i.a | .V => i.v | .M => i.m
def Image.setSection (i : Image) (st : StrandId) (ws : List W32) : Image :=
  match st with
  | .C => { i with c := ws } | .A => { i with a := ws } | .V => { i with v := ws } | .M => { i with m := ws }

def Image.setWord (i : Image) (st : StrandId) (n : Nat) (w : W32) : Image := i.setSection st ((i.section st).set n w)

/-- The byte string of R293 for a segment of an image. -/
def sigBytes (i : Image) (r : SigReloc) : List Byte :=
  r.issues.flatMap fun n => leBytes 2 n.1 ++ n.2.flatMap fun w => leBytes 4 ((i.section w.1).getD w.2 0).toNat

/-- The relocations of R36: every STAMP32 and ALIGNG, then every SIG in image order. -/
def relocate (g : Nat) (i : Image) : Image :=
  let i := i.relocs.foldl (fun i r => i.setWord r.strand r.word (BitVec.ofInt 32 ((g : Int) + r.n))) i
  i.sigs.foldl (fun i r => i.setWord r.strand r.word (crc32c (sigBytes i r))) i

/-- g of R370. -/
def chooseG (gbase : Nat) (s : State) : Nat := if gbase ≠ 0 then gbase else (s.gcyc + 65536 + 4095) / 4096 * 4096

/-- Check 8. -/
def gbaseOk (l : Launch) (gbase : Nat) (s : State) : Bool :=
  if gbase = 0 then !domPod l else gbase % 4096 = 0 && s.gcyc + 65536 ≤ gbase

/-- The first groups: one a core; a timed launch places no other (R299). -/
def firstGroups (l : Launch) : List (Nat × Nat × Nat) :=
  ((List.range l.count).filter fun j => j < launchGroups l).map fun j => (l.first + j, j, 0)

/-- Both cores of the pair are idle in both contexts. -/
def pairIdle (j : Nat) (s : State) : Bool :=
  [2 * j, 2 * j + 1].all fun k => (s.coreAt k).zero.group.isNone && (s.coreAt k).one.group.isNone && !claimed k s

/-- The package enters the steps of a pod launch (R326). -/
def holdPod (id : Nat) (s : State) : State :=
  { s with pod := { s.pod with
    holder := some id, stepno := 0, bounds := [], opened := [], waiting := [], bound := none, later := [], steppers := [], closed := false, causes := 0
    nextCauses := 0, own := 0, ownErr := false, result := none, plinth := [], nextPlinth := [], used := 0, seen := []
    applies := [] } }

/-- Loading: arrays, cores, cluster windows, data and window records (R370). -/
def load (l : Launch) (wins : List Nat) (again : Bool) (s : State) : State :=
  let ks := launchCores l
  let pairs := (List.range 384).filter fun j => 2 * j < l.first + l.count && l.first < 2 * j + 2 && pairIdle j s
  let s := pairs.foldl (fun s j => resetArray j s) s
  let s := (ks.filter fun k => (s.coreAt k).lastVf.any fun v => v ≠ l.vf).foldl (fun s k => clearCore k s) s
  let s := if domClu l then (launchClusters l).foldl (fun s c => zeroWindows c { s with winHold := (c, l.id) :: s.winHold.filter fun w => w.1 ≠ c }) s else s
  let s := l.image.data.foldl (fun s d => loadData l again d s) s
  let s := wins.zipIdx.foldl (fun s x => loadWindow l.id x.2 x.1 s) s
  let set := fun (s : State) =>
    let busy := s.core.ctx.group.isSome || s.core.shadow.group.isSome
    { s with core := { s.core with
      partw := l.partw, lastVf := some l.vf, eng := if busy then s.core.eng else { s.core.eng with rbrec := [] } } }
  ks.foldl (fun s k => withCore k set s) s

/-- The groups' first issues come when loading ends (R370). -/
def startLoading (l : Launch) (s : State) : State :=
  let d := draw s
  let t := s.gcyc + 1 + Config.loadDelay d.1
  let l := { l with since := t, slice := (s.vf l.vf).slice.toNat }
  let s := { d.2 with launches := d.2.launches.map fun m => if m.id = l.id then l else m }
  let s := l.todo.foldl (fun s x => addDue t 2 x.1 (.groupStart x.1) s) s
  if l.slice = 0 || domPod l then s else addDue (t + l.slice) 2 (65 + l.id) (.sliceExpiry l.id) s

/-- A launch that has been selected is dispatched (R370, R371). -/
def dispatchNew (h : Head) (gbase : Nat) (s : State) : State :=
  let l := h.launch
  if !gbaseOk l gbase s then finish (s.gcyc + 1) l.vf l.queue 2 0 0 [] s
  else if launchGroups l = 0 then
    finish (s.gcyc + 1) l.vf l.queue 0 0 0 [] (addSignal l.vf l.sig 1 s)
  else
    let i := takeId s
    let g := chooseG gbase s
    let l := { l with id := i.1, g := g, image := relocate g l.image, todo := firstGroups l }
    let s := load l h.wins false i.2
    let s := if domPod l then holdPod l.id s else s
    startLoading l ((({ s with launches := s.launches ++ [l] }).setBusy l.vf l.queue true))

/-- A parked launch that has been selected again is loaded under a new g; its parked groups come first (R376; log entry 33, DEDUCED). -/
def dispatchAgain (l : Launch) (gbase : Nat) (s : State) : State :=
  let g := if gbaseOk l gbase s then chooseG gbase s else chooseG 0 s
  let img := ((s.images.find? fun i => i.vf = l.vf && i.va = l.image.va).getD l.image)
  let l := { l with g := g, image := relocate g img, parked := false }
  let s := load l (((headOf l.vf l.queue s).map Head.wins).getD []) true s
  startLoading l s

/-- The dispatcher takes one ready head (R368). -/
def dispatchStep (s : State) : State :=
  if !serving s then s
  else
    match chooseHead s 4 with
    | none => s
    | some (vf, n, q) =>
      let s := wakeDispatch { s with rr := (vf, n) }
      let gbase := ((queueOf vf q s).head?.map fun c => c.arg1.toNat).getD 0
      match candidate vf q s with
      | none => s
      | some l =>
        if headBusy vf q s then dispatchAgain l gbase s
        else match headOf vf q s with
          | some h => dispatchNew h gbase s
          | none => s

def execLaunchDispatch (s : State) : Out := .next (dispatchStep s)

/-! ## Launch groups (R63, R176, R216, R283, R299) -/

def State.launch (s : State) (id : Nat) : Option Launch := s.launches.find? fun l => l.id = id
def State.setLaunch (s : State) (l : Launch) : State :=
  { s with launches := s.launches.map fun m => if m.id = l.id then l else m }

/-- The group coordinates in DOMAIN. -/
def domainOf (l : Launch) (n : Nat) : Word :=
  BitVec.ofNat 64 (l.dom.toNat + n % l.gx % 65536 * 2 ^ 16 + n / l.gx % l.gy % 65536 * 2 ^ 32 + n / (l.gx * l.gy) % 65536 * 2 ^ 48)

/-- A strand at the first issue of a group; s1 of a parked group's strands holds its boundary count (R63, R376). -/
def startStrand (ws : List W32) (s1 cyc : Nat) : Strand :=
  { Strand.idle.put 1 (BitVec.ofNat 64 s1) with image := ws, halted := false, next := cyc }

/-- A context at the first issue of a group; its pending sources, tick comparator and stores still to perform stay. -/
def startCtx (l : Launch) (n s1 cyc : Nat) (old : Ctx) : Ctx :=
  { Ctx.idle with
    c := startStrand l.image.c s1 cyc, a := startStrand l.image.a s1 cyc, v := startStrand l.image.v s1 cyc
    m := startStrand l.image.m s1 cyc, acc := old.acc, auHalt := old.auHalt, waits := old.waits, tick := old.tick
    pendTick := old.pendTick, pendSig := old.pendSig, pendUrg := old.pendUrg
    group := some ⟨l.id, l.vf, n, n % l.gx, n / l.gx % l.gy, n / (l.gx * l.gy), none⟩ }

/-- The core's own barriers are zero, and no stream has been numbered (R153, R294). -/
def zeroShared (s : State) : State :=
  let k := s.core.idx
  cleanBars (fun b => 64 * k ≤ b && b < 64 * k + 48) { s with
    bars := s.bars.filter fun b => !(64 * k ≤ b.key && b.key < 64 * k + 48)
    core := { s.core with eng := { s.core.eng with serial := 0 } } }

/-- What is left of a core's groups when one starts: the next one of a free launch (R299) in which no group has failed (R371). -/
def nextGroups (l : Launch) (t : Nat × Nat × Nat) : List (Nat × Nat × Nat) :=
  let rest := l.todo.filter fun x => x ≠ t
  if t.2.2 ≠ 0 || l.timed || l.fail.isSome || launchGroups l ≤ t.2.1 + l.count then rest else rest ++ [(t.1, t.2.1 + l.count, 0)]

/-- The launch's clock of running cycles up to the cycle of the state (R374). -/
def settleSlice (upto : Nat) (l : Launch) : Launch :=
  if l.live.isEmpty then l else { l with slice := l.slice - (upto - l.since), since := max l.since upto }

/-- A group starts on the core in focus. -/
def startGroup (l : Launch) (t : Nat × Nat × Nat) (s : State) : State :=
  let k := s.core.idx
  let l' := { settleSlice s.gcyc l with todo := nextGroups l t, live := l.live ++ [(k, t.2.1)], since := max l.since s.gcyc }
  let s := s.setLaunch l'
  let s := if l.live.isEmpty && (s.vf l.vf).slice ≠ 0 && !domPod l then
      addDue (s.gcyc + l'.slice) 2 (65 + l.id) (.sliceExpiry l.id) s else s
  let s := wakeDispatch s
  if s.core.zero.group.isNone then
    let c := s.core
    zeroShared { s with core := { c with
      ctx := startCtx l t.2.1 t.2.2 s.gcyc c.ctx, domain := domainOf l t.2.1, syncmask := l.image.mask
      trapbase := 0, tcause := 0, tval := 0, seg := none, slip := 0, replay := none, deferred := none, parking := none } }
  else
    let c := s.core
    { s with core := { c with
      ctx := { c.ctx with pendUrg := true }
      shadow := startCtx l t.2.1 t.2.2 s.gcyc c.shadow
      otherDomain := domainOf l t.2.1, otherMask := l.image.mask, otherSeg := none, otherSlip := 0, otherDeferred := none } }

/-- A launch whose groups the dispatcher starts now: loaded, not parked, and not of a VF that is reset or pauses. -/
def mayStart (l : Launch) (s : State) : Bool :=
  let v := s.vf l.vf
  !l.parked && l.since ≤ s.gcyc && v.resetting.isNone && (domPod l || !(v.pausing || v.paused))

/-- The core has a context for a group of the launch, whose previous group on the core has ended (R299). -/
def hasContext (l : Launch) (s : State) : Bool :=
  !(l.live.any fun x => x.1 = s.core.idx)
    && (s.core.zero.group.isNone || (l.urg && !s.core.second && s.core.shadow.group.isNone))

/-- The first launch with a group to start on the core in focus, and that group; a parked group comes first. -/
def groupToStart (s : State) : Option (Launch × Nat × Nat × Nat) :=
  match s.launches.find? fun l => mayStart l s && hasContext l s && l.todo.any fun t => t.1 = s.core.idx with
  | none => none
  | some l => (l.todo.find? fun t => t.1 = s.core.idx).map fun t => (l, t)

/-- The first issue of a group is due on the core in focus; for context 1's, behind a CTXSW, the barriers are zero (R294, R359). -/
def groupStep (s : State) : State :=
  if s.core.second && s.ctx.c.next = s.gcyc && s.ctx.c.pc = 0 && s.ctx.group.isSome then zeroShared s
  else if s.core.stopped then s
  else
    match groupToStart s with
    | none => s
    | some (l, t) => addDue s.gcyc 2 s.core.idx (.groupStart s.core.idx) (startGroup l t s)

def execGroupStart (k : Nat) (s : State) : Out := onCore k groupStep s

/-! ## The end of a group (R93, R259, R299, R361, R371) -/

/-- Every engine command of the running context has completed: what the other context has accepted runs on or stays queued (R93, R359,
R360; log entry 34, DESIGN CHOICE). -/
def enginesIdle (s : State) : Bool :=
  let e := s.core.eng
  let x := s.core.second
  e.copyBuf.all (fun c => c.second ≠ x) && e.copyRun.all (fun c => c.second ≠ x) && e.olds.all (fun o => o.second ≠ x)
    && e.oloads.all (fun o => o.second ≠ x) && e.drains.all (fun d => d.second ≠ x) && e.gathers.all (fun g => g.second ≠ x)
    && e.mres.all (fun m => m.2.2.2.second ≠ x) && e.redo.isEmpty && s.ctx.tq.isEmpty

def noFlights (x : Ctx) : Bool := x.c.flights.isEmpty && x.a.flights.isEmpty && x.v.flights.isEmpty && x.m.flights.isEmpty
def allHalted (x : Ctx) : Bool := x.c.halted && x.a.halted && x.v.halted && x.m.halted

/-- The running context's group is over. -/
def groupOver (s : State) : Bool :=
  let x := s.ctx
  x.group.isSome && allHalted x && noFlights x && !x.inHandler s.gcyc && enginesIdle s
    && (s.core.deferred.isNone || x.group.any fun g => g.failed.isSome) && s.core.parking.isNone

/-- The core's claims are released (R259). -/
def releaseClaims (s : State) : State :=
  (List.range 16).foldl (fun s x => if s.claims x then s.setSlot x { s.slot x with owner := none } else s) s

/-- A parked launch gives up the windows of clusters on which none of its groups runs (R376). -/
def freeWindows (id : Nat) (s : State) : State :=
  match s.launch id with
  | none => s
  | some l =>
    if l.parked then { s with winHold := s.winHold.filter fun w => !(w.2 = id && !l.live.any fun x => x.1 / 8 = w.1) } else s

/-- The VF may be paused now (R434). -/
def wakePause (vf : Nat) (s : State) : State := if (s.vf vf).pausing then addDue s.gcyc 9 (2000 + vf) (.vfPaused vf) s else s

/-- A group leaves the core: the launch's account of it, and what follows. Once a group has failed no other that has not started is started;
one that has parked has started, and is dispatched again (R371, R376). -/
def leaveGroup (g : Group) (back : Option Nat) (s : State) : State :=
  match s.launch g.launch with
  | none => s
  | some l =>
    let k := s.core.idx
    let l := settleSlice (s.gcyc + 1) l
    let l := { l with live := l.live.filter fun x => x ≠ (k, g.n) }
    let l := match g.failed with
      | some (c, v) =>
        { l with
          todo := l.todo.filter fun t => t.2.2 ≠ 0
          fail := match l.fail with
            | none => some (c, k, v)
            | some (c', k', v') => if c < c' || (c = c' && k < k') then some (c, k, v) else some (c', k', v') }
      | none => l
    let l := match back with
      | some n => { l with todo := (k, g.n, n) :: l.todo, parked := true }
      | none => l
    let held := l.live.isEmpty && !l.todo.isEmpty && (s.vf l.vf).pausing && !domPod l
    let l := { l with parked := l.parked || held }
    let s := wakePause l.vf (wakeDispatch (freeWindows l.id (s.setLaunch l)))
    let s := { s with core := { s.core with ended := some (s.gcyc, g.vf) } }
    if l.live.isEmpty && l.todo.isEmpty then addDue s.gcyc 9 (3000 + l.id) (.launchComplete l.id) s
    else addDue (s.gcyc + 1) 2 k (.groupStart k) s

/-- A group placed in context 1 that has not been entered when context 0 becomes idle, with no other launch's group to start there, runs in
context 0 (R378; log entry 33, DEDUCED). -/
def replaceUrgent (s : State) : State :=
  match s.core.shadow.group with
  | none => s
  | some g =>
    if s.core.second || (s.launches.any fun l => l.id ≠ g.launch && mayStart l s && l.todo.any fun t => t.1 = s.core.idx) then s
    else
      match s.launch g.launch with
      | none => s
      | some l =>
        let n := (s.core.shadow.c.get 1).toNat
        let s := s.setLaunch { l with
          live := l.live.filter (fun x => x ≠ (s.core.idx, g.n))
          todo := (s.core.idx, g.n, n) :: l.todo.filter fun t => t.1 ≠ s.core.idx || t.2.1 ≤ g.n || n ≠ 0 }
        addDue (s.gcyc + 1) 2 s.core.idx (.groupStart s.core.idx)
          { s with core := { s.core with shadow := { s.core.shadow with group := none }, ctx := { s.core.ctx with pendUrg := false } } }

/-- The group of the core in focus ends; one of a VF that is reset does not, its launch answers RESET (R381). -/
def groupEndStep (s : State) : State :=
  if !groupOver s || s.core.stopped then s
  else
    match s.ctx.group with
    | none => s
    | some g =>
      let k := s.core.idx
      let s := if s.core.eng.stream.any fun x => x.second = s.core.second then closeStream s else s
      let s := releaseClaims s
      let more := (s.launch g.launch).any fun l => l.todo.any fun t => t.1 = k
      let s := { s with core := { s.core with
        ctx := { s.core.ctx with group := none, fq := [], handler := .none, frame := none }
        seg := none, slip := 0, deferred := none, request := s.core.request && (s.core.second || more) } }
      let s := leaveGroup g none s
      if s.core.second then addDue (s.gcyc + 4) 2 k (.switchBack k) s else replaceUrgent s

def execGroupEnd (k : Nat) (s : State) : Out := onCore k groupEndStep s

/-! ## Completion of a launch (R365, R367, R371) -/

/-- Every write of the launch's cores has been performed: the completion releases it (R365). -/
def writesDone (l : Launch) (s : State) : Bool :=
  (launchCores l).all fun k =>
    let c := s.coreAt k
    let p := fun (x : Ctx) => x.acc.all fun a => !a.pendingAt s.gcyc || a.done || a.cancelled
    p c.ctx && p c.shadow && c.eng.wc.isEmpty

def completeLaunch (id : Nat) (s : State) : State :=
  match s.launch id with
  | none => s
  | some l =>
    if !l.live.isEmpty || !l.todo.isEmpty || (s.vf l.vf).resetting.isSome then s
    else if !writesDone l s then addDue (s.gcyc + 1) 9 (3000 + id) (.launchComplete id) s
    else
      let s := dropWindows id s
      let s := { s with launches := s.launches.filter (fun m => m.id ≠ id), winHold := s.winHold.filter fun w => w.2 ≠ id }
      let s := if s.pod.holder = some id then releasePod s else s
      let s := wakePause l.vf (addSignal l.vf l.sig 1 (wakeDispatch s))
      match l.fail with
      | none => finish (s.gcyc + 1) l.vf l.queue 0 0 0 [] s
      | some (_, k, v) => finish (s.gcyc + 1) l.vf l.queue 1 v k [] s

def execLaunchComplete (l : Nat) (s : State) : Out := .next (completeLaunch l s)

/-! ## Slices and parks (R374, R376) -/

/-- A pre-emption request goes to every core that runs a group of the launch. -/
def requestPark (l : Launch) (s : State) : State :=
  l.live.foldl (fun s x => withCore x.1 (fun s => { s with core := { s.core with request := true } }) s) s

/-- A head of another VF, at this priority or above, needs a core of the launch and is ready but for it. -/
def rivalReady (l : Launch) (s : State) : Bool :=
  (List.range 16).any fun v => v ≠ l.vf && [0, 1, 2, 3].any fun q => l.queue ≤ q
    && (candidate v q s).any fun m =>
      (launchCores m).any (fun k => l.live.any fun x => x.1 = k) && readyBut (fun k => l.live.any fun x => x.1 = k) m s

def sliceStep (id : Nat) (s : State) : State :=
  match s.launch id with
  | none => s
  | some l0 =>
    let l := settleSlice s.gcyc l0
    let n := (s.vf l.vf).slice.toNat
    if n = 0 || domPod l || l.parked then s
    else if l.live.isEmpty then s
    else if l.slice ≠ 0 then addDue (s.gcyc + l.slice) 2 (65 + id) (.sliceExpiry id) (s.setLaunch l)
    else if rivalReady l s then requestPark l (s.setLaunch l)
    else addDue (s.gcyc + n) 2 (65 + id) (.sliceExpiry id) (s.setLaunch { l with slice := n })

def execSliceExpiry (l : Nat) (s : State) : Out := .next (sliceStep l s)

/-- A park goes on when every accepted command has completed: the stream closes, a record is made, and the core is released. -/
def parkStep (s : State) : State :=
  let k := s.core.idx
  match s.core.parking, s.ctx.group with
  | some (n, pc, str), some g =>
    if !enginesIdle s || agentHolds 7 s.core then addDue (s.gcyc + 1) 9 k (.park k) s
    else
      let s := if s.core.eng.stream.any fun x => x.second = s.core.second then closeStream s else s
      let s := releaseClaims (raiseRec (mkRec s 0x1D pc str 7 (BitVec.ofNat 64 n) false 0) s)
      let halt := fun (t : Strand) => { t with halted := true, held := false, waitg := none, flights := [] }
      let s := { s with core := { s.core with
        parking := none
        ctx := { s.core.ctx with
          c := halt s.core.ctx.c, a := halt s.core.ctx.a, v := halt s.core.ctx.v, m := halt s.core.ctx.m, group := none, fq := [] } } }
      let s := leaveGroup g (some n) s
      if s.core.second then addDue (s.gcyc + 4) 2 k (.switchBack k) s else replaceUrgent s
  | _, _ => s

def execPark (k : Nat) (s : State) : Out := onCore k parkStep s

end Sys2Proof.Machine
end

