-- ==== Sys2Proof/Machine/Scalar.lean ====
section
/-!
DEFINITION. Machine/Scalar.lean: the ALU, MULDIV, BITS and ADDR groups, the immediate forms and the constants (R67 to R73).
-/
namespace Sys2Proof.Machine

/-- A two-source instruction of the RRR groups (R68). -/
def issueRRR (h : Hdr) (f : R3) (lat : Nat) (op : Word → Word → Word) (s : State) : Out :=
  issueS h (usesR3 f) lat f.d (fun s => op (s.rs f.a) (s.rs f.b)) s

/-- A one-source instruction of the RRR groups (R68, R71). -/
def issueRR (h : Hdr) (f : R2) (op : Word → Word) (s : State) : Out :=
  issueS h (usesR2 f) 1 f.d (fun s => op (s.rs f.a)) s

/-- An immediate form (R72). -/
def issueRRI (h : Hdr) (f : RI10) (op : Word → Word) (s : State) : Out :=
  issueS h (usesRI10 f) 1 f.d (fun s => op (s.rs f.a)) s

/-- Leading zero bits (R68). -/
def clzNat (a : Word) : Nat := if a = 0 then 64 else 63 - a.toNat.log2

/-- One bits (R68, R253). -/
def popcount (w x : Nat) : Nat := (List.range w).foldl (fun n i => if x.testBit i then n + 1 else n) 0

/-- The values of the ALU group (R68). -/
def aluShl (a b : Word) : Word := a <<< (b.toNat % 64)
def aluShr (a b : Word) : Word := a >>> (b.toNat % 64)
def aluSar (a b : Word) : Word := a.sshiftRight (b.toNat % 64)
def aluSlt (a b : Word) : Word := flag (a.slt b)
def aluSltn (a b : Word) : Word := flag (a.ult b)
def aluSeq (a b : Word) : Word := flag (a == b)

/-- The high halves of products (R68). -/
def mulHigh (a b : Word) : Word := BitVec.ofInt 64 ((a.toInt * b.toInt) / 2 ^ 64)
def mulHighN (a b : Word) : Word := BitVec.ofNat 64 (a.toNat * b.toNat / 2 ^ 64)

/-- Division (R70). It never traps; −2^63 divided by −1 wraps to −2^63. -/
def divS (a b : Word) : Word := if b = 0 then BitVec.allOnes 64 else BitVec.ofInt 64 (a.toInt.tdiv b.toInt)
def divU (a b : Word) : Word := if b = 0 then BitVec.allOnes 64 else BitVec.ofNat 64 (a.toNat / b.toNat)
def remS (a b : Word) : Word := if b = 0 then a else BitVec.ofInt 64 (a.toInt.tmod b.toInt)

/-- PMAKE (R71). -/
def pmake (a b : Word) : Word := fld b 0 16 ++ fld a 0 48

def execAdd (h : Hdr) (f : R3) (s : State) : Out := issueRRR h f 1 (fun a b => a + b) s
def execSub (h : Hdr) (f : R3) (s : State) : Out := issueRRR h f 1 (fun a b => a - b) s
def execAnd (h : Hdr) (f : R3) (s : State) : Out := issueRRR h f 1 (fun a b => a &&& b) s
def execOr (h : Hdr) (f : R3) (s : State) : Out := issueRRR h f 1 (fun a b => a ||| b) s
def execXor (h : Hdr) (f : R3) (s : State) : Out := issueRRR h f 1 (fun a b => a ^^^ b) s
def execShl (h : Hdr) (f : R3) (s : State) : Out := issueRRR h f 1 aluShl s
def execShr (h : Hdr) (f : R3) (s : State) : Out := issueRRR h f 1 aluShr s
def execSar (h : Hdr) (f : R3) (s : State) : Out := issueRRR h f 1 aluSar s
def execMin (h : Hdr) (f : R3) (s : State) : Out := issueRRR h f 1 minS s
def execMax (h : Hdr) (f : R3) (s : State) : Out := issueRRR h f 1 maxS s
def execMinn (h : Hdr) (f : R3) (s : State) : Out := issueRRR h f 1 minU s
def execMaxn (h : Hdr) (f : R3) (s : State) : Out := issueRRR h f 1 maxU s
def execSlt (h : Hdr) (f : R3) (s : State) : Out := issueRRR h f 1 aluSlt s
def execSltn (h : Hdr) (f : R3) (s : State) : Out := issueRRR h f 1 aluSltn s
def execSeq (h : Hdr) (f : R3) (s : State) : Out := issueRRR h f 1 aluSeq s

/-- SEL reads d as a third source (R69). -/
def execSel (h : Hdr) (f : R3) (s : State) : Out :=
  issueS h (useS f.d :: usesR3 f) 1 f.d (fun s => if bit (s.rs f.d) 0 then s.rs f.a else s.rs f.b) s

def execMul (h : Hdr) (f : R3) (s : State) : Out := issueRRR h f 3 (fun a b => a * b) s
def execMulh (h : Hdr) (f : R3) (s : State) : Out := issueRRR h f 3 mulHigh s
def execMulhn (h : Hdr) (f : R3) (s : State) : Out := issueRRR h f 3 mulHighN s
def execDiv (h : Hdr) (f : R3) (s : State) : Out := issueRRR h f 18 divS s
def execDivn (h : Hdr) (f : R3) (s : State) : Out := issueRRR h f 18 divU s
def execRem (h : Hdr) (f : R3) (s : State) : Out := issueRRR h f 18 remS s
def execClz (h : Hdr) (f : R2) (s : State) : Out := issueRR h f (fun a => BitVec.ofNat 64 (clzNat a)) s
def execPopc (h : Hdr) (f : R2) (s : State) : Out := issueRR h f (fun a => BitVec.ofNat 64 (popcount 64 a.toNat)) s
def execLea (h : Hdr) (f : R3) (s : State) : Out := issueRRR h f 1 lea s
def execPmake (h : Hdr) (f : R3) (s : State) : Out := issueRRR h f 1 pmake s
def execPspace (h : Hdr) (f : R2) (s : State) : Out := issueRR h f (fun a => (fld a 60 4).setWidth 64) s
def execPrank (h : Hdr) (f : R2) (s : State) : Out := issueRR h f (fun a => (fld a 48 12).setWidth 64) s

def execAddi (h : Hdr) (f : RI10) (s : State) : Out := issueRRI h f (fun a => a + sext10 f.imm) s
def execAndi (h : Hdr) (f : RI10) (s : State) : Out := issueRRI h f (fun a => a &&& sext10 f.imm) s
def execOri (h : Hdr) (f : RI10) (s : State) : Out := issueRRI h f (fun a => a ||| sext10 f.imm) s
def execXori (h : Hdr) (f : RI10) (s : State) : Out := issueRRI h f (fun a => a ^^^ sext10 f.imm) s
def execShli (h : Hdr) (f : RI10) (s : State) : Out := issueRRI h f (fun a => a <<< (f.imm.toNat % 64)) s
def execShri (h : Hdr) (f : RI10) (s : State) : Out := issueRRI h f (fun a => a >>> (f.imm.toNat % 64)) s
def execSari (h : Hdr) (f : RI10) (s : State) : Out := issueRRI h f (fun a => a.sshiftRight (f.imm.toNat % 64)) s
def execSlti (h : Hdr) (f : RI10) (s : State) : Out := issueRRI h f (fun a => flag (a.slt (sext10 f.imm))) s

def execLi (h : Hdr) (f : RI16) (s : State) : Out := issueS h [] 1 f.d (fun _ => sext16 f.imm) s

/-- LIH and LIL are long forms (R73). -/
def execLih (h : Hdr) (f : RI32) (s : State) : Out :=
  issue h true [useS f.d] noNeed noCheck (fun s => plain (putS f.d (f.imm ++ fld (s.rs f.d) 0 32) s)) s
def execLil (h : Hdr) (f : RI32) (s : State) : Out :=
  issue h true [] noNeed noCheck (fun s => plain (putS f.d (f.imm.setWidth 64) s)) s

end Sys2Proof.Machine
end

