-- ==== Sys2Proof/Machine/Service.lean ====
section
/-!
DEFINITION. Machine/Service.lean: power states and throttle points, boot, keys and measurement, counters, partitions, the registers of the
host path, function-level reset, the arrival of capsules, and migration (R322, R372, R379 to R382, R398, R407, R412 to R416, R422 to
R434).
-/
namespace Sys2Proof.Machine

/-! ## Power states (R424 to R428) -/

def execPowerStateExit (s : State) : Out := .next (wakePower s)

/-- The tick comparator fires once and clears (R347); the interrupt is a wake event (R426). -/
def fireTick (ctx : Bool) (s : State) : State :=
  let x := s.ctxNum ctx
  if x.tick.toNat = s.gcyc && x.tick ≠ 0 then wakePower (s.setCtxNum ctx { x with tick := 0, pendTick := true }) else s

def execTick (k : Nat) (ctx : Bool) (s : State) : Out := onCore k (fireTick ctx) s

/-- The on-package SRAMs are written zero with valid check bits (R412, R425). -/
def zeroSram (s : State) : State :=
  { s with
    mem := s.mem.filter fun c => c.1 < 2 ^ 40
    bad := s.bad.filter fun w => 8 * w < 2 ^ 40
    soft := s.soft.filter fun w => 8 * w < 2 ^ 40
    bars := [], core := .idle s.core.idx, arr := .idle s.arr.idx, others := [], arrs := [] }

/-- What a core keeps through S3: its configuration and its tick comparators, which island 206 evaluates (R425, R426). -/
def keepCore (old : Core) (c : Core) : Core :=
  { c with
    wcwait := old.wcwait, counters := old.counters
    ctx := { c.ctx with tick := old.zero.tick, pendTick := old.zero.pendTick, pendSig := old.zero.pendSig }
    shadow := { c.shadow with tick := old.one.tick, pendTick := old.one.pendTick, pendSig := old.one.pendSig } }

/-- Out of S3 every SRAM is zero and the cores' and harts' logic state is lost. -/
def leaveS3 (s : State) : State :=
  let z := zeroSram s
  { z with
    core := keepCore s.core z.core
    others := s.others.map fun c => keepCore c (.idle c.idx)
    mboxes := s.mboxes.map fun b =>
      { Mailbox.idle b.idx with vf := b.vf, on := b.on, hart := b.hart, aie := b.aie, budget := b.budget, pver := b.pver }
    harts := [], lines := [] }

/-- The dispatcher serves from this cycle on (R426). -/
def serveAll (s : State) : State :=
  addDue s.gcyc 2 64 .launchDispatch
    ((List.range 16).foldl (fun s v => [0, 1, 2, 3].foldl (fun s q => serveIn s.gcyc v q s) s) s)

def exitStep (s : State) : State :=
  if s.svc.exitAt.any (fun c => decide (c ≤ s.gcyc)) then
    let s := if s.svc.power = 3 then leaveS3 s else s
    serveAll { s with svc := { s.svc with power := 0, exitAt := none, quiet := 0 } }
  else s

def execPowerExitComplete (s : State) : Out := .next (exitStep s)

/-- A queue has nothing to serve: it is empty, or its head is a WAITSIG whose condition fails. -/
def queueQuiet (vf : Nat) (s : State) (cs : List Capsule) : Bool :=
  match cs with
  | [] => true
  | c :: _ => capKind c = 5 && !signalMet c vf s

def engineQuiet (e : Engines) : Bool :=
  e.copyBuf.isEmpty && e.copyRun.isEmpty && e.stream.isNone && e.oloads.isEmpty && e.olds.isEmpty && e.drains.isEmpty
    && e.gathers.isEmpty && e.mres.isEmpty && e.recs.isEmpty && e.wc.isEmpty

/-- A core counts as idle for power: it holds no group, or its strand C sleeps and the others have halted or hold (R377). -/
def coreIdle (c : Core) : Bool :=
  let still := fun (t : Strand) => t.halted || t.held
  (c.ctx.group.isNone && c.shadow.group.isNone) || (c.ctx.c.asleep && still c.ctx.a && still c.ctx.v && still c.ctx.m)

/-- The package is idle, but for its harts (R425). -/
def packageIdle (s : State) : Bool :=
  s.svc.running && s.cores.all coreIdle && !(s.launches.any fun l => l.parked)
    && ((List.range 16).all fun v => (s.vf v).queues.toList.all (queueQuiet v s))
    && (s.cores.all fun c => engineQuiet c.eng && c.ctx.replies.isEmpty && c.shadow.replies.isEmpty)
    && s.lists.isEmpty && s.pod.plinth.isEmpty && s.pod.bound.isNone && s.pod.holder.isNone

/-- The deepest state that the latency tolerance admits; 0 where it admits none (R424, R425). -/
def deepest (s : State) : Nat :=
  let tol := (fld s.svc.ltol 0 40).toNat
  let loss := bit s.svc.ltol 40
  if loss && exitNs 4 ≤ tol then 4
  else if loss && exitNs 3 ≤ tol then 3
  else if exitNs 2 ≤ tol then 2
  else if exitNs 1 ≤ tol then 1
  else 0

/-- The controller enters the deepest state after 4096 idle cycles in a row, at a cycle with GCYC mod 4096 = 0. Whether every hart is
in WFI is free (log entry 30, DESIGN CHOICE). -/
def entryStep (s : State) : State :=
  if s.svc.power = 0 && s.svc.exitAt.isNone && s.gcyc % 4096 = 0 && 4096 ≤ s.svc.quiet && packageIdle s then
    let d := draw s
    if Config.hartsWait d.1 then
      let p := deepest d.2
      { d.2 with svc := { d.2.svc with power := p, entered := s.gcyc, running := d.2.svc.running && p ≠ 4 } }
    else d.2
  else s

def execPowerStateEntry (s : State) : Out := .next (entryStep s)

/-- LTOL takes a value; a tolerance below the latency of the state the package is in starts an exit (R424, R428). -/
def writeLtol (v : Word) (s : State) : State :=
  let s := { s with svc := { s.svc with ltol := v &&& 0x1FFFFFFFFFF } }
  if 0 < s.svc.power && (fld v 0 40).toNat < exitNs s.svc.power then wakePower s else s

def execLtolWrite (v : Word) (s : State) : Out := .next (writeLtol v (wakePower s))

/-! ## Islands (R6, R422, R425) -/

/-- The state of an island. -/
inductive Island where
  | on | gated | ret | off
  deriving DecidableEq, Repr

/-- A core quad holds no launch group but such as sleep, and none is being loaded onto it (R377, R422). -/
def quadFree (q : Nat) (s : State) : Bool :=
  [0, 1, 2, 3].all fun j => coreIdle (s.coreAt (4 * q + j)) && !claimed (4 * q + j) s

/-- The 256 islands: 192 core quads, then 16 a die: 8 cluster-SRAM groups, 4 link groups, 2 memory-controller groups and 2
service/maquette groups, of which island 206 is one (R426). Of S3 the spec gives the memory controllers' no state: they stay GATED as in S2
(log entry 34, DESIGN CHOICE). -/
def islandState (i : Nat) (s : State) : Island :=
  let j := (i - 192) % 16
  let quad := i < 192
  let sram := !quad && j < 8
  let mem := !quad && 12 ≤ j && j < 14
  let maq := !quad && 14 ≤ j && i ≠ 206
  match s.svc.power with
  | 0 => if quad && quadFree i s then .gated else .on
  | 1 => if quad || sram || mem then .gated else .on
  | 2 => if quad || sram then .ret else if mem || maq then .gated else .on
  | 3 => if quad || sram || maq then .off else if mem then .gated else .on
  | _ => .off

/-- Some core quad is GATED (R430). -/
def quadGated (s : State) : Bool := (List.range 192).any fun q => islandState q s = .gated

/-! ## Throttle points and the guest timestamp (R322, R423, R431 to R434) -/

/-- SCALE of a nominal scale. -/
def scaleOf (nom : BitVec 48) (h : Bool) : BitVec 48 := if h then nom <<< 1 else nom

/-- The budgets of R7 in watts: arrays, SRAM traffic, second tier, vector units, Zudal links, maquette, Ethernet, other logic. -/
def budgets : List Nat := [720, 260, 155, 110, 95, 65, 35, 160]

/-- A budget would be exceeded in cycle c: the power that each consumer takes is the silicon's own (R423; log entry 12, DESIGN CHOICE). -/
def overBudget (c : Nat) : Bool := budgets.zipIdx.any fun b => 1000 * b.1 < Config.powerUse c b.2

/-- Every budget has stayed below 90 % of its share for 2^20 cycles. -/
def underBudget (c : Nat) : Bool :=
  2 ^ 20 ≤ c && (List.range (2 ^ 20)).all fun k => budgets.zipIdx.all fun b => Config.powerUse (c - k) b.2 < 900 * b.1

/-- The armature delivers a cycle T, a multiple of 4096 at least 1024 cycles ahead (R322). Its notice is a wake event (R426). -/
def askThrottle (h : Bool) (s : State) : State :=
  let d := draw s
  let t := (d.2.gcyc + 1024 + 4095) / 4096 * 4096 + 4096 * Config.throttleWait d.1
  wakePower (addDue t 2 0 (.thermalHalving h) { d.2 with svc := { d.2.svc with change := some (t, h) } })

/-- The power controller asks for a halving where a budget would be exceeded, and for its end where every one has stayed below (R423). -/
def execHalvingRequest (s : State) : Out := .next (if overBudget s.gcyc then askThrottle true s else s)
def execHalvingEndRequest (s : State) : Out := .next (if underBudget s.gcyc then askThrottle false s else s)

/-- The power controller holds the consumers to their budgets in every cycle from the end of the boot on: it asks for a halving while none is
in force or on its way, and for the end of one that is in force (R7, R423). -/
def powerWatch (s : State) : Out :=
  let s := addDue (s.gcyc + 1) 2 0 .powerWatch s
  match s.svc.change with
  | some _ => .next s
  | none => if s.svc.halved then execHalvingEndRequest s else execHalvingRequest s

/-- At T every VF's timestamp goes on at the new rate (R433). -/
def rescale (h : Bool) (s : State) (v : Vf) : Vf :=
  { v with toffset := gtsOf s v, tbase := BitVec.ofNat 64 s.gcyc, scale := scaleOf v.nom h }

/-- What is left of an exit from a power state is wall time: it lasts half as many cycles under a halving (R12, R426). -/
def reclock (h : Bool) (s : State) : Option Nat :=
  s.svc.exitAt.map fun c =>
    let left := c - exitFrom s
    exitFrom s + if h = s.svc.halved then left else if h then (left + 1) / 2 else 2 * left

def throttle (h : Bool) (s : State) : State :=
  let e := reclock h s
  let s := { s with vfs := s.vfs.map (rescale h s), svc := { s.svc with halved := h, change := none, exitAt := e } }
  match e with | some c => addDue c 2 0 .powerExitComplete s | none => s

def execThermalHalving (h : Bool) (s : State) : Out := .next (throttle h s)

/-- A launch of the VF whose groups still run; a pod launch runs to its end. -/
def vfRuns (vf : Nat) (s : State) : Bool := s.launches.any fun l => l.vf = vf && (domPod l || !l.live.isEmpty)

/-- The VF is paused from the cycle by which its groups have parked or ended: GTSP is latched (R434). -/
def vfPausedStep (vf : Nat) (s : State) : State :=
  let v := s.vf vf
  if v.pausing && !vfRuns vf s then s.setVf vf { v with pausing := false, paused := true, gtsp := gtsOf s v } else s

def execVfPaused (vf : Nat) (s : State) : Out := onUnit (vf < 16) (vfPausedStep vf) s

/-- PAUSE-VF (R434): requests to the groups that run, but not to a pod launch's; groups not started wait for the next dispatch. -/
def pauseStep (vf : Nat) (s : State) : State :=
  let v := s.vf vf
  if v.paused then s
  else
    let mine := fun (l : Launch) => l.vf = vf && !domPod l
    let s := (s.launches.filter mine).foldl (fun s l => requestPark l s) (s.setVf vf { v with pausing := true })
    let s := { s with launches := s.launches.map fun l => if mine l && l.live.isEmpty then { l with parked := true } else l }
    vfPausedStep vf (wakeDispatch ((s.launches.filter mine).foldl (fun s l => freeWindows l.id s) s))

def execPauseVf (vf : Nat) (s : State) : Out := onUnit (vf < 16) (fun s => pauseStep vf (wakePower s)) s

/-- A management command reports that it has failed (R416, R434). -/
def refuse (cmd n : Nat) (s : State) : State := { s with svc := { s.svc with refusals := s.svc.refusals ++ [(s.gcyc, cmd, n)] } }

/-- RESUME-VF (R434); one that would take GTS back behind a GTSP latched here is refused. -/
def resumeStep (vf : Nat) (o : Word) (s : State) : State :=
  let v := s.vf vf
  if o.toNat < v.gtsp.toNat then refuse 1 vf s
  else
    wakeDispatch (wakeVf vf (s.setVf vf { v with
      paused := false, pausing := false, tbase := BitVec.ofNat 64 s.gcyc, toffset := o, scale := scaleOf v.nom s.svc.halved }))

def execResumeVf (vf : Nat) (o : Word) (s : State) : Out := onUnit (vf < 16) (fun s => resumeStep vf o (wakePower s)) s

/-! ## Migration (R379, R380) -/

/-- The other bitmap becomes active at cycle w; the command is over once every earlier write is recorded, as it is at once. -/
def swapStep (vf w : Nat) (s : State) : State :=
  let v := s.vf vf
  if s.gcyc < w then addDue w 0 vf (.dirtySwap vf w) (s.setVf vf { v with swapAt := some w, swapping := true })
  else if v.swapAt.isSome && v.swapAt ≠ some w then s
  else addDue s.gcyc 0 vf (.dirtySwapComplete vf) (s.setVf vf { v with dirtyB := !v.dirtyB, swapAt := none, swapping := true })

def execDirtySwap (vf w : Nat) (s : State) : Out := onUnit (vf < 16) (fun s => swapStep vf w (wakePower s)) s

def swapDone (vf : Nat) (s : State) : State := if (s.vf vf).swapAt.isNone then s.setVf vf { s.vf vf with swapping := false } else s

def execDirtySwapComplete (vf : Nat) (s : State) : Out := onUnit (vf < 16) (swapDone vf) s

/-- SNAP numbers a snapshot; the copy-on-write marks are the maquette firmware's (log entry 30, DESIGN CHOICE). -/
def execSnap (vf : Nat) (s : State) : Out :=
  onUnit (vf < 16) (fun s => (wakePower s).setVf vf { s.vf vf with snaps := (s.vf vf).snaps + 1 }) s

/-! ## Key slots (R416) -/

def State.setKey (s : State) (k : KeySlot) : State := { s with keys := k :: s.keys.filter fun x => x.slot ≠ k.slot }

def realSlot (slot : Nat) : Bool := 1 ≤ slot && slot < 256

/-- KEYLOAD and KEYCLR take effect in a cycle in which the controllers hold no request under the slot; in this model a request is held
within one cycle only, so that is the next one. -/
def pendKey (slot : Nat) (k : Option (BitVec 256)) (s : State) : State :=
  addDue (s.gcyc + 1) 0 slot (.keySlotSwitch slot)
    (s.setKey { s.keySlot slot with pend := (s.keySlot slot).pend ++ [(s.gcyc + 1, k)] })

def execKeyload (slot : Nat) (wrapped : List Byte) (s : State) : Out :=
  onUnit (realSlot slot) (fun s =>
    match Config.keyUnwrap wrapped with
    | none => refuse 0 slot (wakePower s)
    | some k => pendKey slot (some k) (wakePower s)) s

def execKeyclr (slot : Nat) (s : State) : Out := onUnit (realSlot slot) (fun s => pendKey slot none (wakePower s)) s

/-- A KEYLOAD, or a KEYCLR, takes effect: each load counts in GEN. -/
def KeySlot.take (k : KeySlot) : Option (BitVec 256) → KeySlot
  | some key => { k with key := key, valid := true, gen := k.gen + 1 }
  | none => { k with key := 0, valid := false }

/-- Those whose cycle has come take effect, in the order in which they came. -/
def switchKey (slot : Nat) (s : State) : State :=
  let k := s.keySlot slot
  let now := k.pend.filter fun x => decide (x.1 ≤ s.gcyc)
  if now.isEmpty then s
  else s.setKey (now.foldl (fun k x => k.take x.2) { k with pend := k.pend.filter fun x => !(x.1 ≤ s.gcyc : Bool) })

def execKeySlotSwitch (slot : Nat) (s : State) : Out := onUnit (realSlot slot) (switchKey slot) s

/-! ## Boot, measurement and attestation (R412 to R415) -/

/-- The bytes of a 384-bit value, as it is hashed. -/
def mrBytes (m : BitVec 384) : List Byte := leBytes 48 m.toNat

/-- Extending a measurement register. -/
def extend (mr digest : BitVec 384) : BitVec 384 := Config.sha384 (mrBytes mr ++ mrBytes digest)

def execMr3Extend (d : BitVec 384) (s : State) : Out :=
  .next (wakePower { s with svc := { s.svc with mr3 := extend s.svc.mr3 d } })

/-- ASCII of the labels and the part number. -/
def labelAttest : List Byte := [0x61, 0x74, 0x74, 0x65, 0x73, 0x74]
def labelIdentity : List Byte := [0x69, 0x64, 0x65, 0x6E, 0x74, 0x69, 0x74, 0x79]
def partNumber : List Byte := [0x44, 0x4C, 0x4E, 0x2D, 0x37, 0x36, 0x38, 0x41]

/-- The report: nonce, measurements, BOOTST and part number, the attestation key's signature, and the identity key's certificate. -/
def report' (nonce : BitVec 384) (s : State) : List Byte :=
  let v := s.svc
  let body := mrBytes nonce ++ mrBytes v.mr0 ++ mrBytes v.mr1 ++ mrBytes v.mr2 ++ mrBytes v.mr3 ++ leBytes 8 v.bootst.toNat ++ partNumber
  body ++ Config.ecdsaSign v.attKey (Config.sha384 body)
    ++ Config.ecdsaSign (Config.hkdf384 v.secret [] labelIdentity) (Config.sha384 (mrBytes v.attKey))

def execAttestationReport (nonce : BitVec 384) (s : State) : Out :=
  .next (wakePower { s with svc := { s.svc with reports := s.svc.reports ++ [report' nonce s] } })

/-- BOOTST with STAGE and further bits (R413). -/
def bootWord (stage : Nat) (old : Word) (more : Nat) : Word :=
  (old &&& ~~~(0xF : Word)) ||| BitVec.ofNat 64 (stage + more)

/-- Fuses, flash and the firmware in it outlive a reset. -/
def bootData (v : Service) : Service :=
  { Service.idle with
    firmware := v.firmware, fwKey := v.fwKey, fwSig := v.fwSig, fwVer := v.fwVer, maqFw := v.maqFw, fuseHash := v.fuseHash
    fuseRoll := v.fuseRoll, fuseRepair := v.fuseRepair, flashRepair := v.flashRepair, secret := v.secret
    flashErr := v.flashErr, marchHang := v.marchHang }

/-- Stage 1: the firmware image is verified. -/
def firmwareOk (v : Service) : Bool :=
  Config.sha384 v.fwKey = v.fuseHash && v.fuseRoll ≤ v.fwVer && Config.ecdsaOk v.fwKey (Config.sha384 v.firmware) v.fwSig

/-- Package reset: the state of reset, with fuses and flash as they are, and stage 1 of the boot, which waits where the flash cannot be
read or the firmware fails its checks (R412, R413). -/
def resetStep (s : State) : State :=
  let v := bootData s.svc
  let ok := !v.flashErr && firmwareOk v
  let s := { State.reset with
    inbox := s.inbox, fresh := s.fresh, cal := []
    svc := { v with bootst := bootWord 1 0 (if ok then 0 else if v.flashErr then 16 else 32) } }
  if ok then addDue 1 0 0 .bootRepair s else s

def execPackageReset (s : State) : Out := .next (resetStep s)

/-- Stage 2: the repairs of the fuse and flash tables. -/
def repairStep (s : State) : State :=
  let v := s.svc
  let n := v.fuseRepair.length + v.flashRepair.length
  addDue (s.gcyc + 1) 0 0 .bootMarch { s with svc := { v with bootst := bootWord 2 v.bootst (n * 2 ^ 32) } }

def execBootRepair (s : State) : Out := .next (repairStep s)

/-- A failing row takes a spare of its bank, of which there are 4, or is counted in UNREP. -/
def marchRow (row : Nat) (s : State) : State :=
  let v := s.svc
  let used := (v.fuseRepair ++ v.flashRepair).filter fun r => Config.bankOf r = Config.bankOf row
  if used.length < 4 then
    logPhys (mkErr s 8 0 0x3FF 0 (BitVec.ofNat 64 row) 0)
      { s with svc := { v with flashRepair := v.flashRepair ++ [row], bootst := v.bootst + BitVec.ofNat 64 (2 ^ 32) } }
  else { s with svc := { v with bootst := v.bootst + BitVec.ofNat 64 (2 ^ 16) } }

/-- Stage 3: the march, with the rows it found failing. One that does not finish sets MARCHF: the boot ends with it, viral, and no later
stage starts (R412, R413). -/
def marchStep (failing : List Nat) (s : State) : State :=
  let s := { s with svc := { s.svc with bootst := bootWord 3 s.svc.bootst (if s.svc.marchHang then 64 else 0) } }
  let s := failing.foldl (fun s r => marchRow r s) s
  if s.svc.marchHang then goViral s else addDue (s.gcyc + 1) 0 0 .bootMeasure s

def execBootMarch (failing : List Nat) (s : State) : Out := .next (marchStep failing s)

/-- The repair table and the fuse configuration, as they are hashed (log entry 22, DESIGN CHOICE). -/
def tableBytes (t : List Nat) : List Byte := t.flatMap fun r => leBytes 8 r
def fuseBytes (v : Service) : List Byte := mrBytes v.fuseHash ++ leBytes 8 v.fuseRoll ++ tableBytes v.fuseRepair

/-- Stage 4: MR0 to MR2, and the attestation key. -/
def measureStep (s : State) : State :=
  let v := s.svc
  let mr0 := extend v.mr0 (Config.sha384 v.firmware)
  let mr1 := extend v.mr1 (Config.sha384 (tableBytes (v.fuseRepair ++ v.flashRepair) ++ fuseBytes v))
  let v := { v with
    mr0 := mr0, mr1 := mr1, mr2 := v.maqFw.foldl extend v.mr2
    attKey := Config.hkdf384 v.secret (mrBytes mr0 ++ mrBytes mr1) labelAttest
    bootst := bootWord 4 v.bootst 128 }
  addDue (s.gcyc + 1) 0 0 .bootRun { s with svc := v }

/-- Firmware measures a maquette firmware image: MR2 takes extensions until the first capsule is accepted (R414). -/
def measureImage (d : BitVec 384) (s : State) : State :=
  if s.svc.capsSeen then s else { s with svc := { s.svc with mr2 := extend s.svc.mr2 d } }

def execBootMeasure (s : State) : Out := .next (measureStep s)

/-- Stage 5: every SRAM is zero, the key slots are cleared, GCYC is 0, and capsules are accepted; a boot with rows that could not be
repaired ends viral (R407, R413). -/
def runStep (s : State) : State :=
  let v := { s.svc with bootst := bootWord 5 s.svc.bootst 0, running := true }
  let s := zeroSram { s with gcyc := 0, keys := [], cal := [], svc := v }
  let s := addDue 0 2 0 .powerWatch (addDue 0 1 0 .realignExchange s)
  if fld v.bootst 16 16 ≠ 0 then goViral s else s

def execBootRun (s : State) : Out := .next (runStep s)

/-- WAKE: a boot from S4, a wake event in S1 to S3, nothing in S0 (R427). -/
def execWake (s : State) : Out := .next (if s.svc.power = 4 then resetStep s else wakePower s)

/-- VIRAL, a management command (R407, R426). -/
def execViral (s : State) : Out := .next (goViral (wakePower s))

/-! ## Scrub and patrol (R398) -/

/-- A word is read, corrected and rewritten; one that is marked bad stays so, and is found again on the next visit. Scrub events are logged
physically only. -/
def scrubWord (addr : Nat) (s : State) : State :=
  let w := addr / 8
  let log := fun (type : Nat) => logPhys (mkErr s type (unitOf s addr) (ownerOf s addr).1 (ownerOf s addr).2 (BitVec.ofNat 64 (8 * w)) 0)
  let s := if s.soft.contains w then log 3 { s with soft := s.soft.filter fun x => x ≠ w } else s
  if s.bad.contains w || vectorBad w s then nextScrub w (log 2 s) else s

/-- The scrubber of the maquette's caches finds a marked word of a line. -/
def scrubLine (slot : BitVec 8) (l w : Nat) (s : State) : State :=
  match s.line? slot l with
  | none => s
  | some x =>
    if !x.bad.contains w then s
    else scrubLater (.lineScrub slot l w) (logPhys (mkErr s 2 8 0x3FF (fld x.key 8 4).toNat (BitVec.ofNat 64 (lineBytes * l + 8 * w)) 0) s)

/-- The scrubber of the plinth finds a marked entry. -/
def scrubEntry (i : Nat) (s : State) : State :=
  if s.pod.plinth[i]?.any fun p => p.bad then
    scrubLater (.plinthScrub i) (logPhys (mkErr s 2 6 0x3FF (podVf s) (BitVec.ofNat 64 i) 0) s)
  else s

def execScrubSlot (addr : Nat) (s : State) : Out := .next (scrubWord addr s)
def execPatrol (addr : Nat) (s : State) : Out := onUnit (addr < Config.tierBytes) (scrubWord addr) s

/-- The patrol takes a period; what is marked in the second tier is then visited (R398). -/
def setPatrol (n : Nat) (s : State) : State :=
  let s := { s with svc := { s.svc with patrol := n } }
  ((s.soft ++ s.bad).filter fun w => 8 * w < Config.tierBytes).foldl (fun s w => nextScrub w s) s

/-- With the array in focus in whose memory a word lies. -/
def inArray (w : Nat) (f : State → State) (s : State) : State :=
  if 2 ^ 42 ≤ 8 * w && (ownerOf s (8 * w)).1 < Config.cores then withCore (ownerOf s (8 * w)).1 f s else s

/-- Storage takes an error (R396, R397). -/
def upset (u : Upset) (s : State) : State :=
  match u with
  | .word w hard =>
    if s.bad.contains w || (!hard && s.soft.contains w) then s
    else if hard then inArray w findBad (nextScrub w { s with bad := w :: s.bad, soft := s.soft.filter fun x => x ≠ w })
    else nextScrub w { s with soft := w :: s.soft }
  | .scalar k ctx st n =>
    withCore k (fun s => s.mapCtxNum ctx fun x =>
      x.setStrand st { x.strand st with upset := (x.strand st).upset ||| ((1 : BitVec 32) <<< n.toNat) }) s
  | .pred k ctx n => withCore k (fun s => s.mapCtxNum ctx fun x => { x with pupset := x.pupset ||| ((1 : BitVec 8) <<< n.toNat) }) s
  | .vector k ctx p w =>
    withCore k (fun s => visitVector ctx p.toFin ((1 : BitVec 64) <<< w.toNat)
      (s.mapCtxNum ctx fun x => { x with vupset := x.vupset ||| vectorMarks p.toFin ((1 : BitVec 64) <<< w.toNat) })) s
  | .flight k ctx st i =>
    withCore k (fun s => s.mapCtxNum ctx fun x =>
      let t := x.strand st
      x.setStrand st { t with flights := t.flights.zipIdx.map fun f => if f.2 = i then { f.1 with bad := f.1.bad ||| 1 } else f.1 }) s
  | .barrier key => if s.bad.contains (2 ^ 41 + key) then s else nextScrub (2 ^ 41 + key) { s with bad := (2 ^ 41 + key) :: s.bad }
  | .mailbox m obs i =>
    let b := s.mailbox m
    let mark := fun (es : List MbEntry) => es.zipIdx.map fun x => if x.2 = i then { x.1 with bad := true } else x.1
    s.setMbox (if obs then { b with obs := mark b.obs } else { b with acts := mark b.acts })
  | .line slot l w =>
    scrubLater (.lineScrub slot l w)
      { s with lines := s.lines.map fun x => if fld x.key 0 8 = slot && x.line = l then { x with bad := w :: x.bad } else x }
  | .plinth i =>
    scrubLater (.plinthScrub i)
      { s with pod := { s.pod with plinth := s.pod.plinth.zipIdx.map fun p => if p.2 = i then { p.1 with bad := true } else p.1 } }
  | .queue k id =>
    withCore k (fun s =>
      let tile := fun (x : Ctx) => { x with tq := x.tq.map fun c => if c.id = id then { c with hurt := true } else c }
      { s with core := { s.core with
        ctx := tile s.core.ctx, shadow := tile s.core.shadow
        eng := { s.core.eng with copyBuf := s.core.eng.copyBuf.map fun c => if c.id = id then { c with hurt := true } else c } } }) s
  | .format k ctx i =>
    withCore k (fun s => s.mapCtxNum ctx fun x => if i < x.fq.length then { x with fqHurt := i :: x.fqHurt } else x) s
  | .flash b => { s with svc := { s.svc with flashErr := b } }
  | .march b => { s with svc := { s.svc with marchHang := b } }
  | .corrected unit k loc => logEvent 1 unit.toNat k (vfOfCore s k) 0 loc 0 (withCore k (count 0x0D 1) s)
  | .fatal unit => goViral (logPhys (mkErr s 2 unit.toNat 0x3FF 0 0 0) s)

/-! ## Event counters (R429) -/

/-- Every counter by number: 8·core + i, then 6144 + 16·cluster + i, then 7680 + i. -/
def coreCounts (c : Core) : List (Nat × BitVec 48) := c.counters.toList.zipIdx.map fun x => (8 * c.idx + x.2, x.1.count)
def snapCounters (s : State) : List (Nat × BitVec 48) :=
  (s.cores.flatMap coreCounts) ++ (s.clusterCnt.map fun c => (6144 + 16 * c.1 + c.2.1, c.2.2.count))
    ++ s.packageCnt.toList.zipIdx.map fun x => (7680 + x.2, x.1.count)

/-- The snapshot block takes every counter as it stands at the start of the cycle. -/
def takeSnapshot (s : State) : State := { s with snapshot := snapCounters s }

/-- SNAPCTR copies in the cycle that it names, which has come in with it; in its own where that one has passed (log entry 34, DESIGN
CHOICE). -/
def execSnapctr (s : State) : Out :=
  .next (wakePower (if s.gcyc < s.svc.snapAt then addDue s.svc.snapAt 0 0 .snapshot s else takeSnapshot s))

/-- A control word takes a write: its RW fields, and OVF by writing 1. -/
def writeCtl (v : Word) (c : Counter) : Counter :=
  { c with ctl := (v &&& 0x7F00FF) ||| (c.ctl &&& ~~~v &&& 0x800000) }

def writeCounter (level idx n : Nat) (v : Word) (s : State) : State :=
  match level with
  | 0 => if h : n < 8 then withCore idx (fun s => { s with core := { s.core with counters := s.core.counters.set n (writeCtl v s.core.counters[n]) h } }) s
    else s
  | 1 =>
    let c := ((s.clusterCnt.find? fun c => c.1 = idx && c.2.1 = n).map fun c => c.2.2).getD ⟨0, 0⟩
    { s with clusterCnt := (idx, n, writeCtl v c) :: s.clusterCnt.filter fun c => !(c.1 = idx && c.2.1 = n) }
  | _ => if h : n < 32 then { s with packageCnt := s.packageCnt.set n (writeCtl v s.packageCnt[n]) h } else s

/-! ## Registers of the host path and of the harts (R109, R187, R320 to R323, R334, R347, R353, R372 to R391, R418 to R433) -/

/-- A VF has a launch queued or running (R372). -/
def vfBusy (vf : Nat) (s : State) : Bool :=
  (s.launches.any fun l => l.vf = vf) || (s.vf vf).queues.toList.any fun q => q.any fun c => capKind c = 1

/-- A partition takes its configuration; its mailboxes number their observations from 0 (R372, R390). -/
def configure (p : PartitionCfg) (s : State) : State :=
  if vfBusy p.vf s then s
  else
    let v := s.vf p.vf
    let s := s.setVf p.vf { v with
      on := true, pairs := p.pairs, mboxes := p.mailboxes, harts := p.harts, keys := p.keys, slices := p.slices
      plinth := p.plinth, podIdx := p.podIdx, signals := Vector.replicate 64 0 }
    let s := (v.mboxes.filter fun m => !p.mailboxes.contains m).foldl (fun s m => s.setMbox { s.mailbox m with on := false }) s
    let s := p.mailboxes.foldl (fun s m => s.setMbox { s.mailbox m with on := true, vf := p.vf, seq := 0 }) s
    p.keys.foldl (fun s k => s.setKey { s.keySlot k with vf := BitVec.ofNat 4 p.vf }) s

def execPartitionConfigure (p : PartitionCfg) (s : State) : Out := onUnit p.ok (fun s => configure p (wakePower s)) s

/-- The comparator of a context is armed; 0 disarms it (R347). -/
def armTick (k : Nat) (ctx : Bool) (v : Word) (s : State) : State :=
  let s := withCore k (fun s => s.mapCtxNum ctx fun x => { x with tick := v }) s
  if s.gcyc < v.toNat then addDue v.toNat 0 k (.tick k ctx) s else s

/-- The route and slot fields of a window (R323 bits 159:96). -/
def writeRoute (w : Nat) (v : Word) (s : State) : State :=
  s.setWindow w { s.window w with
    hops := (fld v 60 4).toNat, route := fld v 20 40, plog := (fld v 16 4).toNat, phase := (fld v 6 10).toNat, slotf := (fld v 2 4).toNat }

/-- An entry of the routing bank that is not active (R334). -/
def writeBank (bankB : Bool) (dst port : Nat) (s : State) : State :=
  if bankB = s.pod.bankB then s
  else
    let put := fun (t : List (Nat × Nat)) => (dst, port) :: t.filter fun x => x.1 ≠ dst
    if bankB then { s with pod := { s.pod with routeB := put s.pod.routeB } }
    else { s with pod := { s.pod with routeA := put s.pod.routeA } }

/-- Whether the outside's access is a command of the host path, which wakes the package (R426). -/
def hostWakes : HostReg → Bool
  | .mqkey .. | .hartStore .. | .hartLoad .. | .hartAmo .. | .hartTime _ | .lineBack .. | .hartDiv .. | .maqImage _ | .upset _ | .podBoundary _ => false
  | _ => true

/-- What a register write, or another access from outside, does (R418). -/
def writeReg (r : HostReg) (s : State) : State :=
  let vf := fun (n : Nat) (f : Vf → Vf) => s.setVf n (f (s.vf n))
  match r with
  | .tableRoot n pa => vf n fun v => { v with root := some pa }
  | .wcwait k v => withCore k (fun s => { s with core := { s.core with wcwait := v } }) s
  | .stepTol v => { s with pod := { s.pod with stepTol := v } }
  | .coords x y z => { s with pod := { s.pod with x := x, y := y, z := z } }
  | .extent x y z => { s with pod := { s.pod with ex := x, ey := y, ez := z } }
  | .podBoundary b => peerBoundary b s
  | .windowRoute w v => writeRoute w v s
  | .route b dst port => writeBank b dst port s
  | .ringCtl n base logn wt => s.setRing n { s.ring n with set := true, base := base, logn := logn, wt := wt }
  | .ringHead n v => s.setRing n { s.ring n with head := v }
  | .tickCmp k ctx v => armTick k ctx v s
  | .slice n v => vf n fun x => { x with slice := v }
  | .vfWeight n v => vf n fun x => { x with weight := v }
  | .nomScale n v => vf n fun x => { x with nom := v, scale := scaleOf v s.svc.halved }
  | .toffset n v => vf n fun x => { x with toffset := v }
  | .tbase n v => vf n fun x => { x with tbase := v }
  | .counterCtl level idx n v => writeCounter level idx n v s
  | .keyVf slot n => s.setKey { s.keySlot slot with vf := BitVec.ofNat 4 n }
  | .dirtyMaps n a b => vf n fun x => { x with dirty := some (a, b) }
  | .errQueue n va => vf n fun x => { x with errq := some va, errTail := 0, errOvf := 0, errLast := none }
  | .physLog pa => { s with svc := { s.svc with physLog := some pa, logTail := 0, logDrop := 0, lastLog := none } }
  | .patrolPeriod v => setPatrol v s
  | .complRing n a k key w =>
    let tail := fun (r : Option (Nat × Nat × Nat × Bool)) (t : Nat) => if r.any fun r => r.1 = a && r.2.1 = k && r.2.2.1 = key then t else 0
    if n = 16 then
      let m := s.svc.mgmt
      { s with svc := { s.svc with mgmt := { m with ring := some (a, k, key, w), tail := tail m.ring m.tail } } }
    else vf n fun x => { x with ring := some (a, k, key, w), ringTail := tail x.ring x.ringTail }
  | .endpoint n a ps =>
    if n = 16 then { s with svc := { s.svc with mgmt := { s.svc.mgmt with addr := a, ports := ps } } }
    else vf n fun x => { x with addr := a, ports := ps }
  | .mqkey h v => s.setHart { s.hart h with mqkey := v &&& 0xFFF }
  | .hartStore h mode pa bytes excl => hartStore h mode pa bytes excl s
  | .hartLoad h pa n excl => hartLoad h pa n excl s
  | .hartAmo h pa n op v => hartAmo h pa n op v s
  | .hartTime h => hartTime h s
  | .lineBack slot line => lineBack slot line s
  | .hartDiv g n => { s with hartDiv := (g, n) :: s.hartDiv.filter fun x => x.1 ≠ g }
  | .snapCycle c => { s with svc := { s.svc with snapAt := c } }
  | .maqImage d => measureImage d s
  | .upset w => upset w s

def execRegisterWrite (r : HostReg) (s : State) : Out := onUnit r.ok (fun s => writeReg r (if hostWakes r then wakePower s else s)) s

/-- Translations of a VF are removed from every core (R213). -/
def invalidate (vf : Nat) (s : State) : State :=
  let clr := fun (c : Core) =>
    let keep := fun (l : List TlbEntry) => l.filter fun e => e.vf ≠ vf
    { c with tlbC := keep c.tlbC, tlbA := keep c.tlbA, tlbX := keep c.tlbX, tlbV := keep c.tlbV, tlbM := keep c.tlbM }
  { s with core := clr s.core, others := s.others.map clr }

def execHostPathInvalidation (vf : Nat) (s : State) : Out := onUnit (vf < 16) (fun s => invalidate vf (wakePower s)) s

/-! ## Function-level reset (R381, R382, R395) -/

def vfCores (vf : Nat) (s : State) : List Nat := (s.vf vf).pairs.flatMap fun p => [2 * p, 2 * p + 1]

/-- The VF's pod launch holds the package. -/
def holdsPod (vf : Nat) (s : State) : Bool := s.launches.any fun l => l.vf = vf && s.pod.holder = some l.id

/-- Step 1 on a core: issue stops, the stream closes, copies and tile commands stop, and what the access unit has not translated is
dropped. -/
def stopCore (k : Nat) (s : State) : State :=
  withCore k (fun s =>
    let s := closeStream s
    let gone := (s.arr.runs.filter fun r => r.half = s.half).map (fun r => r.cmd) ++ s.core.ctx.tq ++ s.core.shadow.tq ++ s.core.eng.stopped.toList
    let s := (gone.map fun c => c.z).eraseDups.foldl (fun s z => loseAcc z s) s
    let s := settleAll (s.mapArr fun a => { a with runs := a.runs.filter (fun r => r.half ≠ s.half), mmode := 0 })
    let clr := fun (x : Ctx) =>
      { x with
        tq := [], pendTick := false, pendSig := false, pendUrg := false, auHalt := false
        acc := x.acc.filter fun a => a.p.isSome }
    { s with core := { s.core with
      stopped := true, request := false, parking := none, deferred := none, replay := none
      ctx := clr s.core.ctx, shadow := clr s.core.shadow
      eng := { s.core.eng with
        copyBuf := [], copyRun := [], mres := [], stop := none, stopped := none, redo := [], aflt := [] } } }) s

/-- Step 2: every request of the VF has completed, and a boundary whose vote is closed is over (R333). -/
def drained (vf : Nat) (s : State) : Bool :=
  ((vfCores vf s).all fun k =>
    let c := s.coreAt k
    let p := fun (x : Ctx) => x.acc.all fun a => a.done || !a.pendingAt s.gcyc
    p c.ctx && p c.shadow && c.eng.oloads.isEmpty && c.eng.olds.isEmpty && c.eng.drains.isEmpty && c.eng.gathers.isEmpty)
    && !(holdsPod vf s && s.pod.bound.isSome && s.pod.closed)

def dropPackets (vf : Nat) : Nat → State → State
  | 0, s => s
  | n + 1, s =>
    let w := s.window n
    dropPackets vf n (if w.queue.isEmpty then s else s.setWindow n { w with queue := w.queue.filter fun p => p.vf ≠ vf })

/-- Step 3 on a core: it is cleared, with its counters, and its contexts hold no group. -/
def wipeCore (k : Nat) (s : State) : State :=
  withCore k (fun s =>
    let c := s.core
    let keep := fun (x : Ctx) => { Ctx.idle with tick := x.tick }
    { s with core := { c with
      ctx := keep c.zero, shadow := keep c.one, second := false, seg := none, slip := 0
      otherSeg := none, otherSlip := 0, otherDeferred := none
      counters := c.counters.map fun n => { n with count := 0 }
      eng := { Engines.idle with recs := c.eng.recs, serial := c.eng.serial } } }) (clearCore k s)

/-- The five steps, one at a time. -/
def resetVfStep (vf : Nat) (s : State) : State :=
  let v := s.vf vf
  let again := fun (n : Nat) (tag : BitVec 16) (s : State) =>
    addDue (s.gcyc + 1) 2 (128 + vf) (.resetVfClear vf) (s.setVf vf { s.vf vf with resetting := some (n, tag) })
  match v.resetting with
  | none => s
  | some (1, tag) =>
    let s := (vfCores vf s).foldl (fun s k => withCore k (dropWc fun _ => true) s) (dropPackets vf 64 s)
    if drained vf s then again 3 tag s else again 1 tag s
  | some (3, tag) =>
    let s := (vfCores vf s).foldl (fun s k => wipeCore k s) s
    let s := v.pairs.foldl (fun s j => resetArray j s) s
    let mine := s.launches.filter fun l => l.vf = vf
    let wins := s.winHold.filter fun w => mine.any fun l => l.id = w.2
    let s := wins.foldl (fun s w => zeroWindows w.1 s) { s with winHold := s.winHold.filter fun w => !wins.contains w }
    again 4 tag ((s.mboxes.filter fun b => b.on && b.vf = vf).foldl (fun s b => s.setMbox (clearMailbox b)) s)
  | some (4, tag) => again 5 tag (invalidate vf s)
  | some (_, tag) =>
    let q := (List.range 4).flatMap fun q => queueOf vf q s
    let s := q.foldl (fun s c => answer c 4 0 0 [] s) s
    let s := if holdsPod vf s then releasePod { s with pod := { s.pod with plinth := [], used := 0 } } else s
    let s := { s with launches := s.launches.filter fun l => l.vf ≠ vf }
    let s := s.setVf vf { s.vf vf with
      queues := Vector.replicate 4 [], busy := Vector.replicate 4 false, heads := Vector.replicate 4 none
      signals := Vector.replicate 64 0, resetting := none }
    let s := (vfCores vf s).foldl (fun s k => withCore k (fun s => { s with core := { s.core with stopped := s.svc.viral } }) s) s
    wakeDispatch (wakePause vf (complete ⟨vf, tag, 6, 0, 0, 0, s.gcyc, []⟩ s))

def execResetVfClear (vf : Nat) (s : State) : Out := onUnit (vf < 16) (resetVfStep vf) s

/-- A RESET-VF is accepted: step 1 at once (R381); before a boundary's cutoff the package records FAULT (R333). -/
def beginReset (c : Capsule) (s : State) : State :=
  let s := if holdsPod c.vf s && !s.pod.closed then recordCause 5 s else s
  let s := (vfCores c.vf s).foldl (fun s k => stopCore k s) s
  addDue (s.gcyc + 1) 2 (128 + c.vf) (.resetVfClear c.vf)
    (s.setVf c.vf { s.vf c.vf with resetting := some (1, capTag c) })

/-! ## Capsules arrive (R363 to R365, R381, R408, R419) -/

/-- A header with a reserved KIND or a nonzero zero field, or a message of the wrong length. -/
def capsuleBad (c : Capsule) : Bool :=
  capKind c = 0 || 7 < capKind c || fld c.w0 10 6 ≠ 0 || fld c.w0 32 32 ≠ 0 || c.arg2 ≠ 0
    || c.len ≠ 32 + (if capKind c = 2 then c.arg1.toNat else 0)

/-- The endpoint is bound to the port that a capsule comes in on; one that system software has bound to no port yet takes it on any (R418; log
entry 34, DESIGN CHOICE). -/
def boundPort (c : Capsule) (s : State) : Bool := (s.vf c.vf).ports.isEmpty || (s.vf c.vf).ports.contains c.port

/-- The endpoint takes a capsule in. Before the boot is over, in S4 and in the viral state it takes none; on a port that it is not bound to no
connection leads to it. -/
def acceptCapsule (c : Capsule) (s : State) : State :=
  if !s.svc.running || s.svc.viral || !boundPort c s then s
  else
    let s := countAt 2 0 0x86 1 (wakePower { s with svc := { s.svc with capsSeen := true } })
    if capsuleBad c then answer c 2 0 0 [] s
    else if (s.vf c.vf).resetting.isSome then answer c 6 0 0 [] s
    else if capKind c = 6 then beginReset c s
    else if 64 ≤ (queueOf c.vf (capQueue c) s).length then answer c 5 0 0 [] s
    else wakeQueue c.vf (capQueue c) (s.setQueue c.vf (capQueue c) (queueOf c.vf (capQueue c) s ++ [c]))

/-- The three constructors that carry a capsule take it in as its KIND says. -/
def execLaunch (c : Capsule) (s : State) : Out := onUnit c.ok (acceptCapsule c) s
def execWaitsig (c : Capsule) (s : State) : Out := onUnit c.ok (acceptCapsule c) s
def execResetVf (c : Capsule) (s : State) : Out := onUnit c.ok (acceptCapsule c) s

end Sys2Proof.Machine
end

