-- ==== Sys2Proof/Machine/Dispatch.lean ====
section
/-!
DEFINITION. Machine/Dispatch.lean: one arm per constructor of Instr.
-/
namespace Sys2Proof.Machine

def exec (i : Instr) (s : State) : Host.Outcome State Fault Refusal :=
  match i with
  | .add h f => Sys2Proof.Machine.execAdd h f s
  | .sub h f => Sys2Proof.Machine.execSub h f s
  | .and h f => Sys2Proof.Machine.execAnd h f s
  | .or h f => Sys2Proof.Machine.execOr h f s
  | .xor h f => Sys2Proof.Machine.execXor h f s
  | .shl h f => Sys2Proof.Machine.execShl h f s
  | .shr h f => Sys2Proof.Machine.execShr h f s
  | .sar h f => Sys2Proof.Machine.execSar h f s
  | .min h f => Sys2Proof.Machine.execMin h f s
  | .max h f => Sys2Proof.Machine.execMax h f s
  | .minn h f => Sys2Proof.Machine.execMinn h f s
  | .maxn h f => Sys2Proof.Machine.execMaxn h f s
  | .slt h f => Sys2Proof.Machine.execSlt h f s
  | .sltn h f => Sys2Proof.Machine.execSltn h f s
  | .seq h f => Sys2Proof.Machine.execSeq h f s
  | .sel h f => Sys2Proof.Machine.execSel h f s
  | .mul h f => Sys2Proof.Machine.execMul h f s
  | .mulh h f => Sys2Proof.Machine.execMulh h f s
  | .mulhn h f => Sys2Proof.Machine.execMulhn h f s
  | .div h f => Sys2Proof.Machine.execDiv h f s
  | .divn h f => Sys2Proof.Machine.execDivn h f s
  | .rem h f => Sys2Proof.Machine.execRem h f s
  | .clz h f => Sys2Proof.Machine.execClz h f s
  | .popc h f => Sys2Proof.Machine.execPopc h f s
  | .lea h f => Sys2Proof.Machine.execLea h f s
  | .pmake h f => Sys2Proof.Machine.execPmake h f s
  | .pspace h f => Sys2Proof.Machine.execPspace h f s
  | .prank h f => Sys2Proof.Machine.execPrank h f s
  | .addi h f => Sys2Proof.Machine.execAddi h f s
  | .andi h f => Sys2Proof.Machine.execAndi h f s
  | .ori h f => Sys2Proof.Machine.execOri h f s
  | .xori h f => Sys2Proof.Machine.execXori h f s
  | .shli h f => Sys2Proof.Machine.execShli h f s
  | .shri h f => Sys2Proof.Machine.execShri h f s
  | .sari h f => Sys2Proof.Machine.execSari h f s
  | .slti h f => Sys2Proof.Machine.execSlti h f s
  | .li h f => Sys2Proof.Machine.execLi h f s
  | .lih h f => Sys2Proof.Machine.execLih h f s
  | .lil h f => Sys2Proof.Machine.execLil h f s
  | .beq h f => Sys2Proof.Machine.execBeq h f s
  | .bne h f => Sys2Proof.Machine.execBne h f s
  | .blt h f => Sys2Proof.Machine.execBlt h f s
  | .bge h f => Sys2Proof.Machine.execBge h f s
  | .bltn h f => Sys2Proof.Machine.execBltn h f s
  | .bgen h f => Sys2Proof.Machine.execBgen h f s
  | .jmp h f => Sys2Proof.Machine.execJmp h f s
  | .jal h f => Sys2Proof.Machine.execJal h f s
  | .jr h f => Sys2Proof.Machine.execJr h f s
  | .loop h f => Sys2Proof.Machine.execLoop h f s
  | .loops h f => Sys2Proof.Machine.execLoops h f s
  | .lbrk h f => Sys2Proof.Machine.execLbrk h f s
  | .wait h f => Sys2Proof.Machine.execWait h f s
  | .waitg h f => Sys2Proof.Machine.execWaitg h f s
  | .align h f => Sys2Proof.Machine.execAlign h f s
  | .segb h f => Sys2Proof.Machine.execSegb h f s
  | .sege h => Sys2Proof.Machine.execSege h s
  | .tsm h => Sys2Proof.Machine.execTsm h s
  | .opb h => Sys2Proof.Machine.execOpb h s
  | .tks h f => Sys2Proof.Machine.execTks h f s
  | .tkw h f => Sys2Proof.Machine.execTkw h f s
  | .bini h f => Sys2Proof.Machine.execBini h f s
  | .barv h f => Sys2Proof.Machine.execBarv h f s
  | .bexp h f => Sys2Proof.Machine.execBexp h f s
  | .bwt h f => Sys2Proof.Machine.execBwt h f s
  | .bph h f => Sys2Proof.Machine.execBph h f s
  | .csrr h f => Sys2Proof.Machine.execCsrr h f s
  | .csrw h f => Sys2Proof.Machine.execCsrw h f s
  | .csrs h f => Sys2Proof.Machine.execCsrs h f s
  | .csrc h f => Sys2Proof.Machine.execCsrc h f s
  | .trap h f => Sys2Proof.Machine.execTrap h f s
  | .rett h => Sys2Proof.Machine.execRett h s
  | .halt h => Sys2Proof.Machine.execHalt h s
  | .fmt h f => Sys2Proof.Machine.execFmt h f s
  | .fmtq h f => Sys2Proof.Machine.execFmtq h f s
  | .ctxsw h => Sys2Proof.Machine.execCtxsw h s
  | .yield h => Sys2Proof.Machine.execYield h s
  | .sleep h => Sys2Proof.Machine.execSleep h s
  | .pert h f => Sys2Proof.Machine.execPert h f s
  | .ldB h f => Sys2Proof.Machine.execLdB h f s
  | .ldH h f => Sys2Proof.Machine.execLdH h f s
  | .ldW h f => Sys2Proof.Machine.execLdW h f s
  | .ldD h f => Sys2Proof.Machine.execLdD h f s
  | .ldBn h f => Sys2Proof.Machine.execLdBn h f s
  | .ldHn h f => Sys2Proof.Machine.execLdHn h f s
  | .ldWn h f => Sys2Proof.Machine.execLdWn h f s
  | .stB h f => Sys2Proof.Machine.execStB h f s
  | .stH h f => Sys2Proof.Machine.execStH h f s
  | .stW h f => Sys2Proof.Machine.execStW h f s
  | .stD h f => Sys2Proof.Machine.execStD h f s
  | .vld h f => Sys2Proof.Machine.execVld h f s
  | .vst h f => Sys2Proof.Machine.execVst h f s
  | .vlds h f => Sys2Proof.Machine.execVlds h f s
  | .vsts h f => Sys2Proof.Machine.execVsts h f s
  | .vldb h f => Sys2Proof.Machine.execVldb h f s
  | .atomAdd h f => Sys2Proof.Machine.execAtomAdd h f s
  | .atomAnd h f => Sys2Proof.Machine.execAtomAnd h f s
  | .atomOr h f => Sys2Proof.Machine.execAtomOr h f s
  | .atomXor h f => Sys2Proof.Machine.execAtomXor h f s
  | .atomMin h f => Sys2Proof.Machine.execAtomMin h f s
  | .atomMax h f => Sys2Proof.Machine.execAtomMax h f s
  | .atomMinn h f => Sys2Proof.Machine.execAtomMinn h f s
  | .atomMaxn h f => Sys2Proof.Machine.execAtomMaxn h f s
  | .atomSwap h f => Sys2Proof.Machine.execAtomSwap h f s
  | .cas h f => Sys2Proof.Machine.execCas h f s
  | .fence h f => Sys2Proof.Machine.execFence h f s
  | .mark h => Sys2Proof.Machine.execMark h s
  | .copy h f => Sys2Proof.Machine.execCopy h f s
  | .copyt h f => Sys2Proof.Machine.execCopyt h f s
  | .copyk h f => Sys2Proof.Machine.execCopyk h f s
  | .strmOpen h f => Sys2Proof.Machine.execStrmOpen h f s
  | .strmChk h f => Sys2Proof.Machine.execStrmChk h f s
  | .strmStat h f => Sys2Proof.Machine.execStrmStat h f s
  | .strmClose h f => Sys2Proof.Machine.execStrmClose h f s
  | .mbxs h f => Sys2Proof.Machine.execMbxs h f s
  | .mbxr h f => Sys2Proof.Machine.execMbxr h f s
  | .mbxq h f => Sys2Proof.Machine.execMbxq h f s
  | .tlbiPage h f => Sys2Proof.Machine.execTlbiPage h f s
  | .tlbiVf h f => Sys2Proof.Machine.execTlbiVf h f s
  | .pref h f => Sys2Proof.Machine.execPref h f s
  | .stepPod h f => Sys2Proof.Machine.execStepPod h f s
  | .vaddI8 h f => Sys2Proof.Machine.execVaddI8 h f s
  | .vaddI16 h f => Sys2Proof.Machine.execVaddI16 h f s
  | .vaddI32 h f => Sys2Proof.Machine.execVaddI32 h f s
  | .vaddBf16 h f => Sys2Proof.Machine.execVaddBf16 h f s
  | .vaddF32 h f => Sys2Proof.Machine.execVaddF32 h f s
  | .vsubI8 h f => Sys2Proof.Machine.execVsubI8 h f s
  | .vsubI16 h f => Sys2Proof.Machine.execVsubI16 h f s
  | .vsubI32 h f => Sys2Proof.Machine.execVsubI32 h f s
  | .vsubBf16 h f => Sys2Proof.Machine.execVsubBf16 h f s
  | .vsubF32 h f => Sys2Proof.Machine.execVsubF32 h f s
  | .vmulI8 h f => Sys2Proof.Machine.execVmulI8 h f s
  | .vmulI16 h f => Sys2Proof.Machine.execVmulI16 h f s
  | .vmulI32 h f => Sys2Proof.Machine.execVmulI32 h f s
  | .vmulBf16 h f => Sys2Proof.Machine.execVmulBf16 h f s
  | .vmulF32 h f => Sys2Proof.Machine.execVmulF32 h f s
  | .vminI8 h f => Sys2Proof.Machine.execVminI8 h f s
  | .vminI16 h f => Sys2Proof.Machine.execVminI16 h f s
  | .vminI32 h f => Sys2Proof.Machine.execVminI32 h f s
  | .vminBf16 h f => Sys2Proof.Machine.execVminBf16 h f s
  | .vminF32 h f => Sys2Proof.Machine.execVminF32 h f s
  | .vmaxI8 h f => Sys2Proof.Machine.execVmaxI8 h f s
  | .vmaxI16 h f => Sys2Proof.Machine.execVmaxI16 h f s
  | .vmaxI32 h f => Sys2Proof.Machine.execVmaxI32 h f s
  | .vmaxBf16 h f => Sys2Proof.Machine.execVmaxBf16 h f s
  | .vmaxF32 h f => Sys2Proof.Machine.execVmaxF32 h f s
  | .vabsI8 h f => Sys2Proof.Machine.execVabsI8 h f s
  | .vabsI16 h f => Sys2Proof.Machine.execVabsI16 h f s
  | .vabsI32 h f => Sys2Proof.Machine.execVabsI32 h f s
  | .vabsBf16 h f => Sys2Proof.Machine.execVabsBf16 h f s
  | .vabsF32 h f => Sys2Proof.Machine.execVabsF32 h f s
  | .vnegI8 h f => Sys2Proof.Machine.execVnegI8 h f s
  | .vnegI16 h f => Sys2Proof.Machine.execVnegI16 h f s
  | .vnegI32 h f => Sys2Proof.Machine.execVnegI32 h f s
  | .vnegBf16 h f => Sys2Proof.Machine.execVnegBf16 h f s
  | .vnegF32 h f => Sys2Proof.Machine.execVnegF32 h f s
  | .vfmaBf16 h f => Sys2Proof.Machine.execVfmaBf16 h f s
  | .vnfmaBf16 h f => Sys2Proof.Machine.execVnfmaBf16 h f s
  | .vfmaF32 h f => Sys2Proof.Machine.execVfmaF32 h f s
  | .vnfmaF32 h f => Sys2Proof.Machine.execVnfmaF32 h f s
  | .vfmsBf16 h f => Sys2Proof.Machine.execVfmsBf16 h f s
  | .vfmsF32 h f => Sys2Proof.Machine.execVfmsF32 h f s
  | .vwmulI8 h f => Sys2Proof.Machine.execVwmulI8 h f s
  | .vwmulI16 h f => Sys2Proof.Machine.execVwmulI16 h f s
  | .vwmulBf16 h f => Sys2Proof.Machine.execVwmulBf16 h f s
  | .vdot4I8 h f => Sys2Proof.Machine.execVdot4I8 h f s
  | .vandI8 h f => Sys2Proof.Machine.execVandI8 h f s
  | .vandI32 h f => Sys2Proof.Machine.execVandI32 h f s
  | .vorI8 h f => Sys2Proof.Machine.execVorI8 h f s
  | .vorI32 h f => Sys2Proof.Machine.execVorI32 h f s
  | .vxorI8 h f => Sys2Proof.Machine.execVxorI8 h f s
  | .vxorI32 h f => Sys2Proof.Machine.execVxorI32 h f s
  | .vnotI8 h f => Sys2Proof.Machine.execVnotI8 h f s
  | .vnotI32 h f => Sys2Proof.Machine.execVnotI32 h f s
  | .vshlI8 h f => Sys2Proof.Machine.execVshlI8 h f s
  | .vshlI16 h f => Sys2Proof.Machine.execVshlI16 h f s
  | .vshlI32 h f => Sys2Proof.Machine.execVshlI32 h f s
  | .vshrI8 h f => Sys2Proof.Machine.execVshrI8 h f s
  | .vshrI16 h f => Sys2Proof.Machine.execVshrI16 h f s
  | .vshrI32 h f => Sys2Proof.Machine.execVshrI32 h f s
  | .vsarI8 h f => Sys2Proof.Machine.execVsarI8 h f s
  | .vsarI16 h f => Sys2Proof.Machine.execVsarI16 h f s
  | .vsarI32 h f => Sys2Proof.Machine.execVsarI32 h f s
  | .vcmpI8 h f => Sys2Proof.Machine.execVcmpI8 h f s
  | .vcmpI16 h f => Sys2Proof.Machine.execVcmpI16 h f s
  | .vcmpI32 h f => Sys2Proof.Machine.execVcmpI32 h f s
  | .vcmpF8 h f => Sys2Proof.Machine.execVcmpF8 h f s
  | .vcmpBf16 h f => Sys2Proof.Machine.execVcmpBf16 h f s
  | .vcmpF32 h f => Sys2Proof.Machine.execVcmpF32 h f s
  | .vselI8 h f => Sys2Proof.Machine.execVselI8 h f s
  | .vselI16 h f => Sys2Proof.Machine.execVselI16 h f s
  | .vselI32 h f => Sys2Proof.Machine.execVselI32 h f s
  | .vcvt h f => Sys2Proof.Machine.execVcvt h f s
  | .vexp2 h f => Sys2Proof.Machine.execVexp2 h f s
  | .vlog2 h f => Sys2Proof.Machine.execVlog2 h f s
  | .vrcp h f => Sys2Proof.Machine.execVrcp h f s
  | .vrsq h f => Sys2Proof.Machine.execVrsq h f s
  | .vtanh h f => Sys2Proof.Machine.execVtanh h f s
  | .vredsI32 h f => Sys2Proof.Machine.execVredsI32 h f s
  | .vredsF32 h f => Sys2Proof.Machine.execVredsF32 h f s
  | .vredmI16 h f => Sys2Proof.Machine.execVredmI16 h f s
  | .vredmI32 h f => Sys2Proof.Machine.execVredmI32 h f s
  | .vredmBf16 h f => Sys2Proof.Machine.execVredmBf16 h f s
  | .vredmF32 h f => Sys2Proof.Machine.execVredmF32 h f s
  | .vscanI32 h f => Sys2Proof.Machine.execVscanI32 h f s
  | .vscanF32 h f => Sys2Proof.Machine.execVscanF32 h f s
  | .vpermI8 h f => Sys2Proof.Machine.execVpermI8 h f s
  | .vpermI16 h f => Sys2Proof.Machine.execVpermI16 h f s
  | .vpermI32 h f => Sys2Proof.Machine.execVpermI32 h f s
  | .vslideI8 h f => Sys2Proof.Machine.execVslideI8 h f s
  | .vslideI32 h f => Sys2Proof.Machine.execVslideI32 h f s
  | .vbcastI8 h f => Sys2Proof.Machine.execVbcastI8 h f s
  | .vbcastI16 h f => Sys2Proof.Machine.execVbcastI16 h f s
  | .vbcastI32 h f => Sys2Proof.Machine.execVbcastI32 h f s
  | .vidx h f => Sys2Proof.Machine.execVidx h f s
  | .vmovsv h f => Sys2Proof.Machine.execVmovsv h f s
  | .vmovvs h f => Sys2Proof.Machine.execVmovvs h f s
  | .vrb h f => Sys2Proof.Machine.execVrb h f s
  | .rot h => Sys2Proof.Machine.execRot h s
  | .vgath h f => Sys2Proof.Machine.execVgath h f s
  | .vscat h f => Sys2Proof.Machine.execVscat h f s
  | .vscataF32 h f => Sys2Proof.Machine.execVscataF32 h f s
  | .vscataI32 h f => Sys2Proof.Machine.execVscataI32 h f s
  | .pand h f => Sys2Proof.Machine.execPand h f s
  | .por h f => Sys2Proof.Machine.execPor h f s
  | .pxor h f => Sys2Proof.Machine.execPxor h f s
  | .pnot h f => Sys2Proof.Machine.execPnot h f s
  | .pcnt h f => Sys2Proof.Machine.execPcnt h f s
  | .pff h f => Sys2Proof.Machine.execPff h f s
  | .pset h f => Sys2Proof.Machine.execPset h f s
  | .oclaim h f => Sys2Proof.Machine.execOclaim h f s
  | .orel h f => Sys2Proof.Machine.execOrel h f s
  | .oload h f => Sys2Proof.Machine.execOload h f s
  | .oloadS h f => Sys2Proof.Machine.execOloadS h f s
  | .mma h f => Sys2Proof.Machine.execMma h f s
  | .mmap h f => Sys2Proof.Machine.execMmap h f s
  | .mmapt h f => Sys2Proof.Machine.execMmapt h f s
  | .mdrain h f => Sys2Proof.Machine.execMdrain h f s
  | .mzero h f => Sys2Proof.Machine.execMzero h f s
  | .mstat h f => Sys2Proof.Machine.execMstat h f s
  | .mres h f => Sys2Proof.Machine.execMres h f s
  | .mmode h f => Sys2Proof.Machine.execMmode h f s
  | .resultLanding k => Sys2Proof.Machine.execResultLanding k s
  | .accessPerform k id => Sys2Proof.Machine.execAccessPerform k id s
  | .translationWalk k id => Sys2Proof.Machine.execTranslationWalk k id s
  | .wcReadModifyWrite k unit => Sys2Proof.Machine.execWcReadModifyWrite k unit s
  | .handlerStart k => Sys2Proof.Machine.execHandlerStart k s
  | .interruptTaken k => Sys2Proof.Machine.execInterruptTaken k s
  | .tick k ctx => Sys2Proof.Machine.execTick k ctx s
  | .deferredTrap k => Sys2Proof.Machine.execDeferredTrap k s
  | .copyStart k => Sys2Proof.Machine.execCopyStart k s
  | .copyBeat k id => Sys2Proof.Machine.execCopyBeat k id s
  | .copyComplete k id => Sys2Proof.Machine.execCopyComplete k id s
  | .streamStart k => Sys2Proof.Machine.execStreamStart k s
  | .drain k => Sys2Proof.Machine.execDrain k s
  | .streamLateDecode k blk => Sys2Proof.Machine.execStreamLateDecode k blk s
  | .streamOver k => Sys2Proof.Machine.execStreamOver k s
  | .oloadSComplete k id => Sys2Proof.Machine.execOloadSComplete k id s
  | .tileCommandStart k => Sys2Proof.Machine.execTileCommandStart k s
  | .tileCommandComplete k id => Sys2Proof.Machine.execTileCommandComplete k id s
  | .oloadComplete k id => Sys2Proof.Machine.execOloadComplete k id s
  | .mdrainComplete k id => Sys2Proof.Machine.execMdrainComplete k id s
  | .mresImageRead k id => Sys2Proof.Machine.execMresImageRead k id s
  | .stopImageWrite k id => Sys2Proof.Machine.execStopImageWrite k id s
  | .replay k => Sys2Proof.Machine.execReplay k s
  | .gatherGroupPerform k id => Sys2Proof.Machine.execGatherGroupPerform k id s
  | .gatherComplete k id => Sys2Proof.Machine.execGatherComplete k id s
  | .groupStart k => Sys2Proof.Machine.execGroupStart k s
  | .groupEnd k => Sys2Proof.Machine.execGroupEnd k s
  | .contextSwitchBack k => Sys2Proof.Machine.execContextSwitchBack k s
  | .park k => Sys2Proof.Machine.execPark k s
  | .sliceExpiry l => Sys2Proof.Machine.execSliceExpiry l s
  | .launchDispatch => Sys2Proof.Machine.execLaunchDispatch s
  | .launchComplete l => Sys2Proof.Machine.execLaunchComplete l s
  | .launch c => Sys2Proof.Machine.execLaunch c s
  | .copyin vf q => Sys2Proof.Machine.execCopyin vf q s
  | .copyout vf q => Sys2Proof.Machine.execCopyout vf q s
  | .signalAdd vf q => Sys2Proof.Machine.execSignalAdd vf q s
  | .signalInterrupt vf q => Sys2Proof.Machine.execSignalInterrupt vf q s
  | .waitsig c => Sys2Proof.Machine.execWaitsig c s
  | .waitsigComplete vf q => Sys2Proof.Machine.execWaitsigComplete vf q s
  | .queryQueues vf q => Sys2Proof.Machine.execQueryQueues vf q s
  | .querySignal vf q => Sys2Proof.Machine.execQuerySignal vf q s
  | .queryCores vf q => Sys2Proof.Machine.execQueryCores vf q s
  | .resetVf c => Sys2Proof.Machine.execResetVf c s
  | .resetVfClear vf => Sys2Proof.Machine.execResetVfClear vf s
  | .completionRetry vf => Sys2Proof.Machine.execCompletionRetry vf s
  | .recordWrite => Sys2Proof.Machine.execRecordWrite s
  | .recordRetry k => Sys2Proof.Machine.execRecordRetry k s
  | .replyResume r => Sys2Proof.Machine.execReplyResume r s
  | .replyFail r => Sys2Proof.Machine.execReplyFail r s
  | .partitionConfigure p => Sys2Proof.Machine.execPartitionConfigure p s
  | .dirtySwap vf w => Sys2Proof.Machine.execDirtySwap vf w s
  | .dirtySwapComplete vf => Sys2Proof.Machine.execDirtySwapComplete vf s
  | .snap vf => Sys2Proof.Machine.execSnap vf s
  | .pauseVf vf => Sys2Proof.Machine.execPauseVf vf s
  | .vfPaused vf => Sys2Proof.Machine.execVfPaused vf s
  | .resumeVf vf o => Sys2Proof.Machine.execResumeVf vf o s
  | .viral => Sys2Proof.Machine.execViral s
  | .snapctr => Sys2Proof.Machine.execSnapctr s
  | .keyload slot wrapped => Sys2Proof.Machine.execKeyload slot wrapped s
  | .keyclr slot => Sys2Proof.Machine.execKeyclr slot s
  | .keySlotSwitch slot => Sys2Proof.Machine.execKeySlotSwitch slot s
  | .attestationReport nonce => Sys2Proof.Machine.execAttestationReport nonce s
  | .mr3Extend digest => Sys2Proof.Machine.execMr3Extend digest s
  | .routeSwapRequest => Sys2Proof.Machine.execRouteSwapRequest s
  | .ltolWrite v => Sys2Proof.Machine.execLtolWrite v s
  | .registerWrite r => Sys2Proof.Machine.execRegisterWrite r s
  | .halvingRequest => Sys2Proof.Machine.execHalvingRequest s
  | .halvingEndRequest => Sys2Proof.Machine.execHalvingEndRequest s
  | .thermalHalving h => Sys2Proof.Machine.execThermalHalving h s
  | .powerStateEntry => Sys2Proof.Machine.execPowerStateEntry s
  | .powerStateExit => Sys2Proof.Machine.execPowerStateExit s
  | .powerExitComplete => Sys2Proof.Machine.execPowerExitComplete s
  | .wake => Sys2Proof.Machine.execWake s
  | .packageReset => Sys2Proof.Machine.execPackageReset s
  | .bootRepair => Sys2Proof.Machine.execBootRepair s
  | .bootMarch failing => Sys2Proof.Machine.execBootMarch failing s
  | .bootMeasure => Sys2Proof.Machine.execBootMeasure s
  | .bootRun => Sys2Proof.Machine.execBootRun s
  | .realignExchange => Sys2Proof.Machine.execRealignExchange s
  | .realignMessage g => Sys2Proof.Machine.execRealignMessage g s
  | .realignTimeout => Sys2Proof.Machine.execRealignTimeout s
  | .slotDepart w => Sys2Proof.Machine.execSlotDepart w s
  | .retransmit w => Sys2Proof.Machine.execRetransmit w s
  | .packetForward port p => Sys2Proof.Machine.execPacketForward port p s
  | .packetReceive p => Sys2Proof.Machine.execPacketReceive p s
  | .ackReceive w seq => Sys2Proof.Machine.execAckReceive w seq s
  | .controlMessage m => Sys2Proof.Machine.execControlMessage m s
  | .boundaryStart => Sys2Proof.Machine.execBoundaryStart s
  | .voteCutoff => Sys2Proof.Machine.execVoteCutoff s
  | .applySpan => Sys2Proof.Machine.execApplySpan s
  | .boundaryResume => Sys2Proof.Machine.execBoundaryResume s
  | .scrubSlot addr => Sys2Proof.Machine.execScrubSlot addr s
  | .patrol addr => Sys2Proof.Machine.execPatrol addr s
  | .mbctlStart m v => Sys2Proof.Machine.execMbctlStart m v s
  | .mbctlEnd m v => Sys2Proof.Machine.execMbctlEnd m v s
  | .mbctlKill m v => Sys2Proof.Machine.execMbctlKill m v s
  | .apop m => Sys2Proof.Machine.execApop m s
  | .opush m v => Sys2Proof.Machine.execOpush m v s
  | .actionDelivery m => Sys2Proof.Machine.execActionDelivery m s
  | .watchdogExpiry m => Sys2Proof.Machine.execWatchdogExpiry m s
  | .systemObservationAppend m => Sys2Proof.Machine.execSystemObservationAppend m s
  | .hartTimerInterrupt h => Sys2Proof.Machine.execHartTimerInterrupt h s
  | .illegalInstruction w ext => Sys2Proof.Machine.execIllegalInstruction w ext s
  | .reservationEnd k => Sys2Proof.Machine.execReservationEnd k s
  | .hostPathInvalidation vf => Sys2Proof.Machine.execHostPathInvalidation vf s

end Sys2Proof.Machine
end

