-- ==== Sys2Proof/Machine/Schedule.lean ====
section
/-!
DEFINITION. Machine/Schedule.lean: one core's issue phase, the events of the calendar, and the end of a cycle (R37, R89, R176, R285, R290,
R298, R336, R347, R429; log entry 13, DESIGN CHOICE). One step of the model does one of these.
-/
namespace Sys2Proof.Machine

/-! ## What is due -/

/-- The context's strands may issue: it is not in its handler, or it is the handler's strand C (R340). -/
def mayIssue (x : Ctx) (st : StrandId) : Bool :=
  match x.handler with
  | .none => true
  | .running => st = .C
  | _ => false

/-- The strand's next instruction is due (R37). -/
def strandDue (x : Ctx) (c : Nat) (st : StrandId) : Bool :=
  let t := x.strand st
  !t.halted && decide (t.next ≤ c) && mayIssue x st

/-- The core runs a group and issues (R343, R376, R381, R408). -/
def coreLive (c : Core) (s : State) : Bool :=
  (match c.ctx.group with | some g => g.failed.isNone | none => false) && !c.stopped && !s.svc.viral && c.parking.isNone

/-- A deferred trap may be taken (R349). -/
def deferredDue (c : Core) (s : State) : Bool := c.deferred.isSome && !c.ctx.inHandler s.gcyc

/-- A strand's instruction is due on a core, and a boundary does not hold the strand (R328). -/
def dueOn (c : Core) (s : State) (st : StrandId) : Bool := strandDue c.ctx s.gcyc st && !podHeld c st s

/-- Something asks for the core's issue phase in this cycle. -/
def coreDue (c : Core) (s : State) : Bool :=
  coreLive c s && (StrandId.all.any (dueOn c s) || deferredDue c s
    || (anySource c.ctx && bit c.trapbase 0 && canInterrupt (focus c.idx s)))

/-! ## One attempt -/

/-- The strand's word is outside its image (R66). -/
def outside (t : Strand) : Bool := t.image.length ≤ t.pc / 4

/-- The extension word of a strand's instruction, where it takes one and the image holds it (R44, R46). -/
def extAt (st : StrandId) (t : Strand) : Option W32 :=
  if isLong st (t.image.getD (t.pc / 4) 0) then t.image[t.pc / 4 + 1]? else none

/-- The strand that attempts its instruction. -/
def turnTo (st : StrandId) (s : State) : State := { s with cur := st, verdict := .none }

/-- Fetch, decode and execute one instruction of a strand (R39, R46, R66). What cannot be decoded waits behind a FENCE as any other
instruction of strand A does (R206). -/
def attempt (st : StrandId) (s0 : State) : Out :=
  let s := turnTo st s0
  let t := s.str
  let w := s.word
  if outside t then .next (if (gateStop s).isSome then linger s else precise 0x05 (BitVec.ofNat 64 t.pc) s)
  else
    match decode st w (extAt st t) with
    | .ok i => exec i s
    | .error _ => if (gateStop s).isSome then .next (linger s) else execIllegalInstruction w ((extAt st t).getD 0) s

/-! ## The issue phase (R176, R178, R290, R292, R336) -/

/-- What the strands of the cycle have come to: the state with what has issued or holds, who issued, and what trapped. -/
structure Round where
  st     : State
  issued : List StrandId
  held   : List StrandId
  traps  : List (Exc × Bool)
  deriving DecidableEq, Repr

/-- One strand's turn: a trap leaves the state as it was. -/
def turn (r : Round) (st : StrandId) : Round :=
  match attempt st r.st with
  | .next t =>
    match t.verdict with
    | .trapped e => { r with traps := r.traps ++ [(e, (r.st.ctx.strand st).timed)] }
    | .held => { r with st := t, held := r.held ++ [st] }
    | _ => { r with st := t, issued := r.issued ++ [st] }
  | _ => r

/-- The strands whose instructions are due, in the order C, A, V, M. -/
def dueStrands (s : State) : List StrandId := StrandId.all.filter (dueOn s.core s)

/-- The words due; strand A's is not while it waits behind a FENCE, a MARK or an ordered access. -/
def plannedWords (s : State) : List Planned :=
  (dueStrands s).filterMap fun st =>
    let t := s.ctx.strand st
    if outside t || (gateStop { s with cur := st }).isSome then none
    else some ⟨st, t.image.getD (t.pc / 4) 0, (extAt st t).getD 0⟩

/-- The strand is bound by SYNCMASK and has not halted (R290). -/
def bound (s : State) (st : StrandId) : Bool := s.core.syncmask.getLsbD st.num && !(s.ctx.strand st).halted

/-- The plan in which the given strands lack a partner (R290), with given pops (R178). -/
def planned (apart : BitVec 4) (pops : Vector Nat 16) (s : State) : State :=
  { s with plan := ⟨plannedWords s, StrandId.all.filter fun st => !(s.ctx.strand st).halted, apart, s.ctx.tokens, pops⟩ }

def noPops : Vector Nat 16 := Vector.replicate 16 0

/-- Every due strand takes its turn. -/
def rounds (s : State) : Round := (dueStrands s).foldl turn ⟨s, [], [], []⟩

/-- Tokens that the strands have popped. -/
def popsOf (before after : Vector Nat 16) : Vector Nat 16 :=
  (List.range 16).foldl (fun v i => if h : i < 16 then v.set i (before[i] - after[i]) h else v) noPops

/-- A word of TKS, whose check counts the pops of every strand (R178). -/
def isTks (w : W32) : Bool := !bit w 31 && fld w 21 7 = 0x30

/-- The turns in which the given strands lack a partner; a second time, with the pops known, where a TKS is due. -/
def settled (apart : BitVec 4) (s : State) : Round :=
  let r := rounds (planned apart noPops s)
  if (plannedWords s).any fun p => isTks p.word then rounds (planned apart (popsOf s.ctx.tokens r.st.ctx.tokens) s) else r

/-- The strand is bound and has an S = 1 instruction due. -/
def dueS (s : State) (st : StrandId) : Bool := bound s st && (plannedWords s).any fun p => p.st = st && bit p.word 30

/-- The strand has issued; it has issued or its own check has raised an exception. -/
def Round.came (r : Round) (st : StrandId) : Bool := r.issued.contains st
def Round.tried (r : Round) (st : StrandId) : Bool := r.came st || r.traps.any fun e => e.1.strand = st

/-- The bound strands with a property, as a mask. -/
def strandMask (p : StrandId → Bool) : BitVec 4 :=
  StrandId.all.foldl (fun m st => if p st then m ||| BitVec.ofNat 4 (2 ^ st.num) else m) 0

/-- The bound strands whose S = 1 instruction lacks a partner, as the turns have come out (R290; log entry 16, DEDUCED). One that would
issue needs every other bound strand to issue an S = 1 instruction; one whose own check raises an exception raises it where the
others would issue or raise theirs; one that holds or serves a wait of its own has nothing to issue. -/
def apartOf (s : State) (r : Round) : BitVec 4 :=
  strandMask fun st =>
    let others := fun (p : StrandId → Bool) => StrandId.all.all fun o => o = st || !bound s o || (dueS s o && p o)
    dueS s st && ((r.came st && !others r.came) || (!r.came st && r.tried st && !others r.tried))

/-- The cycle's turns. They are taken first as if no partner were missing, then with the strands held that lack one; a bound strand
that only then can issue lacks its partner too. -/
def phase (s : State) : Round :=
  let r := settled 0 s
  let m := apartOf s r
  if s.core.syncmask = 0 || m = 0 then r
  else
    let r := settled m s
    let n := strandMask fun st => dueS s st && r.came st
    if n = 0 then r else settled (m ||| n) s

/-- The exception the core takes: the one of highest class, then by strand (R336). -/
def pick : List (Exc × Bool) → Option (Exc × Bool)
  | [] => none
  | e :: es =>
    match pick es with
    | none => some e
    | some f => if excClass f.1.code.toNat < excClass e.1.code.toNat
        || (excClass f.1.code.toNat = excClass e.1.code.toNat && f.1.strand.num < e.1.strand.num) then some f else some e

/-- The trap is taken at the state the cycle began with. An instruction that changes something else as it traps (TRAP, and STEP's missed
schedule) is attempted alone (R91, R327). -/
def takeTrap (e : Exc × Bool) (s : State) : State :=
  if e.1.code = 0x1B || e.1.code = 0x0C then
    match attempt e.1.strand (planned 0 noPops s) with
    | .next t => afterTrap e.1 e.2 t
    | _ => s
  else afterTrap e.1 e.2 (enterTrap e.1 { s with cur := e.1.strand })

/-- The words a strand issued, as the signature takes them (R293). -/
def sigWords (s : State) (st : StrandId) : List Byte :=
  match s.plan.due.find? fun p => p.st = st with
  | some p => leBytes 4 p.word.toNat ++ if isLong st p.word then leBytes 4 p.ext.toNat else []
  | none => []

/-- An open segment observes the cycle's issues (R293, R402). -/
def observe (issued : List StrandId) (s : State) : State :=
  match s.core.seg with
  | some g =>
    if g.void || s.gcyc ≤ g.start || issued.isEmpty
      || (s.staged.any fun u => match u with | .segEnd k => k = s.core.idx | _ => false) then s
    else
      let bs := leBytes 2 (s.gcyc - g.start - s.core.slip) ++ issued.flatMap (sigWords s)
      { s with core := { s.core with seg := some { g with sig := g.sig ++ bs } } }
  | none => s

/-- The event counters' view of the cycle: issues and free-mode holds (R430). -/
def countIssues (r : Round) (s : State) : State :=
  let s := r.issued.foldl (fun s st => count (1 + st.num) 1 s) s
  count 0x06 (r.held.filter fun st => !(r.st.ctx.strand st).timed).length s

/-- The issue phase is over: what it was planned with is forgotten. -/
def closePhase (s : State) : State := { s with plan := .empty, verdict := .none }

/-- One core's issue phase: a trap, or an interrupt, or the issues of the cycle (R336, R347). A deferred trap of an access is taken in the mode
of strand A; the array's step failure is told where it escalates (R406). -/
def issuePhase (k : Nat) (s0 : State) : State :=
  let s := pruneAccesses (focus k s0)
  let r := phase s
  let late := if deferredDue s.core s then (s.core.deferred.map fun e => (e, e.strand = .A && s.ctx.a.timed)).toList else []
  match pick (r.traps ++ late) with
  | some e =>
    if late.contains e && !r.traps.contains e then
      closePhase (afterTrap e.1 e.2 (enterTrap e.1 { s with core := { s.core with deferred := none } }))
    else closePhase (takeTrap e s)
  | none => if canInterrupt s then closePhase (takeInterrupt s) else closePhase (countIssues r (observe r.issued r.st))

/-! ## The calendar -/

/-- What a package in the viral state still does (R408). -/
def Wake.survives : Wake → Bool
  | .realignExchange | .realignTimeout | .boundaryStart | .voteCutoff | .applySpan | .boundaryResume | .slotDepart _ | .linkArrive .. | .retransmit _
  | .ackReceive .. | .thermalHalving _ | .halvingRequest | .halvingEndRequest | .powerWatch | .tick .. | .hartTimer _ | .actionDelivery _
  | .watchdogExpiry _ | .snapshot | .keySlotSwitch _ | .scrubSlot _ | .patrol _ | .lineScrub .. | .plinthScrub _ | .dirtySwap .. | .dirtySwapComplete _
  | .vfPaused _ | .powerStateEntry | .powerExitComplete | .packageReset | .bootRepair | .bootMarch | .bootMeasure | .bootRun => true
  | _ => false

/-- The rows that the march of this boot finds failing are free (R412; log entry 22, DESIGN CHOICE). -/
def bootMarch (s : State) : State :=
  let d := draw s
  marchStep (Config.marchRows d.1) d.2

/-- The meaning of an event of the calendar: that of the step of the same name. -/
def wakeEvent (w : Wake) (s : State) : Out :=
  match w with
  | .resultLanding k => execResultLanding k s
  | .accessPerform k id => execAccessPerform k id s
  | .translationWalk k id => execTranslationWalk k id s
  | .wcWrite k unit late => onCore k (wcStep unit late) s
  | .handlerStart k => execHandlerStart k s
  | .tick k ctx => execTick k ctx s
  | .deferredTrap k => execDeferredTrap k s
  | .copyStart k => execCopyStart k s
  | .copyBeat k id => execCopyBeat k id s
  | .copyComplete k id => execCopyComplete k id s
  | .streamStart k => execStreamStart k s
  | .drain k => execDrain k s
  | .streamLateDecode k blk => execStreamLateDecode k blk s
  | .streamOver k => execStreamOver k s
  | .reservationEnd k => execReservationEnd k s
  | .oloadSComplete k id => execOloadSComplete k id s
  | .tileStart k => execTileCommandStart k s
  | .tileComplete k id => execTileCommandComplete k id s
  | .oloadComplete k id => execOloadComplete k id s
  | .mdrainComplete k id => execMdrainComplete k id s
  | .mresImageRead k id => execMresImageRead k id s
  | .stopImageWrite k id => execStopImageWrite k id s
  | .replay k => execReplay k s
  | .gatherPerform k id => execGatherGroupPerform k id s
  | .gatherComplete k id => execGatherComplete k id s
  | .groupStart k => execGroupStart k s
  | .groupEnd k => execGroupEnd k s
  | .switchBack k => execContextSwitchBack k s
  | .park k => execPark k s
  | .sliceExpiry l => execSliceExpiry l s
  | .launchDispatch => execLaunchDispatch s
  | .launchComplete l => execLaunchComplete l s
  | .serve vf q => .next (serveHead vf q s)
  | .resetVfClear vf => execResetVfClear vf s
  | .completionRetry vf => execCompletionRetry vf s
  | .recordWrite => execRecordWrite s
  | .recordRetry k => execRecordRetry k s
  | .reply r => onCore (replyCore r) replyStep s
  | .dirtySwap vf w => onUnit (vf < 16) (swapStep vf w) s
  | .dirtySwapComplete vf => execDirtySwapComplete vf s
  | .vfPaused vf => execVfPaused vf s
  | .keySlotSwitch slot => execKeySlotSwitch slot s
  | .halvingRequest => execHalvingRequest s
  | .halvingEndRequest => execHalvingEndRequest s
  | .powerWatch => powerWatch s
  | .thermalHalving h => execThermalHalving h s
  | .powerStateEntry => execPowerStateEntry s
  | .powerExitComplete => execPowerExitComplete s
  | .packageReset => execPackageReset s
  | .bootRepair => execBootRepair s
  | .bootMarch => .next (bootMarch s)
  | .bootMeasure => execBootMeasure s
  | .bootRun => execBootRun s
  | .realignExchange => execRealignExchange s
  | .realignTimeout => execRealignTimeout s
  | .slotDepart w => execSlotDepart w s
  | .linkArrive c port inPort => .next (linkStep c port inPort s)
  | .retransmit w => execRetransmit w s
  | .ackReceive w seq => execAckReceive w seq s
  | .boundaryStart => execBoundaryStart s
  | .voteCutoff => execVoteCutoff s
  | .applySpan => execApplySpan s
  | .boundaryResume => execBoundaryResume s
  | .scrubSlot a => execScrubSlot a s
  | .patrol a => execPatrol a s
  | .lineScrub k l w => .next (scrubLine k l w s)
  | .plinthScrub i => .next (scrubEntry i s)
  | .actionDelivery m => execActionDelivery m s
  | .watchdogExpiry m => execWatchdogExpiry m s
  | .hartTimer h => execHartTimerInterrupt h s
  | .snapshot => .next (takeSnapshot s)

/-- An event of the calendar happens, or comes to nothing in the viral state. -/
def runWake (w : Wake) (s : State) : Out := if s.svc.viral && !w.survives then .next s else wakeEvent w s

/-! ## Event counters (R429, R430) -/

/-- Cycles from c to n − 1 that lie in [lo, hi]. -/
def overlap (c n lo hi : Nat) : Nat := min n (hi + 1) - max c lo

/-- The cycles from this one to n − 1 in which a strand serves an idle count or a WAIT, from one to before another: not the cycles that a STEP
or a switch of contexts takes (R327, R359, R430). -/
def idleSpan (n : Nat) (c : Core) (s : State) (st : StrandId) : Nat × Nat :=
  let t := c.ctx.strand st
  let lo := if s.tally.any fun x => x.level = 0 && x.unit = c.idx && x.src = 1 + st.num then s.gcyc + 1 else s.gcyc
  if t.halted || t.held || !mayIssue c.ctx st then (lo, lo) else (max lo t.idleFrom, min n t.next)

/-- A span without a core's slip cycles, which are a source of their own (R402, R430). -/
def outsideSlip (c : Core) (x : Nat × Nat) : List (Nat × Nat) :=
  match c.replay with
  | none => [x]
  | some r => [(x.1, min x.2 r.1), (max x.1 (r.1 + r.2), x.2)]

/-- Insert a span by its start. -/
def insSpan (x : Nat × Nat) : List (Nat × Nat) → List (Nat × Nat)
  | [] => [x]
  | y :: ys => if x.1 ≤ y.1 then x :: y :: ys else y :: insSpan x ys

/-- The cycles that spans in order of their starts cover. -/
def covered (xs : List (Nat × Nat)) : Nat := (xs.foldl (fun r x => (r.1 + (x.2 - max x.1 r.2), max r.2 x.2)) (0, 0)).1

/-- Cycles from this one to n − 1 in which strands of a core serve an idle count or a wait: in all, and with one at least. -/
def idleCycles (n : Nat) (c : Core) (s : State) : Nat × Nat :=
  let xs := ((StrandId.all.map (idleSpan n c s)).flatMap (outsideSlip c)).filter fun x => decide (x.1 < x.2)
  (xs.foldl (fun m x => m + (x.2 - x.1)) 0, covered (xs.foldl (fun ys x => insSpan x ys) []))

/-- Cycles from this one to n − 1 in which the core's array half steps (R261, R264). -/
def stepCycles (n : Nat) (c : Core) (s : State) : Nat :=
  let a := s.arrAt (c.idx / 2)
  (a.runs.filter fun r => r.half = c.idx % 2).foldl (fun m r =>
    let k := (r.upTo.getD (fwK r.cmd.fw) - r.cmd.kfrom) * fwRho r.cmd.fw
    m + ((List.range k).filter fun j =>
      let x := stepCycle a.mmode (r.cmd.start.getD 0) j
      decide (s.gcyc ≤ x) && decide (x < n)).length) 0

/-- Flits that the package puts on its links from this cycle to n − 1, and the cycles that hold one (R318). -/
def sentFlits (n : Nat) (s : State) : Nat × Nat :=
  let cs := s.pod.out.flatMap fun e => (((List.range (packetFlits e.2.2.2)).filter fun i => !e.2.2.2.lost.contains i).map fun i => e.1 + i).filter
    fun c => decide (s.gcyc ≤ c) && decide (c < n)
  (cs.length, cs.eraseDups.length)

/-- The first of the cycles up to n that belongs to an exit from a power state; n where none does (R428, R430). -/
def exitStart (n : Nat) (s : State) : Nat := if s.svc.exitAt.isSome then min n (exitFrom s) else n

/-- The count of a source from this cycle to n − 1, and the cycles that hold it. -/
def sourceCount (n level unit src : Nat) (core : Option Core) (s : State) : Nat × Nat :=
  let both := fun (k : Nat) => (k, k)
  match level, src, core with
  | 0, 0x00, _ => both (n - s.gcyc)
  | 0, 0x05, some c => idleCycles n c s
  | 0, 0x07, some c => both (stepCycles n c s)
  | 0, 0x0F, some c => both ((c.replay.map fun r => overlap s.gcyc n r.1 (r.1 + r.2 - 1)).getD 0)
  | 2, 0x82, _ => sentFlits n s
  | 2, 0x87, _ => both (if s.svc.halved then n - s.gcyc else 0)
  | 2, 0x8C, _ => both (n - exitStart n s)
  | 2, 0x8D, _ => both (if quadGated s then n - s.gcyc else 0)
  | _, _, _ =>
    if level = 2 && 0x88 ≤ src && src ≤ 0x8B then both (if s.svc.power = src - 0x88 then exitStart n s - s.gcyc else 0)
    else
      let m := (s.tally.filter fun t => t.level = level && t.unit = unit && t.src = src).foldl (fun m t => m + t.n) 0
      (m, if m = 0 then 0 else 1)

/-- A core source at a core, a cluster source at a cluster, a package source at the package. -/
def sourceAt (level src : Nat) : Bool :=
  (level = 0 && src ≤ 0x12) || (level = 1 && 0x40 ≤ src && src ≤ 0x42) || (level = 2 && 0x80 ≤ src && src ≤ 0x8D)

/-- The cycle before which the counter counts, of those from this one to n − 1: it is enabled, and the core runs a group of its VF where it asks
for one. A group that has left the core ran on it in its last cycle. -/
def countsTo (n : Nat) (c : Counter) (core : Option Core) (s : State) : Nat :=
  let v := (fld c.ctl 18 4).toNat
  if !bit c.ctl 17 then s.gcyc
  else if !bit c.ctl 22 then n
  else match core with
    | some k =>
      if k.ctx.group.any fun g => g.vf = v then n else if k.ended = some (s.gcyc, v) then min n (s.gcyc + 1) else s.gcyc
    | none => n

def countOne (n level unit : Nat) (core : Option Core) (s : State) (c : Counter) : Counter :=
  let src := (fld c.ctl 0 8).toNat
  let n := countsTo n c core s
  if s.gcyc < n && sourceAt level src then
    let x := sourceCount n level unit src core s
    let v := c.count.toNat + if bit c.ctl 16 then x.2 else x.1
    { count := BitVec.ofNat 48 v, ctl := if 2 ^ 48 ≤ v then c.ctl ||| 0x800000 else c.ctl }
  else c

/-- The counters of a core that count anything. -/
def countCore (n : Nat) (s : State) (c : Core) : Core :=
  if c.counters.toList.any fun x => bit x.ctl 17 then { c with counters := c.counters.map (countOne n 0 c.idx (some c) s) } else c

/-- Every counter takes the events of the cycle, and the cycles up to n. -/
def countAll (n : Nat) (s : State) : State :=
  { s with
    core := countCore n s s.core
    others := s.others.map (countCore n s)
    clusterCnt := s.clusterCnt.map fun c => (c.1, c.2.1, countOne n 1 c.1 none s c.2.2)
    packageCnt := if s.packageCnt.toList.any fun x => bit x.ctl 17 then s.packageCnt.map (countOne n 2 0 none s) else s.packageCnt
    tally := [] }

/-! ## The end of a cycle -/

/-- The place of an update in the order of the cycle's end (R83, R89, R176, R231, R298, R338). -/
def Staged.place : Staged → Nat
  | .csr .. => 0
  | .rot .. => 1
  | .bini .. => 2
  | .arrive _ _ agent _ _ _ => if agent = 4 then 4 else 3
  | .expect .. => 5
  | .mzero .. => 6
  | .rbrec .. => 7
  | .slotRec .. => 8
  | .orel .. => 9
  | .mmode .. => 10
  | .push _ _ agent _ _ _ => 11 + min agent 7
  | .pert .. => 19
  | .fmt .. => 20
  | .tlbi .. => 21
  | .yield .. => 22
  | .segEnd .. => 23
  | .frameHead .. => 24
  | .mbctl .. => 25
  | .obs .. => 26
  | .pfp .. => 27

/-- An arrival (R297, R298); one of a copy on a word that is not live is recorded (R173). -/
def applyArrive (k : Nat) (second : Bool) (agent key : Nat) (av : Word) (pc : Nat) (s : State) : State :=
  let b := s.bar key
  if b.live then withCore k (count 0x12 (if b.pend ≤ 1 then 1 else 0)) (s.setBar b.arrive)
  else if agent = 4 then withCore k (reportAs second 0x07 pc 1 2 av) s
  else s

/-- Strand and AGENT of an engine's record (R352): copy engine, array half, chisel, gather unit. -/
def agentOf (agent : Nat) : Nat × Nat :=
  match agent with
  | 4 => (1, 2)
  | 5 => (3, 4)
  | 6 => (3, 3)
  | _ => (2, 5)

/-- A push (R176, R177): a channel holds 8 tokens. -/
def applyPush (second : Bool) (agent ch pc : Nat) (s : State) : State :=
  let x := s.ctxNum second
  if h : ch < 16 then
    if x.tokens[ch] < 8 then s.setCtxNum second { x with tokens := x.tokens.set ch (x.tokens[ch] + 1) h }
    else if 4 ≤ agent then
      reportAs second 0x0A pc (agentOf agent).1 (agentOf agent).2 (BitVec.ofNat 64 ch) s
    else s
  else s

/-- YIELD's effect (R374, R377): the slice counter is zero from the next cycle. -/
def applyYield (id : Nat) (s : State) : State :=
  match s.launch id with
  | none => s
  | some l =>
    if (s.vf l.vf).slice = 0 || domPod l then s
    else addDue (s.gcyc + 1) 2 (65 + id) (.sliceExpiry id) (s.setLaunch { l with slice := 0, since := s.gcyc + 1 })

/-- One update of the end of the cycle. -/
def applyStaged (u : Staged) (s : State) : State :=
  match u with
  | .csr k second st n op v => withCore k (applyCsr second st n op v) s
  | .rot k second st =>
    withCore k (fun s => s.mapCtxNum second fun x => x.setStrand st { x.strand st with rotb := (x.strand st).rotb - 1 }) s
  | .bini _ _ key n => cleanBars (fun k => k = key) (s.setBar ((s.bar key).init n.toNat))
  | .arrive k second agent key av pc => applyArrive k second agent key av pc s
  | .expect _ _ key n => s.setBar ((s.bar key).expect n)
  | .mzero k z => withCore k (zeroAcc z) s
  | .rbrec k pos arrival tag z id => withCore k (captureDrain pos arrival tag z id) s
  | .slotRec k x ready tag =>
    withCore k (fun s => s.setSlot x { s.slot x with ready := ready, tag := tag, poison := none }) s
  | .orel k x => withCore k (fun s => s.setSlot x { s.slot x with owner := none }) s
  | .mmode k mode => withCore k (fun s => s.mapArr fun a => { a with mmode := mode }) s
  | .push k second agent ch _ pc => withCore k (applyPush second agent ch pc) s
  | .pert k second st p => withCore k (fun s => s.mapCtxNum second fun x => x.setStrand st { x.strand st with pert := p }) s
  | .fmt k second w => withCore k (fun s => s.mapCtxNum second fun x => { x with
      fq := x.fq ++ [w], fqHurt := x.fqHurt.filter fun i => decide (i < x.fq.length) }) s
  | .tlbi k vf va => withCore k (dropTlb vf va) s
  | .yield l => applyYield l s
  | .segEnd k => withCore k (fun s => { s with core := { s.core with seg := none, slip := 0 } }) s
  | .frameHead k second => withCore k (inCtx second writeHead) s
  | .mbctl m v => applyMbctl m v s
  | .obs m => appendSys (s.mailbox m) s
  | .pfp k => withCore k (fun s => { s with core := { s.core with tcause := s.core.tcause ||| 0x2000 } }) s

/-- Every staged update, in the order of the cycle's end. -/
def commit (s : State) : State :=
  match s.staged with
  | [] => s
  | us =>
    (List.range 28).foldl (fun s p => (us.filter fun u => u.place = p).foldl (fun s u => applyStaged u s) s) { s with staged := [] }

/-- The cycles after this one in which something of a core is due. -/
def coreNext (s : State) (c : Core) : List Nat :=
  if !coreLive c s then []
  else
    ((StrandId.all.filter fun st => !(c.ctx.strand st).halted && mayIssue c.ctx st && !podHeld c st s).map fun st => max (s.gcyc + 1) (c.ctx.strand st).next)
      ++ (if c.deferred.isSome || (anySource c.ctx && bit c.trapbase 0) then [s.gcyc + 1] else [])

/-- The next cycle in which anything is due; the next one where nothing is. -/
def nextCycle (s : State) : Nat :=
  let ds := (s.cal.head?.map fun d => d.cyc).toList ++ (s.inbox.map fun a => a.cyc) ++ s.cores.flatMap (coreNext s)
  match ds.map (max (s.gcyc + 1)) with
  | [] => s.gcyc + 1
  | d :: ds => ds.foldl min d

/-- The controller looks at an idle package at a multiple of 4096 (R425). -/
def watchIdle (s : State) : State :=
  if packageIdle s && s.svc.power = 0 && s.svc.exitAt.isNone && deepest s ≠ 0 then
    let c := max (s.gcyc + 1) (s.gcyc + (4096 - s.svc.quiet))
    addDue ((c + 4095) / 4096 * 4096) 2 0 .powerStateEntry s
  else s

/-- A state is entered at the start of its cycle: what wakes the package in that cycle finds it in that state (R425, R428). -/
def enterIdle (s : State) : State :=
  let now := fun (d : Due) => decide (d.cyc ≤ s.gcyc) && d.ev = .powerStateEntry
  if s.cal.any now then entryStep { s with cal := s.cal.filter fun d => !now d } else s

/-- The cycle ends: its updates are applied, and GCYC goes on to the next cycle in which something is due (R285). The count here has no bound:
the spec gives GCYC 64 bits and no wrap (R5), a core reads its low 64 bits, and the comparators are held against the count itself (log
entry 34, DESIGN CHOICE). -/
def advance (s : State) : State :=
  let s := watchIdle (commit s)
  let n := nextCycle s
  let quiet := if packageIdle s then s.svc.quiet + (n - s.gcyc) else 0
  let s := countAll n s
  enterIdle { s with gcyc := n, svc := { s.svc with quiet := quiet } }

/-! ## Placing one instruction (log entry 14, DESIGN CHOICE) -/

/-- A strand with an image to issue now, or halted. -/
def placeStrand (on : Bool) (ws : List W32) (c : Nat) : Strand :=
  if on then { Strand.idle with image := ws, halted := false, next := c } else .idle

/-- The core in focus runs a group of which one strand holds the two words of a row, and nothing else is due. -/
def placeWord (s : State) (w : Nat) : State :=
  let ws := rowWords w
  let st := (strandFor ws.1 ws.2).getD .C
  let one := fun (x : StrandId) => placeStrand (x = st) [ws.1, ws.2] s.gcyc
  let x := s.core.ctx
  { s with
    core := { s.core with
      stopped := false, parking := none, deferred := none, replay := none
      ctx := { x with
        c := one .C, a := one .A, v := one .V, m := one .M, handler := .none, gate := ⟨[], [], 0⟩
        pendTick := false, pendSig := false, pendUrg := false, group := some ⟨0, 0, 0, 0, 0, 0, none⟩ } }
    others := s.others.map fun c => { c with ctx := { c.ctx with group := none } }
    cal := [], inbox := [], svc := { s.svc with running := true, viral := false } }

/-! ## One step -/

/-- What an agent beside the cores does after every event of its cycle: a hart's register accesses, writes of registers. -/
def lateEvent : Instr → Bool
  | .registerWrite _ | .apop _ | .opush .. | .mbctlStart .. | .mbctlEnd .. | .mbctlKill .. => true
  | _ => false

/-- The port by which a message with a capsule comes in. -/
def messagePort : Instr → Option Nat
  | .launch c | .waitsig c | .resetVf c => some c.port
  | _ => none

/-- Both bring a capsule in one cycle, the first by a lower port (R419). -/
def portBefore (a b : Arrival) : Bool :=
  match messagePort a.ev, messagePort b.ev with
  | some p, some q => a.cyc = b.cyc && decide (p < q)
  | _, _ => false

/-- The first arrival that is due; of the capsules that come in with it, the first of the lowest port (R419). -/
def arrivalDue (late : Bool) (s : State) : Option Arrival :=
  match s.inbox.filter fun a => decide (a.cyc ≤ s.gcyc) && lateEvent a.ev = late with
  | [] => none
  | a :: as => some (as.foldl (fun m b => if portBefore b m then b else m) a)

/-- The calendar's first entry, if it is due at a rank below the given one. -/
def calendarDue (rank : Nat) (s : State) : Option Due :=
  match s.cal with
  | d :: _ => if d.cyc ≤ s.gcyc && d.rank < rank then some d else none
  | [] => none

/-- The first core whose issue phase is due. -/
def firstDue (s : State) : Option Nat := (s.cores.find? fun c => coreDue c s).map Core.idx

/-- One step: an arrival, an event of the start of the cycle, a core's issues, a later event, a late arrival, or the end of the
cycle. -/
def stepOnce (s : State) : Out :=
  match arrivalDue false s with
  | some a => exec a.ev { s with inbox := s.inbox.erase a }
  | none =>
  match calendarDue 3 s with
  | some d => runWake d.ev { s with cal := s.cal.tail }
  | none =>
  match firstDue s with
  | some k => .next (issuePhase k s)
  | none =>
  match calendarDue 1000 s with
  | some d => runWake d.ev { s with cal := s.cal.tail }
  | none =>
  match arrivalDue true s with
  | some a => exec a.ev { s with inbox := s.inbox.erase a }
  | none => .next (advance s)

end Sys2Proof.Machine
end

