-- ==== Sys2Proof/Machine/Step.lean ====
section
/-!
DEFINITION. Machine/Step.lean: one step of the part, and the state in which a given instruction is the one the next step issues.
-/
namespace Sys2Proof.Machine

/-- One step (Schedule.lean; log entry 13, DESIGN CHOICE). -/
def step (s : State) : Out := stepOnce s

/-- The words of an instruction, the first at the lowest address: the loader has placed them as the image of the strand that decodes
them, in a group the core in focus runs, and nothing else is due (log entry 14, DESIGN CHOICE). -/
def State.withFetchWord (s : State) (nbits w : Nat) : State := placeWord s (w % 2 ^ nbits)

end Sys2Proof.Machine
end

