-- ==== Sys2Proof/Safety.lean ====
section
/-!
DEFINITION. Safety.lean: the words in which statements speak of a run: when an instruction issues, what an issue leaves, how a
result reaches its register, and what memory keeps.
-/
namespace Sys2Proof.Machine

/-! ## When an instruction issues -/

/-- Nothing that strand A's next issue waits for is pending (R204, R206, R207). -/
def Ungated (s : State) : Prop :=
  s.cur = .A → (∀ id ∈ s.ctx.gate.all, s.pendingId id = false)
    ∧ ∀ e ∈ s.core.eng.wc, e.before s.ctx.gate.wc = false

/-- The SYNCMASK rule admits the word: S is 0, the strand is not named, or no partner is missing (R290). -/
def InSync (h : Hdr) (s : State) : Prop :=
  h.s = true → s.core.syncmask.getLsbD s.cur.num = true → s.plan.apart.getLsbD s.cur.num = false

/-- No register that is read is pending or dead, or holds an error that cannot be corrected; a scatter's data may (R50, R194, R397). -/
def Readable (us : List Use) (s : State) : Prop :=
  ∀ u ∈ us, s.ctx.isPending s.cur u = false ∧ s.ctx.isDead s.cur u = false ∧ (u.moves = false → s.ctx.isUpset s.cur u = false)

/-- No hardware loop ends at the instruction's word or words (R79). -/
def Straight (long : Bool) (s : State) : Prop :=
  ∀ l ∈ s.str.loops, l.last < s.str.pc ∨ (if long then s.str.pc + 4 else s.str.pc) < l.last

/-- In strand V no LOOPS body begins at the instruction: its issue writes no stage predicates (R83). -/
def Unstaged (s : State) : Prop :=
  s.cur = .V → ∀ l ∈ s.str.loops, l.stages = 0 ∨ l.first ≠ s.str.pc

/-- Nothing but the instruction's own conditions stands in its way, and no loop ends or is staged at it. -/
structure Ready (h : Hdr) (long : Bool) (us : List Use) (s : State) : Prop where
  ungated  : Ungated s
  inSync   : InSync h s
  readable : Readable us s
  straight : Straight long s
  unstaged : Unstaged s

/-- Vector registers in flight that hold latches (R341). -/
def flyingV (s : State) : Nat :=
  (((s.str.flights.filter fun f => f.latch).filter fun f => f.kind = .vector).map fun f => f.regs.length).sum

/-- A latch is free, and strand V has room for k more vector registers in flight (R65, R341). -/
def LatchFree (k : Nat) (s : State) : Prop :=
  (s.str.flights.filter fun f => f.latch).length < 8 ∧ (s.cur = .V → 0 < k → flyingV s + k ≤ 16)

/-! ## What an issue leaves -/

/-- The strand goes on at the next word, I + 1 cycles later, with the loops it had (R37, R63). -/
def Issued (h : Hdr) (long : Bool) (s t : State) : Prop :=
  t.verdict = .issued ∧ t.str.pc = s.str.pc + (if long then 8 else 4) ∧ t.str.next = s.gcyc + 1 + h.i.toNat ∧ t.str.held = false
    ∧ t.str.loops = s.str.loops

/-- The loops whose body contains the target: a taken transfer ends the others (R81). -/
def loopsAt (g : Nat) (ls : List Loop) : List Loop := ls.filter fun l => l.first ≤ g && g ≤ l.last

/-- The strand goes on at the target, I + 1 cycles later, and the loops that do not contain it end (R77, R81). -/
def Transferred (h : Hdr) (g : Nat) (s t : State) : Prop :=
  t.verdict = .issued ∧ t.str.pc = g ∧ t.str.next = s.gcyc + 1 + h.i.toNat ∧ t.str.held = false
    ∧ t.str.loops = loopsAt g s.str.loops

/-- A use in the list kills scalar n (R50). -/
def killsS (us : List Use) (n : BitVec 5) : Bool := n ≠ 0 && us.any fun u => u.kind = .scalar && u.reg = n && u.last

/-- A use in the list kills physical vector register p (R50). -/
def killsV (us : List Use) (rotb : BitVec 4) (p : Fin 32) : Bool :=
  us.any fun u => u.kind = .vector && physV rotb u.reg = p && u.last

/-- Which registers are dead afterwards: those that were or whose last use the instruction is, but for the one it writes now. -/
def Deaths (us : List Use) (written : Option (BitVec 5)) (s t : State) : Prop :=
  (∀ n : BitVec 5, t.str.dead.getLsbD n.toNat =
      if written = some n ∧ n ≠ 0 then false else s.str.dead.getLsbD n.toNat || killsS us n)
    ∧ ∀ p : Fin 32, t.ctx.vdead.getLsbD p.val = (s.ctx.vdead.getLsbD p.val || killsV us s.ctx.v.rotb p)

/-- Every byte of memory reads as before. -/
def KeepsMem (s t : State) : Prop := ∀ a, memRead t.mem a = memRead s.mem a

/-- Every byte of memory outside the n bytes from a on reads as before. -/
def KeepsMemBut (a n : Nat) (s t : State) : Prop := ∀ b, b < a ∨ a + n ≤ b → memRead t.mem b = memRead s.mem b

/-- The n bytes from a on are these. -/
def HoldsBytes (a : Nat) (bs : List Byte) (t : State) : Prop := ∀ j (h : j < bs.length), memRead t.mem (a + j) = bs[j]

/-- Of the whole package only the strand's PC, loops, timing, scalars, deaths and results in flight, and what is scheduled, differ. -/
def OnlyStrand (s t : State) : Prop :=
  t = { (s.setStr { s.str with
          pc := t.str.pc, regs := t.str.regs, dead := t.str.dead, upset := t.str.upset, flights := t.str.flights, next := t.str.next
          held := t.str.held, loops := t.str.loops, waitg := none }).mapCtx fun x => { x with vdead := t.ctx.vdead } with
        verdict := t.verdict, cal := t.cal }

/-! ## Results -/

/-- s_d holds v, written at latency 1; every other scalar is unchanged, and writes of s0 are discarded (R48, R64). An earlier result that
lands in s_d in this cycle, or turns out to, is lost (R64). Everything else of the package is as in w. -/
structure Scalars (us : List Use) (d : BitVec 5) (v : Word) (w s t : State) : Prop where
  value  : d ≠ 0 → t.str.get d = v
  zero   : t.str.get 0 = 0
  others : ∀ n, n ≠ d → t.str.get n = s.str.get n
  deaths : Deaths us (some d) s t
  marks  : t.str.upset = if d = 0 then s.str.upset else s.str.upset &&& ~~~((1 : BitVec 32) <<< d.toNat)
  lost   : t.str.flights = s.str.flights.map (Flight.under s.gcyc d)
  rest   : OnlyStrand w t
  cal    : t.cal = w.cal
  memory : KeepsMem s t

/-- The instruction has issued, and s_d holds v. -/
def Wrote (h : Hdr) (long : Bool) (us : List Use) (d : BitVec 5) (v : Word) (s t : State) : Prop :=
  Issued h long s t ∧ Scalars us d v s s t

/-- The instruction issues and writes the value to s_d in its issue cycle. -/
def WritesNow (i : Instr) (h : Hdr) (long : Bool) (us : List Use) (d : BitVec 5) (v : State → Word) : Prop :=
  ∀ s, Ready h long us s → ∃ t, exec i s = .next t ∧ Wrote h long us d (v s) s t

/-! ## Effects -/

/-- The instruction has issued: the strand goes on at pc in cycle next, its last uses are dead, and everything else of the package
is as in w. -/
structure Went (us : List Use) (pc next : Nat) (w s t : State) : Prop where
  verdict : t.verdict = .issued
  pc      : t.str.pc = pc
  next    : t.str.next = next
  held    : t.str.held = false
  deaths  : Deaths us none s t
  rest    : t = { (w.setStr { w.str with
      pc := t.str.pc, next := t.str.next, held := t.str.held, waitg := t.str.waitg, dead := t.str.dead }).mapCtx
        fun x => { x with vdead := t.ctx.vdead } with verdict := t.verdict }

/-- An instruction that issues where `room` holds, whose effect beside its issue is w, and that goes on at the next word. -/
def Acts (i : Instr) (h : Hdr) (long : Bool) (us : List Use) (room : State → Prop) (w : State → State) : Prop :=
  ∀ s, Ready h long us s → room s →
    ∃ t, exec i s = .next t ∧ Went us (s.str.pc + (if long then 8 else 4)) (s.gcyc + 1 + h.i.toNat) (w s) s t
      ∧ t.str.waitg = none

/-- An instruction that transfers where `room` holds: it goes on at the target, and the loops that do not contain it end (R81). -/
def Jumps (i : Instr) (h : Hdr) (us : List Use) (room : State → Prop) (target : State → Nat) (w : State → State) : Prop :=
  ∀ s, Ready h false us s → room s →
    ∃ t, exec i s = .next t ∧ t.str.waitg = none
      ∧ Went us (target s) (s.gcyc + 1 + h.i.toNat)
          ((w s).setStr { (w s).str with loops := loopsAt (target s) s.str.loops }) s t

/-- No condition. -/
def always (_ : State) : Prop := True

/-- A byte offset that holds a word of the executing strand's image (R66). -/
def InImage (g : Int) (s : State) : Prop := 0 ≤ g ∧ g < 4 * s.str.image.length

/-- A transfer with a link: it goes on at the target, and s_d holds PC + 4 (R75). -/
def Links (i : Instr) (h : Hdr) (us : List Use) (d : BitVec 5) (room : State → Prop) (target : State → Nat) : Prop :=
  ∀ s, Ready h false us s → room s →
    ∃ t, exec i s = .next t ∧ Transferred h (target s) s t ∧ Scalars us d (BitVec.ofNat 64 (s.str.pc + 4)) s s t

/-- A conditional branch: taken where the condition holds of s_a and s_b, with no effect and space bound where the target lies outside
the image, and no transfer where the condition fails (R66, R74, R76). -/
def BranchesIf (i : Instr) (h : Hdr) (f : Br) (cond : Word → Word → Prop) : Prop :=
  let us := [useS f.a, useS f.b]
  let g := fun s : State => (s.str.pc : Int) + 4 * f.off.toInt
  Jumps i h us (fun s => cond (s.rs f.a) (s.rs f.b) ∧ InImage (g s) s) (fun s => (g s).toNat) id
    ∧ Acts i h false us (fun s => ¬ cond (s.rs f.a) (s.rs f.b)) id
    ∧ ∀ s, Ready h false us s → cond (s.rs f.a) (s.rs f.b) → ¬ InImage (g s) s →
        exec i s = .next (precise 0x05 (BitVec.ofInt 64 (g s)) s)

/-! ## Results in flight -/

/-- The instruction has issued and its results are in flight: they land at the end of issue + lat − 1 (R64). -/
structure Flies (h : Hdr) (long : Bool) (us : List Use) (kind : RegKind) (lat : Nat) (regs : List Landing) (s t : State) : Prop where
  issued : Issued h long s t
  scalars : t.str.regs = s.str.regs
  marks  : t.str.upset = s.str.upset
  deaths : Deaths us none s t
  flight : t.str.flights = s.str.flights ++ [⟨kind, regs, some (s.gcyc + lat - 1), s.gcyc, true, false, false, none, 0, none⟩]
  rest   : OnlyStrand s t
  wakes  : ⟨s.gcyc + lat - 1, 8, s.core.idx, .resultLanding s.core.idx⟩ ∈ t.cal
  keeps  : ∀ d ∈ s.cal, d ∈ t.cal
  memory : KeepsMem s t

/-- One scalar as a result. -/
def scalarResult (d : BitVec 5) (v : Word) : Landing := ⟨d, v.setWidth 4096, BitVec.allOnes 4096⟩

/-- The instruction issues where a latch is free, and its scalar result lands at the end of issue + lat − 1. -/
def WritesLater (i : Instr) (h : Hdr) (us : List Use) (lat : Nat) (d : BitVec 5) (v : State → Word) : Prop :=
  ∀ s, Ready h false us s → LatchFree 0 s →
    ∃ t, exec i s = .next t ∧ Flies h false us .scalar lat [scalarResult d (v s)] s t

/-- Lane i of width w (R215). -/
def lane (w : Nat) (v : VReg) (i : Nat) : Nat := v.toNat / 2 ^ (w * i) % 2 ^ w

/-- Lane i as bits. -/
def laneB (w : Nat) (v : VReg) (i : Nat) : BitVec w := BitVec.ofNat w (v.toNat / 2 ^ (w * i))

/-- A result for vd: its lanes of width w hold the values, and only the lanes that pg makes active are written (R215, R217). -/
structure Lanes (w : Nat) (vd : BitVec 5) (pg : PReg) (val : Nat → Nat) (r : Landing) : Prop where
  reg  : r.reg = vd
  val  : ∀ i, i < 4096 / w → lane w r.val i = val i % 2 ^ w
  mask : ∀ j, j < 4096 → r.mask.getLsbD j = pg.getLsbD (j / w)

/-- A vector instruction: it issues where a latch is free and strand V has room, and its lanes land at the end of issue + lat − 1. -/
def LanesLater (i : Instr) (h : Hdr) (us : List Use) (w lat : Nat) (vd : BitVec 5) (pg : State → PReg)
    (val : State → Nat → Nat) : Prop :=
  ∀ s, Ready h false us s → LatchFree 1 s →
    ∃ t r, exec i s = .next t ∧ Flies h false us .vector lat [r] s t ∧ Lanes w vd (pg s) (val s) r

/-! ## Accesses of strand A -/

/-- A result of the context comes from access or gather id. -/
def Bears (id : Nat) (x : Ctx) : Prop :=
  ∃ f, (f ∈ x.a.flights ++ x.v.flights ∨ ∃ fr, x.frame = some fr ∧ f ∈ fr.sa.st.flights ++ fr.sv.st.flights) ∧ f.access = some id

/-- Strand A executes, its access unit is empty and runs, no acquire is waited for, and the next identifier is new. -/
structure QuietUnit (s : State) : Prop where
  onA      : s.cur = .A
  empty    : s.ctx.acc = []
  runs     : s.ctx.auHalt = false
  acquired : s.ctx.gate.acq = []
  newId    : ¬ Bears s.nextId s.core.ctx ∧ ¬ Bears s.nextId s.core.shadow

/-- The instructions of strand A that are one access, each with the request it makes (R195 to R203). -/
def accessForm : Instr → Option (Hdr × Bool × List Use × (State → Req))
  | .ldB h f => some (h, false, [useS f.a f.la], fun s => plainReq (.load (.scalar 1 true)) (.load false) 1 1 (rriPtr f 1 s) [] (some (.scalar, f.d)))
  | .ldH h f => some (h, false, [useS f.a f.la], fun s => plainReq (.load (.scalar 2 true)) (.load false) 2 2 (rriPtr f 2 s) [] (some (.scalar, f.d)))
  | .ldW h f => some (h, false, [useS f.a f.la], fun s => plainReq (.load (.scalar 4 true)) (.load false) 4 4 (rriPtr f 4 s) [] (some (.scalar, f.d)))
  | .ldD h f => some (h, false, [useS f.a f.la], fun s => plainReq (.load (.scalar 8 true)) (.load true) 8 8 (rriPtr f 8 s) [] (some (.scalar, f.d)))
  | .ldBn h f => some (h, false, [useS f.a f.la], fun s => plainReq (.load (.scalar 1 false)) (.load false) 1 1 (rriPtr f 1 s) [] (some (.scalar, f.d)))
  | .ldHn h f => some (h, false, [useS f.a f.la], fun s => plainReq (.load (.scalar 2 false)) (.load false) 2 2 (rriPtr f 2 s) [] (some (.scalar, f.d)))
  | .ldWn h f => some (h, false, [useS f.a f.la], fun s => plainReq (.load (.scalar 4 false)) (.load false) 4 4 (rriPtr f 4 s) [] (some (.scalar, f.d)))
  | .stB h f => some (h, false, [useS f.d, useS f.a f.la], stReq f 1)
  | .stH h f => some (h, false, [useS f.d, useS f.a f.la], stReq f 2)
  | .stW h f => some (h, false, [useS f.d, useS f.a f.la], stReq f 4)
  | .stD h f => some (h, false, [useS f.d, useS f.a f.la], stReq f 8)
  | .vld h f => some (h, false, [useS f.a f.la], fun s => plainReq (.load .vector) (.load false) 64 512 (rriPtr f 64 s) [] (some (.vector, f.d)))
  | .vst h f => some (h, false, [useV f.d, useS f.a f.la], fun s => plainReq .store .store 64 512 (rriPtr f 64 s) (regBytes (s.rv f.d)) none)
  | .vldb h f => some (h, false, [useS f.a f.la], fun s =>
      plainReq (.load (.bcast (2 ^ f.w.toNat))) (.load false) (2 ^ f.w.toNat) (2 ^ f.w.toNat) (s.rs f.a) [] (some (.vector, f.d)))
  | .vlds h f => some (h, false, [useS f.a f.la, useS f.b f.lb],
      strideReq (.load (.strided (2 ^ f.w.toNat))) (.load false) f [] (some (.vector, f.d)))
  | .vsts h f => some (h, false, [useV f.d, useS f.a f.la, useS f.b f.lb], fun s => strideReq .store .store f (regBytes (s.rv f.d)) none s)
  | .atomAdd h f => some (h, true, [useS f.a f.la, useS f.b f.lb], atomReq .add f)
  | .atomAnd h f => some (h, true, [useS f.a f.la, useS f.b f.lb], atomReq .and f)
  | .atomOr h f => some (h, true, [useS f.a f.la, useS f.b f.lb], atomReq .or f)
  | .atomXor h f => some (h, true, [useS f.a f.la, useS f.b f.lb], atomReq .xor f)
  | .atomMin h f => some (h, true, [useS f.a f.la, useS f.b f.lb], atomReq .min f)
  | .atomMax h f => some (h, true, [useS f.a f.la, useS f.b f.lb], atomReq .max f)
  | .atomMinn h f => some (h, true, [useS f.a f.la, useS f.b f.lb], atomReq .minn f)
  | .atomMaxn h f => some (h, true, [useS f.a f.la, useS f.b f.lb], atomReq .maxn f)
  | .atomSwap h f => some (h, true, [useS f.a f.la, useS f.b f.lb], atomReq .swap f)
  | .cas h f => some (h, true, [useS f.d, useS f.a f.la, useS f.b f.lb], casReq f)
  | _ => none
where
  stReq (f : RI10) (n : Nat) (s : State) : Req :=
    { plainReq .store .store n n (rriPtr f n s) (leBytes n (s.rs f.d).toNat) none with merge := true }

/-- What a release waits for is over (R204). -/
def Released (q : Req) (s : State) : Prop :=
  q.rel = true → pendingIn q.scope true s = [] ∧ (q.scope = 2 → ∀ e ∈ s.core.eng.wc, e.hasA = false)

/-- No step of R99 fails for any element outside GLOBAL space, no byte to be read is uncorrectable, and a REMOTE store finds allowance
and room. -/
structure Admitted (q : Req) (s : State) : Prop where
  canon   : ∀ p ∈ q.ptrs, canonical p = true
  aligned : ∀ p ∈ q.ptrs, ptrOff p % q.align = 0
  typed   : ∀ p ∈ q.ptrs, ptrSpace p = 5 → (s.window (ptrWin p)).typed = true → ptrOff p % 4 = 0 ∧ q.len % 4 = 0
  inSpace : ∀ p ∈ q.ptrs, ∀ z, spaceSize p s = some z → ptrOff p + q.len ≤ z
  admits  : ∀ p ∈ q.ptrs, admission q.reach q.len p s = none
  near    : s.str.timed = true → ∀ p ∈ q.ptrs, ptrSpace p ≠ 0 ∧ ¬ (ptrSpace p = 3 ∧ ptrClu p ≠ s.core.idx / 8)
  good    : q.kind.isStore = false → q.space < 4 → ∀ p ∈ q.ptrs, s.badAt (placeOf p s) q.len = false
  word    : q.kind.isStore = false → q.space = 6 → s.badAt (barAddr (barKey (ptrIdx q.first) (ptrOff q.first / 8))) 8 = false
  posts   : ∀ w, q.kind = .post w → allowanceCovers w (q.ptrs.map fun _ => q.len) s = true ∧ windowRoom w q.ptrs.length s = true
  release : Released q s

/-- The results that an access of this request forms: none for a store. -/
def resultOf (q : Req) (id : Nat) (lands : Option Nat) (c : Nat) (far : Bool) : List Flight :=
  match q.dest with
  | some (k, r) => [⟨k, [⟨r, 0, BitVec.allOnes 4096⟩], lands, c, true, far, far, some id, 0, none⟩]
  | none => []

/-- The instruction has issued and its access a is the one in the queue, its result in flight. Nothing else of the package changes. -/
structure Entered (h : Hdr) (long : Bool) (us : List Use) (q : Req) (a : Access) (fs : List Flight) (s t : State) : Prop where
  issued  : Issued h long s t
  scalars : t.str.regs = s.str.regs
  deaths  : Deaths us none s t
  flights : t.str.flights = s.str.flights ++ fs
  access  : t.ctx.acc = [a]
  acquire : t.ctx.gate = { s.ctx.gate with acq := if q.acq then [(s.nextId, BitVec.ofNat 2 q.scope)] else [] }
  keeps   : ∀ d ∈ s.cal, d ∈ t.cal
  memory  : KeepsMem s t
  rest    : t = { (s.setStr { s.str with
      pc := t.str.pc, dead := t.str.dead, flights := t.str.flights, next := t.str.next, held := t.str.held, waitg := none }).mapCtx
        fun x => { x with vdead := t.ctx.vdead, acc := t.ctx.acc, gate := t.ctx.gate } with
    verdict := t.verdict, cal := t.cal, nextId := s.nextId + 1, fresh := t.fresh }

/-- The instruction, one access that no earlier access precedes. Outside GLOBAL space it performs at its natural offset, and its result
lands at the end of issue + latency − 1 (R191). In GLOBAL space, where the page is not in the stream TLB, the walk starts and the result is
pending (R111, R194). -/
def Enters (i : Instr) (h : Hdr) (long : Bool) (us : List Use) (q : State → Req) : Prop :=
  ∀ s, Ready h long us s → QuietUnit s → ((q s).dest ≠ none → LatchFree 0 s) →
    let a := (q s).access s
    ((q s).space ≠ 0 → Admitted (q s) s →
      ∃ t, exec i s = .next t
        ∧ Entered h long us (q s) { a with p := some (s.gcyc + a.nat) } (resultOf (q s) s.nextId (some (s.gcyc + a.lat - 1)) s.gcyc false) s t
        ∧ ⟨s.gcyc + a.nat, performRank a, 2 * s.core.idx, .accessPerform s.core.idx s.nextId⟩ ∈ t.cal ∧ t.fresh = s.fresh)
    ∧ ((q s).space = 0 → accessCheck (q s) s = none → allInTlb a s = false →
      ∃ t, exec i s = .next t ∧ Entered h long us (q s) a (resultOf (q s) s.nextId none s.gcyc true) s t
        ∧ ⟨s.gcyc + 1 + Config.walkDelay s.fresh, 4, 8 * s.core.idx + 1, .translationWalk s.core.idx s.nextId⟩ ∈ t.cal ∧ t.fresh = s.fresh + 1)

/-- The records of a page not present that the running context has found in this cycle before a trap, at most four (R351, R362). -/
def pagesFound (s : State) : List Rec :=
  ((s.core.eng.recs ++ s.core.eng.recWait).filter (Rec.pageNow s.gcyc s.core.second)).take 4

/-- Such a record once it is attached to a frame: PEND := 1 (R351, R352). -/
def attached (r : Rec) : Rec := { r with w1 := r.w1 ||| BitVec.ofNat 64 (2 ^ 47) }

/-- TCAUSE of an exception, with PFP where a record is attached (R338, R351). -/
def causeAt (code : BitVec 6) (s : State) : Word :=
  BitVec.ofNat 64 (code.toNat + s.cur.num * 2 ^ 10) ||| if pagesFound s = [] then 0 else 0x2000

/-- The value nearest to x that a signed integer of w bits has (R121). -/
def clampS (w : Nat) (x : Int) : Int := max (-(2 ^ (w - 1))) (min (2 ^ (w - 1) - 1) x)

/-- An instruction that the machine does not issue: it takes a precise exception of its strand (R336, R340). -/
def Traps (code : BitVec 6) (tval : Word) (s : State) (o : Out) : Prop := o = .next (precise code tval s)

/-- It stays due and is attempted again in the next cycle (R287, R348). -/
def Holds (s : State) (o : Out) : Prop :=
  ∃ t, o = .next t ∧ t.verdict = .held ∧ t.str.next = s.gcyc + 1 ∧ t.str.pc = s.str.pc ∧ t.mem = s.mem

end Sys2Proof.Machine
end

