-- ==== Sys2Proof/Certificates/Slice0/Obligations.lean ====
section
/-!
DEFINITION. Obligations.lean: the statements. Each says of the model what the numbered rules it cites say of the part, in the words
of Safety.lean.
-/
open Sys2Proof Sys2Proof.Machine

/-- The ALU group issues and writes s_d in its issue cycle; nothing else changes (R68, R64, R48, R50, R37). -/
def Obligations.alu_results : Prop :=
  ∀ (h : Hdr) (f : R3), let us := [useS f.a f.la, useS f.b f.lb]
    WritesNow (.add h f) h false us f.d (fun s => s.rs f.a + s.rs f.b)
    ∧ WritesNow (.sub h f) h false us f.d (fun s => s.rs f.a - s.rs f.b)
    ∧ WritesNow (.and h f) h false us f.d (fun s => s.rs f.a &&& s.rs f.b)
    ∧ WritesNow (.or h f) h false us f.d (fun s => s.rs f.a ||| s.rs f.b)
    ∧ WritesNow (.xor h f) h false us f.d (fun s => s.rs f.a ^^^ s.rs f.b)
    ∧ WritesNow (.shl h f) h false us f.d (fun s => s.rs f.a <<< ((s.rs f.b).toNat % 64))
    ∧ WritesNow (.shr h f) h false us f.d (fun s => s.rs f.a >>> ((s.rs f.b).toNat % 64))
    ∧ WritesNow (.sar h f) h false us f.d (fun s => (s.rs f.a).sshiftRight ((s.rs f.b).toNat % 64))
    ∧ WritesNow (.min h f) h false us f.d (fun s => if (s.rs f.a).toInt ≤ (s.rs f.b).toInt then s.rs f.a else s.rs f.b)
    ∧ WritesNow (.max h f) h false us f.d (fun s => if (s.rs f.a).toInt ≤ (s.rs f.b).toInt then s.rs f.b else s.rs f.a)
    ∧ WritesNow (.minn h f) h false us f.d (fun s => if (s.rs f.a).toNat ≤ (s.rs f.b).toNat then s.rs f.a else s.rs f.b)
    ∧ WritesNow (.maxn h f) h false us f.d (fun s => if (s.rs f.a).toNat ≤ (s.rs f.b).toNat then s.rs f.b else s.rs f.a)
    ∧ WritesNow (.slt h f) h false us f.d (fun s => if (s.rs f.a).toInt < (s.rs f.b).toInt then 1 else 0)
    ∧ WritesNow (.sltn h f) h false us f.d (fun s => if (s.rs f.a).toNat < (s.rs f.b).toNat then 1 else 0)
    ∧ WritesNow (.seq h f) h false us f.d (fun s => if s.rs f.a = s.rs f.b then 1 else 0)

/-- SEL takes s_a where bit 0 of s_d is 1 and s_b where it is 0, and reads s_d as a third source (R69). -/
def Obligations.select_result : Prop :=
  ∀ (h : Hdr) (f : R3),
    WritesNow (.sel h f) h false [useS f.d, useS f.a f.la, useS f.b f.lb] f.d
      (fun s => if (s.rs f.d).getLsbD 0 then s.rs f.a else s.rs f.b)
    ∧ ∀ s, Ungated s → InSync h s →
        (∀ u ∈ [useS f.d, useS f.a f.la, useS f.b f.lb], s.ctx.isPending s.cur u = false ∧ s.ctx.isUpset s.cur u = false) →
        s.ctx.isDead s.cur (useS f.d) = true → s.str.deadchk = true →
        exec (.sel h f) s = .next (precise 0x02 (BitVec.ofNat 64 (s.word.toNat * 2 ^ 32 + 2 ^ 8 + f.d.toNat)) s)

/-- Products land 3 cycles after issue and quotients 18, with the corners of division as R70 gives them; none traps (R70). -/
def Obligations.muldiv_results : Prop :=
  ∀ (h : Hdr) (f : R3), let us := [useS f.a f.la, useS f.b f.lb]
    WritesLater (.mul h f) h us 3 f.d (fun s => s.rs f.a * s.rs f.b)
    ∧ WritesLater (.mulh h f) h us 3 f.d (fun s => BitVec.ofInt 64 ((s.rs f.a).toInt * (s.rs f.b).toInt / 2 ^ 64))
    ∧ WritesLater (.mulhn h f) h us 3 f.d (fun s => BitVec.ofNat 64 ((s.rs f.a).toNat * (s.rs f.b).toNat / 2 ^ 64))
    ∧ WritesLater (.div h f) h us 18 f.d (fun s => if s.rs f.b = 0 then BitVec.allOnes 64
        else if s.rs f.a = BitVec.ofInt 64 (-2 ^ 63) ∧ s.rs f.b = BitVec.ofInt 64 (-1) then BitVec.ofInt 64 (-2 ^ 63)
        else BitVec.ofInt 64 ((s.rs f.a).toInt.tdiv (s.rs f.b).toInt))
    ∧ WritesLater (.divn h f) h us 18 f.d (fun s => if s.rs f.b = 0 then BitVec.allOnes 64 else BitVec.ofNat 64 ((s.rs f.a).toNat / (s.rs f.b).toNat))
    ∧ WritesLater (.rem h f) h us 18 f.d (fun s => if s.rs f.b = 0 then s.rs f.a else if s.rs f.a = BitVec.ofInt 64 (-2 ^ 63) ∧ s.rs f.b = BitVec.ofInt 64 (-1) then 0
        else BitVec.ofInt 64 ((s.rs f.a).toInt - (s.rs f.b).toInt * (s.rs f.a).toInt.tdiv (s.rs f.b).toInt))

/-- CLZ, POPC, PSPACE and PRANK count bits and read pointer fields; LEA moves a pointer and PMAKE joins one, all in the issue cycle (R68, R71, R64, R95). -/
def Obligations.pointer_and_bit_results : Prop :=
  (∀ (h : Hdr) (f : R2), let us := [useS f.a f.la]
    WritesNow (.clz h f) h false us f.d (fun s => BitVec.ofNat 64 (if s.rs f.a = 0 then 64 else 63 - (s.rs f.a).toNat.log2))
    ∧ WritesNow (.popc h f) h false us f.d (fun s => BitVec.ofNat 64 ((List.range 64).countP fun j => (s.rs f.a).getLsbD j))
    ∧ WritesNow (.pspace h f) h false us f.d (fun s => ((s.rs f.a).extractLsb' 60 4).setWidth 64)
    ∧ WritesNow (.prank h f) h false us f.d (fun s => ((s.rs f.a).extractLsb' 48 12).setWidth 64))
  ∧ (∀ (h : Hdr) (f : R3), let us := [useS f.a f.la, useS f.b f.lb]
    let sum := fun s : State => ((s.rs f.a).toNat % 2 ^ 48 : Int) + (s.rs f.b).toInt
    let v := fun s : State =>
      if 0 ≤ sum s ∧ sum s ≤ 2 ^ 48 - 1 then (s.rs f.a).toNat / 2 ^ 48 * 2 ^ 48 + (sum s).toNat
      else 0xF * 2 ^ 60 + (s.rs f.a).toNat / 2 ^ 48 % 2 ^ 12 * 2 ^ 48 + (sum s % 2 ^ 48).toNat
    WritesNow (.lea h f) h false us f.d (fun s => BitVec.ofNat 64 (v s))
    ∧ (∀ s, ¬ (0 ≤ sum s ∧ sum s ≤ 2 ^ 48 - 1) → canonical (BitVec.ofNat 64 (v s)) = false)
    ∧ WritesNow (.pmake h f) h false us f.d (fun s =>
        BitVec.ofNat 64 ((s.rs f.b).toNat % 2 ^ 16 * 2 ^ 48 + (s.rs f.a).toNat % 2 ^ 48)))

/-- The immediate forms and LI extend their fields by sign, shifts take 0 to 63, LIL and LIH load halves, all in the issue cycle (R72, R64, R67, R73, R44). -/
def Obligations.immediate_results : Prop :=
  (∀ (h : Hdr) (f : RI10), let us := [useS f.a f.la]
    WritesNow (.addi h f) h false us f.d (fun s => s.rs f.a + f.imm.signExtend 64)
    ∧ WritesNow (.andi h f) h false us f.d (fun s => s.rs f.a &&& f.imm.signExtend 64)
    ∧ WritesNow (.ori h f) h false us f.d (fun s => s.rs f.a ||| f.imm.signExtend 64)
    ∧ WritesNow (.xori h f) h false us f.d (fun s => s.rs f.a ^^^ f.imm.signExtend 64)
    ∧ WritesNow (.slti h f) h false us f.d (fun s => if (s.rs f.a).toInt < (f.imm.signExtend 64).toInt then 1 else 0)
    ∧ (f.imm.toNat < 64 →
      WritesNow (.shli h f) h false us f.d (fun s => s.rs f.a <<< f.imm.toNat)
      ∧ WritesNow (.shri h f) h false us f.d (fun s => s.rs f.a >>> f.imm.toNat)
      ∧ WritesNow (.sari h f) h false us f.d (fun s => (s.rs f.a).sshiftRight f.imm.toNat)))
  ∧ (∀ h : Hdr,
    (∀ f : RI16, WritesNow (.li h f) h false [] f.d (fun _ => f.imm.signExtend 64))
    ∧ (∀ f : RI32, WritesNow (.lil h f) h true [] f.d (fun _ => f.imm.setWidth 64))
    ∧ ∀ f : RI32, WritesNow (.lih h f) h true [useS f.d] f.d (fun s => f.imm ++ (s.rs f.d).extractLsb' 0 32))

/-- A conditional branch goes to PC + 4·off11 when its condition holds, else on; a target outside the image is a space bound trap (R74, R66, R76, R77, R81). -/
def Obligations.branches : Prop :=
  ∀ (h : Hdr) (f : Br),
    BranchesIf (.beq h f) h f (fun x y => x = y)
    ∧ BranchesIf (.bne h f) h f (fun x y => x ≠ y)
    ∧ BranchesIf (.blt h f) h f (fun x y => x.toInt < y.toInt)
    ∧ BranchesIf (.bge h f) h f (fun x y => y.toInt ≤ x.toInt)
    ∧ BranchesIf (.bltn h f) h f (fun x y => x.toNat < y.toNat)
    ∧ BranchesIf (.bgen h f) h f (fun x y => y.toNat ≤ x.toNat)

/-- JMP and JAL go to a relative target and JR to s_a + 4·imm10; the link is PC + 4; bad targets trap and write no link (R75, R76, R66, R77, R81). -/
def Obligations.jumps : Prop :=
  ∀ h : Hdr,
    (∀ f : J21, let g := fun s : State => (s.str.pc : Int) + 4 * f.off.toInt
      Jumps (.jmp h f) h [] (fun s => InImage (g s) s) (fun s => (g s).toNat) id
      ∧ ∀ s, Ready h false [] s → ¬ InImage (g s) s → exec (.jmp h f) s = .next (precise 0x05 (BitVec.ofInt 64 (g s)) s))
    ∧ (∀ f : RI16, let g := fun s : State => (s.str.pc : Int) + 4 * f.imm.toInt
      Links (.jal h f) h [] f.d (fun s => InImage (g s) s) (fun s => (g s).toNat)
      ∧ ∀ s, Ready h false [] s → ¬ InImage (g s) s → exec (.jal h f) s = .next (precise 0x05 (BitVec.ofInt 64 (g s)) s))
    ∧ ∀ f : RI10, let us := [useS f.a f.la]
      let g := fun s : State => s.rs f.a + 4 * f.imm.signExtend 64
      Links (.jr h f) h us f.d (fun s => InImage (g s).toNat s ∧ (g s).toNat % 4 = 0) (fun s => (g s).toNat)
      ∧ (∀ s, Ready h false us s → (g s).toNat % 4 ≠ 0 → exec (.jr h f) s = .next (precise 0x03 (g s) s))
      ∧ ∀ s, Ready h false us s → (g s).toNat % 4 = 0 → ¬ InImage (g s).toNat s → exec (.jr h f) s = .next (precise 0x05 (g s) s)

/-- LOOP and LOOPS start a loop or skip its body; at the end word it goes back, falls through, ends after LBRK or is left by a transfer, and each LOOPS ending there turns ROTB; bad nesting traps (R79, R80, R83, R66, R82).
Two clauses are the model's choice: the count trap 0x01 goes before the image trap 0x05 (log entry 34, DESIGN CHOICE), and the step of ROTB
is made also where the end word is a taken transfer (log entry 25). -/
def Obligations.loops : Prop :=
  ((∀ (h : Hdr) (f : Lp),
    let us := [useS f.d]
    let n := fun s : State => (s.rs f.d).setWidth 32
    let e := fun s : State => s.str.pc + 4 * f.last.toNat
    let legal := fun s : State => (∀ l ∈ s.str.loops, l.lc ≠ f.lc)
      ∧ (∀ l ∈ s.str.loops, ¬ (l.first ≤ s.str.pc ∧ s.str.pc ≤ l.last ∧ l.last < e s))
      ∧ (n s).toNat + 0 < 2 ^ 32
    (∀ s, Ready h false us s → legal s → e s < 4 * s.str.image.length → n s = 0 →
      ∃ t, exec (.loop h f) s = .next t ∧ Went us (e s + 4) (s.gcyc + 1 + h.i.toNat) s s t ∧ t.str.waitg = none)
    ∧ (∀ s, Ready h false us s → legal s → e s < 4 * s.str.image.length → n s ≠ 0 →
      ∃ t, exec (.loop h f) s = .next t ∧ t.str.waitg = none
        ∧ Went us (s.str.pc + 4) (s.gcyc + 1 + h.i.toNat)
            (s.setStr { s.str with
              lc := s.str.lc.set f.lc.toNat (n s + 0) f.lc.isLt
              loops := ⟨f.lc, s.str.pc + 4, e s, 0, n s, false⟩ :: s.str.loops }) s t)
    ∧ (∀ s, Ready h false us s → ¬ legal s → exec (.loop h f) s = .next (precise 0x01 (s.word.setWidth 64) s))
    ∧ ∀ s, Ready h false us s → legal s → 4 * s.str.image.length ≤ e s →
        exec (.loop h f) s = .next (precise 0x05 (BitVec.ofNat 64 (e s)) s))
  ∧ (∀ (h : Hdr) (f : Lps),
    let us := [useS f.d]
    let n := fun s : State => (s.rs f.d).setWidth 32
    let e := fun s : State => s.str.pc + 4 * f.last.toNat
    let legal := fun s : State => (∀ l ∈ s.str.loops, l.lc ≠ f.lc)
      ∧ (∀ l ∈ s.str.loops, ¬ (l.first ≤ s.str.pc ∧ s.str.pc ≤ l.last ∧ l.last < e s))
      ∧ (n s).toNat + f.stages.toNat < 2 ^ 32
    (∀ s, Ready h false us s → legal s → e s < 4 * s.str.image.length → n s = 0 →
      ∃ t, exec (.loops h f) s = .next t ∧ Went us (e s + 4) (s.gcyc + 1 + h.i.toNat) s s t ∧ t.str.waitg = none)
    ∧ (∀ s, Ready h false us s → legal s → e s < 4 * s.str.image.length → n s ≠ 0 →
      ∃ t, exec (.loops h f) s = .next t ∧ t.str.waitg = none
        ∧ Went us (s.str.pc + 4) (s.gcyc + 1 + h.i.toNat)
            (s.setStr { s.str with
              lc := s.str.lc.set f.lc.toNat (n s + f.stages.setWidth 32) f.lc.isLt
              loops := ⟨f.lc, s.str.pc + 4, e s, f.stages, n s, false⟩ :: s.str.loops }) s t)
    ∧ (∀ s, Ready h false us s → ¬ legal s → exec (.loops h f) s = .next (precise 0x01 (s.word.setWidth 64) s))
    ∧ ∀ s, Ready h false us s → legal s → 4 * s.str.image.length ≤ e s →
        exec (.loops h f) s = .next (precise 0x05 (BitVec.ofNat 64 (e s)) s)))
  ∧ (∀ (h : Hdr) (s : State) (l : Loop) (ls : List Loop), s.str.loops = l :: ls → l.last = s.str.pc →
    let lc := fun m : Loop => s.str.lc[m.lc.toNat]'m.lc.isLt
    let turns := List.replicate ((l :: ls).countP fun m => m.stages ≠ 0 && m.last = s.str.pc) (Staged.rot s.core.idx s.core.second s.cur)
    let goes := fun m : Loop => m.brk = false ∧ 1 < (lc m).toNat
    let moved := fun (pc : Nat) (loops : List Loop) (cs : Vector (BitVec 32) 4) =>
      { s.setStr { s.str with pc := pc, loops := loops, lc := cs, next := s.gcyc + 1 + h.i.toNat, held := false } with
        staged := s.staged ++ turns, verdict := .issued }
    let ended := s.str.lc.set l.lc.toNat 0 l.lc.isLt
    (goes l → retire h false s.str.pc (plain s) = moved l.first (l :: ls) (s.str.lc.set l.lc.toNat (lc l - 1) l.lc.isLt))
    ∧ (¬ goes l → (∀ m ∈ ls, m.last ≠ s.str.pc) → retire h false s.str.pc (plain s) = moved (s.str.pc + 4) ls ended)
    ∧ (∀ (m : Loop) (ms : List Loop), ¬ goes l → ls = m :: ms → m.last = s.str.pc → m.lc ≠ l.lc → goes m →
        retire h false s.str.pc (plain s) = moved m.first ls (ended.set m.lc.toNat (lc m - 1) m.lc.isLt))
    ∧ (∀ (m : Loop) (ms : List Loop), ¬ goes l → ls = m :: ms → m.last = s.str.pc → m.lc ≠ l.lc → ¬ goes m → (∀ q ∈ ms, q.last ≠ s.str.pc) →
        retire h false s.str.pc (plain s) = moved (s.str.pc + 4) ms (ended.set m.lc.toNat 0 m.lc.isLt))
    ∧ ∀ g, retire h false s.str.pc (jump s g) = moved g (loopsAt g (l :: ls)) s.str.lc)

/-- WAIT adds its count, WAITG goes on at its stamp, ALIGN issues at its stamp and enters timed mode; a stamp that passed is a schedule miss (R85, R86, R87, R288, R402). -/
def Obligations.waits : Prop :=
  ∀ h : Hdr,
    (∀ f : RI16, ∀ s, Ready h false [useS f.d] s → ∃ t, exec (.wait h f) s = .next t ∧ t.str.waitg = none
      ∧ Went [useS f.d] (s.str.pc + 4) (s.gcyc + 1 + h.i.toNat + ((s.rs f.d).toNat + f.imm.toNat) % 2 ^ 64) s s t)
    ∧ (∀ f : T32, ∀ s, Ready h true [] s →
      let delta := (s.stamp f.t - BitVec.ofNat 32 s.gcyc).toNat
      (1 + h.i.toNat ≤ delta → delta < 2 ^ 31 → ∃ t, exec (.waitg h f) s = .next t
        ∧ Went [] (s.str.pc + 8) (s.gcyc + delta) s s t ∧ t.str.waitg = some ⟨s.str.pc, s.str.loops, s.str.lc, s.str.rotb⟩)
      ∧ (¬ (1 + h.i.toNat ≤ delta ∧ delta < 2 ^ 31) →
        (s.str.timed = false → ∃ t, exec (.waitg h f) s = .next t
          ∧ Went [] (s.str.pc + 8) (s.gcyc + 1 + h.i.toNat) s s t ∧ t.str.waitg = none)
        ∧ (s.str.timed = true → exec (.waitg h f) s = .next (precise 0x0C (f.t.setWidth 64) s))))
    ∧ ∀ f : T32, ∀ s, Ready h true [] s →
      let delta := (s.stamp f.t - BitVec.ofNat 32 s.gcyc).toNat
      (delta = 0 → ∃ t, exec (.align h f) s = .next t ∧ t.str.waitg = none
        ∧ Went [] (s.str.pc + 8) (s.gcyc + 1 + h.i.toNat) (s.setStr { s.str with timed := true }) s t)
      ∧ (0 < delta → delta < 2 ^ 31 → Holds s (exec (.align h f) s))
      ∧ (2 ^ 31 ≤ delta → exec (.align h f) s = .next (precise 0x0C (f.t.setWidth 64) s))

/-- LBRK marks an active loop; in strand V the first body word of a LOOPS iteration sets p4 to p7 before it reads (R82, R83). -/
def Obligations.breaks_and_stages : Prop :=
  (∀ (h : Hdr) (f : Lb), Acts (.lbrk h f) h false [] always (fun s => s.setStr { s.str with
      loops := s.str.loops.map fun l => if l.lc = f.lc then { l with brk := true } else l }))
  ∧ ∀ (h : Hdr) (long : Bool) (us : List Use) (n : Need) (check : State → Option Stop) (eff : State → Eff) (s : State) (l : Loop)
      (ls : List Loop), s.cur = .V → s.str.loops = l :: ls → l.first = s.str.pc → l.stages ≠ 0 → (∀ m ∈ ls, m.first ≠ s.str.pc) →
      stops h us n check s = none →
      ∃ r, issue h long us n check eff s = .next (retire h long s.str.pc (eff r))
        ∧ (∀ j : Fin 4, let i := l.trips.toNat + l.stages.toNat - (s.str.lc[l.lc.toNat]'l.lc.isLt).toNat
            r.rp (BitVec.ofNat 3 (4 + j.val)) = if j.val ≤ i ∧ i < l.trips.toNat + j.val then BitVec.allOnes 1024 else 0)
        ∧ ∀ k : BitVec 3, k.toNat < 4 → r.rp k = s.rp k

/-- Pending reads, full latches and a missing partner wait, or are a violation in timed mode; reads with errors or of dead registers trap, or a dead one gives a free value (R194, R65, R287, R290, R51, R339, R397).
The order of a pending read, a dead read and the instruction's own checks is the model's choice (log entry 16). -/
def Obligations.blocked_reads : Prop :=
  (∀ (h : Hdr) (long : Bool) (us : List Use) (n : Need) (check : State → Option Stop) (eff : State → Eff) (s : State), Ungated s →
    (InSync h s → (∃ u ∈ us, s.ctx.isPending s.cur u = true) →
      (s.str.timed = false → Holds s (issue h long us n check eff s))
      ∧ (s.str.timed = true → issue h long us n check eff s = .next (precise 0x0D 0 s)))
    ∧ (Ready h long us s → check s = none → n.latch = true → 8 ≤ (s.str.flights.filter fun f => f.latch).length →
      (s.str.timed = false → Holds s (issue h long us n check eff s))
      ∧ (s.str.timed = true → issue h long us n check eff s = .next (precise 0x0D 0 s)))
    ∧ (h.s = true → s.core.syncmask.getLsbD s.cur.num = true → s.plan.apart.getLsbD s.cur.num = true →
      (s.str.timed = false → Holds s (issue h long us n check eff s))
      ∧ (s.str.timed = true → ∃ tval, issue h long us n check eff s = .next (precise 0x0D tval s)
          ∧ (∀ j, j < 4 → tval.getLsbD j = s.core.syncmask.getLsbD j))))
  ∧ ((∀ (h : Hdr) (long : Bool) (us vs : List Use) (u : Use) (n : Need) (check : State → Option Stop) (eff : State → Eff) (s : State),
    let tval := BitVec.ofNat 64
      (s.word.toNat * 2 ^ 32 + (match u.kind with | .scalar => 1 | .pred => 2 | .vector => 3) * 2 ^ 8 + u.reg.toNat)
    Ungated s → InSync h s → (∀ x ∈ us ++ u :: vs, s.ctx.isPending s.cur x = false) →
    (Unstaged s → (∀ x ∈ us, x.moves = false → s.ctx.isUpset s.cur x = false) → u.moves = false → s.ctx.isUpset s.cur u = true →
      issue h long (us ++ u :: vs) n check eff s = .next (precise 0x13 tval s))
    ∧ ((∀ x ∈ us ++ u :: vs, x.moves = false → s.ctx.isUpset s.cur x = false) → (∀ x ∈ us, s.ctx.isDead s.cur x = false) →
      s.ctx.isDead s.cur u = true → s.str.deadchk = true →
      issue h long (us ++ u :: vs) n check eff s = .next (precise 0x02 tval s)))
  ∧ ∀ (h : Hdr) (long : Bool) (r : BitVec 5) (n : Need) (eff : State → Eff) (s : State),
    Ungated s → InSync h s → Unstaged s → s.ctx.isPending s.cur (useS r) = false → s.ctx.isUpset s.cur (useS r) = false → r ≠ 0 →
    s.str.dead.getLsbD r.toNat = true → s.str.deadchk = false → latchStop n s = none →
      ∃ q, issue h long [useS r] n noCheck eff s = .next (retire h long s.str.pc (eff q))
        ∧ q.rs r = Config.freeWord s.fresh ∧ (∀ m, m ≠ r → q.rs m = s.rs m) ∧ q.mem = s.mem)

/-- CSRR reads the value in force, CSRW, CSRS and CSRC write, set and clear from the next cycle on; other numbers are illegal (R52, R53, R88, R432, R10, R90, R289, R337, R338). -/
def Obligations.csr_accesses : Prop :=
  (∀ (h : Hdr) (d : BitVec 5),
    let reads := fun (n : BitVec 12) (v : State → Word) => WritesNow (.csrr h ⟨d, n⟩) h false [] d v
    reads 0x000 (fun s => BitVec.ofNat 64 s.gcyc)
    ∧ reads 0x002 (fun s => (s.vf s.vfOf).scale.setWidth 64)
    ∧ reads 0x003 (fun s => (s.vf s.vfOf).toffset)
    ∧ reads 0x010 (fun s => s.core.partw)
    ∧ reads 0x011 (fun s => s.arr.mmode.setWidth 64)
    ∧ reads 0x012 (fun s => s.core.domain)
    ∧ reads 0x013 (fun s => s.core.syncmask.setWidth 64)
    ∧ reads 0x014 (fun s => s.str.rotb.setWidth 64)
    ∧ reads 0x015 (fun s => if s.str.deadchk then 1 else 0)
    ∧ reads 0x020 (fun s => s.core.trapbase)
    ∧ reads 0x021 (fun s => s.core.tcause)
    ∧ reads 0x022 (fun s => s.core.tval)
    ∧ reads 0x023 (fun s => s.str.xpc)
    ∧ reads 0x030 (fun s => s.core.wcwait.setWidth 64)
    ∧ reads 0x031 (fun s => s.pod.stepTol.setWidth 64)
    ∧ reads 0x040 (fun s => (s.vf s.vfOf).slice.setWidth 64)
    ∧ reads 0x041 (fun s => (s.vf s.vfOf).weight.setWidth 64)
    ∧ reads 0x042 (fun s => s.svc.ltol)
    ∧ reads 0x001 (fun s => let v := s.vf s.vfOf
        if v.paused then v.gtsp
        else BitVec.ofInt 64 (((s.gcyc : Int) - v.tbase.toNat) * v.scale.toNat / 2 ^ 32 + v.toffset.toNat))
    ∧ ∀ n : BitVec 12, n ∉ ([0x000, 0x001, 0x002, 0x003, 0x010, 0x011, 0x012, 0x013, 0x014, 0x015, 0x020, 0x021, 0x022, 0x023, 0x030,
        0x031, 0x040, 0x041, 0x042] : List (BitVec 12)) → ∀ s, Ready h false [] s →
        exec (.csrr h ⟨d, n⟩) s = .next (precise 0x01 (s.word.setWidth 64) s))
  ∧ (let rw : List (BitVec 12) := [0x013, 0x014, 0x015, 0x020, 0x021, 0x022, 0x023]
  (∀ (h : Hdr) (f : Csr),
    let staged := fun (op : Nat) (s : State) => stage (.csr s.core.idx s.core.second s.cur f.n op (s.rs f.d)) s
    let illegal := fun (i : Instr) => f.n ∉ rw → ∀ s, Ready h false [useS f.d] s → exec i s = .next (precise 0x01 (s.word.setWidth 64) s)
    (f.n ∈ rw → Acts (.csrw h f) h false [useS f.d] always (staged 0) ∧ Acts (.csrs h f) h false [useS f.d] always (staged 1)
      ∧ Acts (.csrc h f) h false [useS f.d] always (staged 2))
    ∧ illegal (.csrw h f) ∧ illegal (.csrs h f) ∧ illegal (.csrc h f))
  ∧ ∀ (n : BitVec 12) (op : Nat) (v : Word) (s : State), n ∈ rw →
    let t := applyStaged (.csr s.core.idx s.core.second s.cur n op v) s
    let mask : Word := if n = 0x013 ∨ n = 0x014 then 0xF else if n = 0x015 then 1 else if n = 0x020 then 0xFFFFFF00FFFFFFFD
      else if n = 0x021 then 0xEC3F else BitVec.allOnes 64
    csrRead n t = (if op = 0 then v else if op = 1 then csrRead n s ||| v else csrRead n s &&& ~~~v) &&& mask
    ∧ (∀ m : BitVec 12, m ≠ n → csrRead m t = csrRead m s) ∧ t.mem = s.mem)

/-- TRAP n enters the handler with code 0x1B and n, and the strand resumes behind it with IDLE 1 + I (R91, R338, R339, R340). -/
def Obligations.trap_instruction : Prop :=
  ∀ (h : Hdr) (f : I16) (s : State), Ready h false [] s → s.ctx.inHandler s.gcyc = false → s.str.halted = false →
    ∃ t fr, exec (.trap h f) s = .next t
      ∧ t.core.tcause = causeAt 0x1B s ∧ t.core.tval = f.imm.setWidth 64
      ∧ t.ctx.handler = .entering (s.gcyc + 40) ∧ t.ctx.frame = some fr
      ∧ (fr.strand s.cur).st.pc = s.str.pc + 4 ∧ (fr.strand s.cur).idle = 1 + h.i.toNat ∧ (fr.strand s.cur).held = false
      ∧ t.ctx.c.pc = 4 * (s.core.trapbase.extractLsb' 2 30).toNat
      ∧ (s.cur = .C → t.ctx.c.xpc = BitVec.ofNat 64 (s.str.pc + 4))
      ∧ (∀ st, st ≠ .C → (t.ctx.strand st).xpc = (s.ctx.strand st).xpc)
      ∧ KeepsMem s t

/-- Taking an exception writes TCAUSE, TVAL and the frame and starts the handler 40 cycles later; inside the handler it ends the group (R340, R341, R342, R338, R339, R337, R344, R293, R343, R93).
What TCAUSE and TVAL hold after a double trap is the model's choice (log entry 25). -/
def Obligations.exception_entry : Prop :=
  (∀ (code : BitVec 6) (tval : Word) (s : State), s.ctx.inHandler s.gcyc = false → code ≠ 0x1C →
    let t := precise code tval s
    let cause := BitVec.ofNat 64 (code.toNat + s.cur.num * 2 ^ 10)
    t.core.tcause = causeAt code s ∧ t.core.tval = tval
    ∧ (∀ r ∈ pagesFound s, attached r ∈ t.core.eng.recs ++ t.core.eng.recWait) ∧ (pagesFound s = [] → t.core.eng = s.core.eng)
    ∧ t.ctx.handler = .entering (s.gcyc + 40) ∧ t.staged = s.staged ++ [.frameHead s.core.idx s.core.second]
    ∧ (⟨s.gcyc + 40, 2, s.core.idx, .handlerStart s.core.idx⟩ ∈ t.cal ∧ ∀ d ∈ s.cal, d ∈ t.cal)
    ∧ (∃ fr, t.ctx.frame = some fr ∧ fr.tcause = cause ∧ fr.tval = tval ∧ fr.tcyc = s.gcyc ∧ fr.gate = s.ctx.gate
      ∧ fr.segv = s.core.seg.isSome ∧ fr.pfr = (pagesFound s).map attached
      ∧ (∀ st, (s.ctx.strand st).waitg = none →
          (fr.strand st).st.pc = (s.ctx.strand st).pc ∧ (fr.strand st).st.loops = (s.ctx.strand st).loops
          ∧ (fr.strand st).st.lc = (s.ctx.strand st).lc ∧ (fr.strand st).st.rotb = (s.ctx.strand st).rotb
          ∧ (fr.strand st).st.timed = (s.ctx.strand st).timed ∧ (fr.strand st).st.regs = (s.ctx.strand st).regs
          ∧ (fr.strand st).st.flights = (s.ctx.strand st).flights.filter (fun f => f.lands ≠ none && !f.late)
          ∧ ((s.ctx.strand st).halted = false → (s.ctx.strand st).next ≤ s.gcyc →
              (fr.strand st).held = true ∧ (fr.strand st).idle = 0))
      ∧ ((s.ctx.strand .C).waitg = none → t.ctx.c.xpc = BitVec.ofNat 64 (s.ctx.strand .C).pc))
    ∧ t.ctx.c.pc = 4 * (s.core.trapbase.extractLsb' 2 30).toNat ∧ t.ctx.c.timed = false ∧ t.ctx.c.loops = [] ∧ t.ctx.c.rotb = 0
    ∧ t.ctx.c.halted = false
    ∧ (∀ st, (t.ctx.strand st).regs = (s.ctx.strand st).regs
        ∧ (t.ctx.strand st).flights = (s.ctx.strand st).flights.filter (fun f => f.lands = none || f.late))
    ∧ (∀ st, st ≠ .C → (t.ctx.strand st).pc = (s.ctx.strand st).pc ∧ (t.ctx.strand st).xpc = (s.ctx.strand st).xpc)
    ∧ t.ctx.acc = s.ctx.acc.map (fun a => if a.p = none then { a with cancelled := true } else a)
    ∧ t.core.seg = s.core.seg.map (fun g => { g with void := true })
    ∧ t.ctx.vregs = s.ctx.vregs ∧ t.ctx.vdead = s.ctx.vdead ∧ t.ctx.preds = s.ctx.preds ∧ t.ctx.tokens = s.ctx.tokens
    ∧ t.ctx.fq = s.ctx.fq ∧ t.ctx.tq = s.ctx.tq ∧ t.ctx.group = s.ctx.group ∧ t.core.trapbase = s.core.trapbase
    ∧ t.arr = s.arr ∧ t.windows = s.windows ∧ t.mem = s.mem ∧ t.gcyc = s.gcyc)
  ∧ ((∀ (code : BitVec 6) (tval : Word) (s : State), s.ctx.inHandler s.gcyc = true → code ≠ 0x1C →
    let t := precise code tval s
    (∀ st, (t.ctx.strand st).halted = true ∧ (t.ctx.strand st).regs = (s.ctx.strand st).regs)
    ∧ t.ctx.handler = .none ∧ t.ctx.frame = none
    ∧ t.ctx.group = s.ctx.group.map (fun g => { g with failed := some ((s.ctx.frame.map fun f => f.tcyc).getD s.gcyc, s.core.tcause) })
    ∧ (∃ r, t.core.eng.recs ++ t.core.eng.recWait = s.core.eng.recs ++ s.core.eng.recWait ++ [r]
        ∧ r.w0 = BitVec.ofNat 64 (code.toNat + s.cur.num * 2 ^ 10) ∧ (s.core.eng.recs.length < 8 → s.core.eng.recWait = [] → t.core.eng.recWait = []))
    ∧ ⟨s.gcyc, 9, s.core.idx, .groupEnd s.core.idx⟩ ∈ t.cal
    ∧ t.core.tcause = s.core.tcause ∧ t.core.tval = s.core.tval ∧ t.ctx.vregs = s.ctx.vregs ∧ t.ctx.preds = s.ctx.preds
    ∧ t.mem = s.mem)
  ∧ ∀ (h : Hdr) (s : State), Ready h false [] s → s.ctx.inHandler s.gcyc = true → ∃ t, exec (.halt h) s = .next t
    ∧ (∀ st, (t.ctx.strand st).halted = true ∧ (t.ctx.strand st).regs = (s.ctx.strand st).regs)
    ∧ t.ctx.handler = .none ∧ t.ctx.frame = none
    ∧ t.ctx.group = s.ctx.group.map (fun g => { g with failed := some ((s.ctx.frame.map fun f => f.tcyc).getD s.gcyc, s.core.tcause) })
    ∧ t.core.eng.recs = s.core.eng.recs ∧ ⟨s.gcyc, 9, s.core.idx, .groupEnd s.core.idx⟩ ∈ t.cal ∧ KeepsMem s t)

/-- RETT restores the frame: every strand goes on at its saved PC 32 cycles later with its idle count, C at XPC; elsewhere it is illegal (R92, R343, R346). -/
def Obligations.handler_return : Prop :=
  ∀ (h : Hdr) (s : State), Ready h false [] s →
    (∀ f, s.cur = .C → s.ctx.handler = .running → s.ctx.c.flights = [] → s.ctx.frame = some f →
      ∃ t, exec (.rett h) s = .next t ∧ t.ctx.handler = .returning (s.gcyc + 32) ∧ t.ctx.frame = some f ∧ t.verdict = .issued
      ∧ (∀ st, let r := t.ctx.strand st
          let v := (f.strand st).st
          (st ≠ .C ∨ v.halted = false → r.next = s.gcyc + 32 + (f.strand st).idle ∧ r.loops = v.loops ∧ r.lc = v.lc ∧ r.rotb = v.rotb)
          ∧ r.timed = v.timed ∧ r.halted = v.halted
          ∧ let saved := v.flights.map fun g => { g with lands := g.lands.map fun l => l + (s.gcyc + 32) - f.tcyc }
            let live := (s.ctx.strand st).flights
            r.flights.Perm (live ++ saved)
            ∧ (live.Pairwise (fun a b => a.issued ≤ b.issued) → saved.Pairwise (fun a b => a.issued ≤ b.issued) →
                r.flights.Pairwise fun a b => a.issued ≤ b.issued))
      ∧ (∀ st, st ≠ .C → (t.ctx.strand st).pc = (f.strand st).st.pc ∧ (t.ctx.strand st).regs = (s.ctx.strand st).regs)
      ∧ (f.sc.st.halted = false → t.ctx.c.pc = s.ctx.c.xpc.toNat / 4 * 4 ∧ t.ctx.c.regs = f.sc.st.regs ∧ t.ctx.c.dead = f.sc.st.dead)
      ∧ (f.sc.st.halted = true → t.ctx.c.pc = s.ctx.c.pc ∧ t.ctx.c.regs = s.ctx.c.regs)
      ∧ t.ctx.vregs = s.ctx.vregs ∧ t.ctx.preds = s.ctx.preds ∧ t.ctx.tokens = s.ctx.tokens ∧ t.ctx.fq = s.ctx.fq ∧ t.ctx.tq = s.ctx.tq
      ∧ t.mem = s.mem)
    ∧ (¬ (s.cur = .C ∧ s.ctx.handler = .running) → exec (.rett h) s = .next (precise 0x01 (s.word.setWidth 64) s))

/-- HALT stops the strand, YIELD clears the slice counter, SLEEP waits for a source, PERT and FMT stage their writes, FMTQ counts entries (R93, R377, R235, R270, R287). -/
def Obligations.strand_control : Prop :=
  ∀ h : Hdr,
    Acts (.halt h) h false [] (fun s => s.ctx.inHandler s.gcyc = false)
      (fun s => addDue s.gcyc 9 s.core.idx (.groupEnd s.core.idx) (s.setStr { s.str with halted := true, timed := false }))
    ∧ Acts (.yield h) h false [] always (fun s => match s.ctx.group with | some g => stage (.yield g.launch) s | none => s)
    ∧ Acts (.sleep h) h false [] (fun s => s.str.timed = false ∧
        (s.ctx.pendTick = true ∨ s.ctx.pendSig = true ∨ s.ctx.pendUrg = true ∨ s.core.request = true))
        (fun s => s.setStr { s.str with asleep := false })
    ∧ (∀ s, Ready h false [] s → s.str.timed = false → s.ctx.pendTick = false → s.ctx.pendSig = false → s.ctx.pendUrg = false →
        s.core.request = false → Holds s (exec (.sleep h) s))
    ∧ (∀ s, Ready h false [] s → s.str.timed = true → exec (.sleep h) s = .next (precise 0x0D 0 s))
    ∧ (∀ f : PertF, Acts (.pert h f) h false [useS f.a f.la, useS f.b f.lb] always (fun s =>
        stage (.pert s.core.idx s.core.second (if f.x = 0 then .C else if f.x = 1 then .A else if f.x = 2 then .V else .M)
          ⟨(s.rs f.b).extractLsb' 32 8, (s.rs f.b).extractLsb' 0 32, s.rs f.a⟩) s))
    ∧ (∀ f : Fmt, Acts (.fmt h f) h true [useS f.a f.la, useS f.b f.lb] (fun s => s.ctx.fq.length < 16) (fun s =>
          stage (.fmt s.core.idx s.core.second (f.imm ++ (s.rs f.b).extractLsb' 0 32 ++ s.rs f.a)) s)
        ∧ ∀ s, Ready h true [useS f.a f.la, useS f.b f.lb] s → 16 ≤ s.ctx.fq.length → s.str.timed = false → Holds s (exec (.fmt h f) s))
    ∧ ∀ f : Rd, WritesNow (.fmtq h f) h false [] f.d (fun s => BitVec.ofNat 64 s.ctx.fq.length)

/-- CTXSW of context 0 in its handler hands the core to context 1, whose strands issue 4 cycles later, or goes on where none was placed (R359, R360, R361, R362).
That DOMAIN, SYNCMASK and the open segment go with the context is the model's choice (log entry 33). -/
def Obligations.context_switch : Prop :=
  (∀ (h : Hdr) (s : State), Ready h false [] s →
    let here := s.cur = .C ∧ s.ctx.handler = .running ∧ s.core.second = false ∧ s.core.partw.getLsbD 0 = true
    let fits := 64 * (s.core.trapbase.extractLsb' 40 24).toNat + 65600 ≤ localSize s.core.partw
    (here → s.core.shadow.group = none → ∃ t, exec (.ctxsw h) s = .next t ∧ t.str.waitg = none
      ∧ Went [] (s.str.pc + 4) (s.gcyc + 1 + h.i.toNat) s s t)
    ∧ (here → s.core.shadow.group ≠ none → s.ctx.c.flights = [] → fits →
      ∃ t, exec (.ctxsw h) s = .next t ∧ t.core.second = true
        ∧ (∀ st, (t.ctx.strand st).next = s.gcyc + 4 ∧ (t.ctx.strand st).regs = (s.core.shadow.strand st).regs
            ∧ (t.ctx.strand st).pc = (s.core.shadow.strand st).pc)
        ∧ t.core.shadow.handler = .switched s.gcyc ∧ t.core.shadow.c.pc = s.str.pc + 4 ∧ t.core.shadow.frame = s.ctx.frame
        ∧ (∀ st, (t.core.shadow.strand st).regs = (s.ctx.strand st).regs)
        ∧ t.core.domain = s.core.otherDomain ∧ t.core.syncmask = s.core.otherMask
        ∧ t.core.otherDomain = s.core.domain ∧ t.core.otherMask = s.core.syncmask
        ∧ t.core.seg = s.core.otherSeg ∧ t.core.otherSeg = s.core.seg ∧ KeepsMem s t)
    ∧ (here → s.core.shadow.group ≠ none → s.ctx.c.flights = [] → ¬ fits → exec (.ctxsw h) s = .next (precise 0x07 s.core.trapbase s))
    ∧ (¬ here → exec (.ctxsw h) s = .next (precise 0x01 (s.word.setWidth 64) s)))
  ∧ ∀ (s : State), s.core.idx < 768 → s.core.second = true → s.core.ctx.group = none → s.core.eng.stopped = none → s.core.shadow.replies = [] →
    ∃ t, exec (.contextSwitchBack s.core.idx) s = .next t ∧ t.core.second = false ∧ t.ctx.handler = .running ∧ t.ctx.c.next = s.gcyc
      ∧ t.ctx.c.pc = s.core.shadow.c.pc ∧ t.ctx.frame = s.core.shadow.frame ∧ t.core.domain = s.core.otherDomain
      ∧ t.core.syncmask = s.core.otherMask ∧ t.mem = s.mem

/-- TKS stages one push where the channel has room and TKW takes one token where there is one; else they trap or wait (R176, R178, R179, R287). -/
def Obligations.tokens : Prop :=
  ∀ (h : Hdr) (f : Tk),
    let held := fun s : State => s.ctx.tokens[f.t.toNat]'f.t.isLt
    let sum := fun s : State => s.plan.tok0[f.t.toNat]'f.t.isLt - s.plan.pops[f.t.toNat]'f.t.isLt + stagedPushes f.t.toNat s
    Acts (.tks h f) h false [] (fun s => sum s < 8)
      (fun s => stage (.push s.core.idx s.core.second s.cur.num f.t.toNat 0 s.str.pc) s)
    ∧ (∀ s, Ready h false [] s → 8 ≤ sum s → exec (.tks h f) s = .next (precise 0x0A 0 s))
    ∧ Acts (.tkw h f) h false [] (fun s => 0 < held s) (fun s =>
        (count 0x11 1 s).mapCtx fun x => { x with tokens := s.ctx.tokens.set f.t.toNat (held s - 1) f.t.isLt })
    ∧ (∀ s, Ready h false [] s → held s = 0 → s.str.timed = false → Holds s (exec (.tkw h f) s))
    ∧ ∀ s, Ready h false [] s → held s = 0 → s.str.timed = true → exec (.tkw h f) s = .next (precise 0x09 0 s)

/-- Barrier instructions: BINI, BARV, BEXP stage their change of a word, BWT waits for a new phase, BPH reads; refusals are precise traps (R294, R295, R296, R297, R298, R287).
That they take a word marked bad as it stands, with no 0x13, is the model's choice (log entry 24, DEDUCED). -/
def Obligations.barriers : Prop :=
  ∀ h : Hdr,
    let opn := fun (b : BitVec 6) (s : State) => b.toNat < 48 ∨ winOpen s = true
    let ticket := fun (b : BitVec 6) (v : BitVec 16) (s : State) =>
      s.setStr { s.str with tickets := s.str.tickets.set b.toNat v b.isLt }
    let quiet := fun s : State => s.cur = .A → pendingIn 1 true s = []
    (∀ f : Bd, let us := [useS f.d]
      let key := fun s : State => barKey s.core.idx f.b.toNat
      let taken := fun s : State => (barOf f.b s).live = true ∨ biniTaken (key s) s = true
      Acts (.bini h f) h false us (fun s => opn f.b s ∧ (s.rs f.d).toNat ≤ 1023 ∧ (s.rs f.d = 0 ∨ ¬ taken s)) (fun s =>
          let s' := stage (.bini s.core.idx s.cur (key s) (s.rs f.d)) s
          if s.rs f.d = 0 then s' else ticket f.b 0 s')
      ∧ (∀ s, Ready h false us s → opn f.b s → 1023 < (s.rs f.d).toNat → exec (.bini h f) s = .next (precise 0x07 (f.b.setWidth 64) s))
      ∧ (∀ s, Ready h false us s → opn f.b s → (s.rs f.d).toNat ≤ 1023 → s.rs f.d ≠ 0 → taken s →
          exec (.bini h f) s = .next (precise 0x08 0 s))
      ∧ Acts (.bexp h f) h false us (fun s => opn f.b s ∧ (s.rs f.d).toNat ≤ 1023 ∧ (barOf f.b s).live = true)
          (fun s => stage (.expect s.core.idx s.cur (key s) (s.rs f.d).toNat) s)
      ∧ (∀ s, Ready h false us s → opn f.b s → (1023 < (s.rs f.d).toNat ∨ (barOf f.b s).live = false) →
          exec (.bexp h f) s = .next (precise 0x07 (f.b.setWidth 64) s))
      ∧ (∀ s, Ready h false [] s → opn f.b s → ∃ t, exec (.bph h f) s = .next t ∧ Issued h false s t
          ∧ Scalars [] f.d (barOf f.b s).word (ticket f.b (if (barOf f.b s).live then (barOf f.b s).phase else 0) s) s t)
      ∧ ∀ s, ¬ opn f.b s → (Ready h false us s → exec (.bini h f) s = .next (precise 0x07 0 s) ∧ exec (.bexp h f) s = .next (precise 0x07 0 s))
          ∧ (Ready h false [] s → exec (.bph h f) s = .next (precise 0x07 0 s)))
    ∧ ∀ f : B0,
      Acts (.barv h f) h false [] (fun s => opn f.b s ∧ quiet s ∧ (barOf f.b s).live = true) (fun s =>
        ticket f.b (barOf f.b s).phase (stage (.arrive s.core.idx s.core.second s.cur.num (barKey s.core.idx f.b.toNat) 0 s.str.pc) s))
      ∧ (∀ s, Ready h false [] s → ¬ quiet s → Holds s (exec (.barv h f) s))
      ∧ (∀ s, Ready h false [] s → opn f.b s → (barOf f.b s).live = false →
          (quiet s → exec (.barv h f) s = .next (precise 0x07 (f.b.setWidth 64) s))
          ∧ exec (.bwt h f) s = .next (precise 0x07 (f.b.setWidth 64) s))
      ∧ Acts (.bwt h f) h false [] (fun s => opn f.b s ∧ (barOf f.b s).live = true
          ∧ (barOf f.b s).phase ≠ s.str.tickets[f.b.toNat]'f.b.isLt) (fun s => ticket f.b (barOf f.b s).phase s)
      ∧ (∀ s, Ready h false [] s → ¬ opn f.b s → exec (.bwt h f) s = .next (precise 0x07 0 s)
          ∧ (quiet s → exec (.barv h f) s = .next (precise 0x07 0 s)))
      ∧ ∀ s, Ready h false [] s → opn f.b s → (barOf f.b s).live = true → (barOf f.b s).phase = s.str.tickets[f.b.toNat]'f.b.isLt →
          (s.str.timed = false → Holds s (exec (.bwt h f) s)) ∧ (s.str.timed = true → exec (.bwt h f) s = .next (precise 0x0D 0 s))

/-- SEGB opens a segment where all running strands issue it together, SEGE closes it where count and signature agree; TSM and OPB act as told (R291, R292, R293, R375, R399). -/
def Obligations.segments : Prop :=
  ∀ h : Hdr,
    let joins := fun (d : Planned) (s : State) => d.word.getLsbD 30 = true → s.plan.apart.getLsbD d.st.num = false
    let together := fun (p : Planned → Bool) (s : State) => ∀ st ∈ s.plan.alive, ∃ d ∈ s.plan.due, d.st = st ∧ p d = true ∧ joins d s
    let noSeg := fun s : State => ∀ g, s.core.seg = some g → s.gcyc ≤ g.start
    let same := fun s : State => together (fun d => d.word = s.word && d.ext = s.extWord) s
    let bare := fun (op : BitVec 7) (w : W32) => w.getLsbD 31 = false ∧ w.extractLsb' 21 7 = op ∧ w.extractLsb' 0 21 = 0
    let ends := fun s : State => ∀ st ∈ s.plan.alive, ∃ d ∈ s.plan.due, d.st = st ∧ bare 0x2C d.word ∧ joins d s
    let count := fun (g : Segment) (s : State) => s.gcyc - g.start - s.core.slip
    let agrees := fun (g : Segment) (s : State) => count g s = (g.word.extractLsb' 0 16).toNat ∧ crc32c g.sig = g.ext
    (∀ f : Seg,
      Acts (.segb h f) h true [] (fun s => s.str.timed = true ∧ noSeg s ∧ same s)
        (fun s => { s with core := { s.core with seg := some ⟨s.gcyc, s.word, s.extWord, [], false⟩ } })
      ∧ ∀ s, Ready h true [] s → (s.str.timed = false → exec (.segb h f) s = .next (precise 0x0D 0 s))
        ∧ (s.str.timed = true → ¬ (noSeg s ∧ same s) → exec (.segb h f) s = .next (precise 0x14 (BitVec.allOnes 64) s)))
    ∧ Acts (.sege h) h false [] (fun s => s.str.timed = true ∧ ends s
        ∧ ∃ g, s.core.seg = some g ∧ g.start < s.gcyc ∧ (g.void = true ∨ agrees g s)) (fun s => stage (.segEnd s.core.idx) s)
    ∧ (∀ s g, Ready h false [] s → s.str.timed = true → ends s → s.core.seg = some g → g.start < s.gcyc → g.void = false → ¬ agrees g s →
        exec (.sege h) s = .next (precise 0x14 (BitVec.ofNat 64 (count g s * 2 ^ 32 + (crc32c g.sig).toNat)) s))
    ∧ (∀ s, Ready h false [] s → (s.str.timed = false → exec (.sege h) s = .next (precise 0x0D 0 s))
        ∧ (s.str.timed = true → (noSeg s ∨ ¬ ends s) → exec (.sege h) s = .next (precise 0x14 (BitVec.allOnes 64) s)))
    ∧ Acts (.tsm h) h false [] always
        (fun s => if s.cur = .M then s.mapEng fun e => { e with retained := [], retOver := false } else s)
    ∧ (let quiet := fun s : State => pendingIn 3 true s = [] ∧ ∀ e ∈ s.core.eng.wc, e.hasA = false
      let all := fun s : State => ∀ st ∈ s.plan.alive, ∃ d ∈ s.plan.due, d.st = st ∧ bare 0x2E d.word ∧ joins d s ∧ (d.st = .A → quiet s)
      Acts (.opb h) h false [] (fun s => s.core.seg = none ∧ (s.cur = .A → quiet s) ∧ all s) (fun s =>
        if s.plan.due.head?.map (fun d => d.st) = some s.cur then
          let u := s.mapCtx fun x => { x with bcount := s.ctx.bcount + 1 }
          if s.core.request then
            { u with
              core := { u.core with parking := some (s.ctx.bcount + 1, s.str.pc, s.cur.num), request := false }
              cal := insDue ⟨s.gcyc + 1, 9, s.core.idx, .park s.core.idx⟩ s.cal }
          else u
        else s)
      ∧ (∀ s, Ready h false [] s → s.core.seg ≠ none → exec (.opb h) s = .next (precise 0x0D 0 s))
      ∧ (∀ s, Ready h false [] s → s.core.seg = none → s.cur = .A → ¬ quiet s → Holds s (exec (.opb h) s))
      ∧ ∀ s, Ready h false [] s → s.core.seg = none → (s.cur = .A → quiet s) → ¬ all s →
        (s.str.timed = false → Holds s (exec (.opb h) s))
        ∧ (s.str.timed = true → ∃ tval, exec (.opb h) s = .next (precise 0x0D tval s)
            ∧ (∀ j, j < 4 → tval.getLsbD j = s.core.syncmask.getLsbD j)
            ∧ ∀ st : StrandId, tval.getLsbD (4 + st.num) = true ↔ ∃ d ∈ s.plan.due, d.st = st ∧ bare 0x2E d.word))

/-- What the end of a cycle does with each staged update: registers, barrier words, tokens, queues, modes, segments, the frame's header and TCAUSE.PFP (R83, R176, R231, R235, R263, R266, R270, R293, R297, R298, R338, R340). -/
def Obligations.staged_updates : Prop :=
  (∀ (s : State) (st : StrandId),
    let k := s.core.idx
    let sec := s.core.second
    let t := fun u => applyStaged u s
    ((t (.rot k sec st)).ctx.strand st).rotb = (s.ctx.strand st).rotb - 1
    ∧ (∀ p, ((t (.pert k sec st p)).ctx.strand st).pert = p)
    ∧ (∀ w, (t (.fmt k sec w)).ctx.fq = s.ctx.fq ++ [w])
    ∧ (∀ m, (t (.mmode k m)).arr.mmode = m)
    ∧ (∀ x, x < 16 → ((t (.orel k x)).slot x).owner = none)
    ∧ ((t (.segEnd k)).core.seg = none ∧ (t (.segEnd k)).core.slip = 0)
    ∧ (∀ key, ((t (.bini k st key 0)).bar key) = ⟨key, false, 0, 0, 0⟩)
    ∧ (∀ key (n : Word), n ≠ 0 → (s.bar key).live = false → (t (.bini k st key n)).bar key = ⟨key, true, 0, n.toNat, n.toNat⟩)
    ∧ (∀ agent key av pc, (s.bar key).live = true →
        ((t (.arrive k sec agent key av pc)).bar key).count = (s.bar key).count
        ∧ ((t (.arrive k sec agent key av pc)).bar key).live = true
        ∧ (1 < (s.bar key).pend → ((t (.arrive k sec agent key av pc)).bar key).pend = (s.bar key).pend - 1
            ∧ ((t (.arrive k sec agent key av pc)).bar key).phase = (s.bar key).phase)
        ∧ ((s.bar key).pend ≤ 1 → ((t (.arrive k sec agent key av pc)).bar key).pend = (s.bar key).count
            ∧ ((t (.arrive k sec agent key av pc)).bar key).phase = (s.bar key).phase + 1))
    ∧ (∀ key n, (s.bar key).live = true → ((t (.expect k st key n)).bar key).pend = min 1023 ((s.bar key).pend + n)
        ∧ ((t (.expect k st key n)).bar key).phase = (s.bar key).phase)
    ∧ (∀ agent (ch : Fin 16) pc, s.ctx.tokens[ch] < 8 →
        (t (.push k sec agent ch.val 0 pc)).ctx.tokens = s.ctx.tokens.set ch.val (s.ctx.tokens[ch] + 1) ch.isLt)
    ∧ (∀ f, s.ctx.frame = some f → (t (.frameHead k sec)).mem = memPut s.mem
        (poolAddr k (trapBase s.core.partw (if sec then 1 else 0)))
        (leBytes 8 f.tcause.toNat ++ leBytes 8 f.tval.toNat ++ leBytes 8 f.tcyc ++ leBytes 8 (frameFlags f)))
    ∧ (∀ m, t (.obs m) = appendSys (s.mailbox m) s)
    ∧ ((t (.pfp k)).core.tcause = s.core.tcause ||| 0x2000 ∧ (t (.pfp k)).mem = s.mem)
    ∧ (∀ u ∈ [Staged.rot k sec st, .segEnd k], (t u).mem = s.mem)
    ∧ (∀ agent key av pc, (s.bar key).live = true → (t (.arrive k sec agent key av pc)).mem = s.mem))
  ∧ ∀ (s : State) (u : Staged), s.staged = [u] → commit s = applyStaged u { s with staged := [] }

/-- Every load, store, vector access, ATOM and CAS of an idle access unit issues and enters the queue with its perform cycle and its result in flight (R190, R191, R194, R195, R196, R197, R198, R199, R200, R202, R203, R111). -/
def Obligations.accesses_enter : Prop :=
  ∀ i h long us q, accessForm i = some (h, long, us, q) → Enters i h long us q

/-- The perform offset and the latency of an access by its space, as the table of R191 gives them, with 4 cycles more for a strided load (R191, R199). -/
def Obligations.access_timing : Prop :=
  (∀ (k : Nat) (p : Word),
    (ptrSpace p = 2 → naturalTime k false p = (1, 6) ∧ (naturalTime k true p).1 = 0)
    ∧ (ptrSpace p = 3 → naturalTime k false p = (6, 14) ∧ (naturalTime k true p).1 = 5)
    ∧ (ptrSpace p = 1 → naturalTime k false p = (11, 24) ∧ (naturalTime k true p).1 = 11)
    ∧ (ptrSpace p = 4 → (naturalTime k true p).1 = 8)
    ∧ (ptrSpace p = 5 → (naturalTime k true p).1 = 1))
  ∧ ∀ (q : Req) (s : State), q.ptrs ≠ [] →
    (q.access s).nat = (naturalTime s.core.idx q.kind.isStore q.first).1
    ∧ (q.access s).lat = (naturalTime s.core.idx q.kind.isStore q.first).2 + (match q.kind with | .load (.strided _) => 4 | _ => 0)

/-- An access traps precisely, with the pointer as TVAL, at the first step that fails: 0x04, 0x03, 0x05, the admission, 0x0D (R97, R98, R99, R100, R96, R195, R313). -/
def Obligations.access_faults : Prop :=
  ∀ i h long us q, accessForm i = some (h, long, us, q) → ∀ s p, Ready h long us s → s.ctx.gate.acq = [] → Released (q s) s →
    (q s).ptrs = [p] →
    let trap := fun c => exec i s = .next (precise c p s)
    let past := ∃ z, spaceSize p s = some z ∧ z < ptrOff p + (q s).len
    (canonical p = false → trap 0x04)
    ∧ (canonical p = true → ptrOff p % (q s).align ≠ 0 → trap 0x03)
    ∧ (canonical p = true → ptrOff p % (q s).align = 0 → ptrSpace p ≠ 5 →
      (past → trap 0x05)
      ∧ (¬ past → ∀ c, admission (q s).reach (q s).len p s = some c → trap c)
      ∧ (¬ past → admission (q s).reach (q s).len p s = none → s.str.timed = true →
          (ptrSpace p = 0 ∨ (ptrSpace p = 3 ∧ ptrClu p ≠ s.core.idx / 8)) → trap 0x0D))
    ∧ ((q s).reach = .load false → 3 < ptrSpace p → ptrSpace p ≠ 6 → admission (q s).reach (q s).len p s = some 0x07)
    ∧ ((q s).reach = .store → 6 < ptrSpace p → admission (q s).reach (q s).len p s = some 0x07)
    ∧ (((q s).reach = .store ∨ (q s).reach = .atomic) → ptrSpace p = 6 → placeOk p s = true → liveUnder p (q s).len s = true →
        admission (q s).reach (q s).len p s = some 0x08)

/-- In its perform cycle a load takes its bytes, a store writes exactly its bytes, an atomic reads and writes, a REMOTE store posts one write; in GLOBAL space bytes pass through the page's view and the write-combining buffer (R191, R193, R196, R197, R198, R199, R202, R203, R105, R324, R186). A read whose tag fails only in this cycle is a deferred trap: the model's choice (log entry 19, DEDUCED), as the landing some cycles later of a GLOBAL result is (log entry 12). -/
def Obligations.accesses_perform : Prop :=
  (∀ (k id : Nat) (s : State) (a : Access), s.core.idx = k → k < 768 → s.access id = some a → a.id = id → a.p = some s.gcyc → a.done = false →
    a.global = false → Memory.wf s.mem = true → s.soft = [] → s.bad = [] →
    (∀ o y, a.kind ≠ .streamRead o y) →
    let byteAt := fun b => ((a.fwd.find? fun y => y.1 = b).map Prod.snd).getD (memRead s.mem b)
    let bytes := a.pieces.flatMap fun x => (List.range x.2).map fun j => byteAt (x.1 + j)
    let value := fun (P : VReg → Prop) (t : State) => ∃ v, P v ∧ t.ctx.a.flights = s.ctx.a.flights.map fun f =>
      if f.access = some id then { f with regs := f.regs.map fun r => { r with val := v } } else f
    ∃ t, exec (.accessPerform k id) s = .next t ∧ Memory.wf t.mem = true ∧ t.gcyc = s.gcyc
      ∧ (∀ b ∈ t.ctx.acc, b.id = id → b.done = true)
      ∧ (∀ n sg, a.kind = .load (.scalar n sg) → n ≤ 8 → ptrSpace a.ptr ≠ 6 → KeepsMem s t
          ∧ value (fun v => v.setWidth 64 = if sg then BitVec.ofInt 64 (BitVec.ofNat (8 * n) (leNat bytes)).toInt else BitVec.ofNat 64 (leNat bytes)) t)
      ∧ (∀ n sg, a.kind = .load (.scalar n sg) → ptrSpace a.ptr = 6 → KeepsMem s t ∧ value (fun v => v.setWidth 64 = (barAt a.ptr s).word) t)
      ∧ (∀ f, (f = .vector ∨ ∃ n, f = .strided n) → a.kind = .load f → ptrSpace a.ptr ≠ 6 → bytes.length = 512 → KeepsMem s t
          ∧ value (fun v => ∀ j, j < 512 → laneB 8 v j = bytes.getD j 0) t)
      ∧ (∀ n, a.kind = .load (.bcast n) → (n = 1 ∨ n = 2 ∨ n = 4) → ptrSpace a.ptr ≠ 6 → bytes.length = n → KeepsMem s t
          ∧ value (fun v => ∀ j, j < 512 / n → lane (8 * n) v j = leNat bytes) t)
      ∧ (a.kind = .store → (ptrSpace a.ptr < 5) →
          (∀ b, (∀ r ∈ a.runs s, b < r.1 ∨ r.1 + r.2.1 ≤ b) → memRead t.mem b = memRead s.mem b)
          ∧ (∀ n x, a.copies = [0] → ptrSpace a.ptr ≠ 4 → (∀ y ∈ a.pieces, y.2 = n) → a.pieces.Pairwise (fun y z => y.1 + n ≤ z.1 ∨ z.1 + n ≤ y.1) →
              a.data.length = n * a.pieces.length → ∀ j, a.pieces[j]? = some x → ∀ m, m < n → memRead t.mem (x.1 + m) = a.data.getD (n * j + m) 0)
          ∧ t.ctx.a.flights = s.ctx.a.flights)
      ∧ (∀ x n, (n = 4 ∨ n = 8) → a.pieces = [(x, n)] → a.copies = [0] → ptrSpace a.ptr < 4 →
          let old := BitVec.ofNat (8 * n) (leNat (memBytes s.mem x n))
          let gives := value (fun v => v.setWidth 64 = BitVec.ofInt 64 old.toInt) t
          (∀ op v, a.kind = .atomic op n v →
            let b := v.setWidth (8 * n)
            let new := match op with
              | .add => old + b | .and => old &&& b | .or => old ||| b | .xor => old ^^^ b | .swap => b
              | .min => if old.toInt ≤ b.toInt then old else b
              | .max => if old.toInt ≤ b.toInt then b else old
              | .minn => if old.toNat ≤ b.toNat then old else b
              | .maxn => if old.toNat ≤ b.toNat then b else old
            gives ∧ HoldsBytes x (leBytes n new.toNat) t ∧ KeepsMemBut x n s t)
          ∧ ∀ e v, a.kind = .cas n e v → gives
            ∧ (old = e.setWidth (8 * n) → HoldsBytes x (leBytes n v.toNat) t ∧ KeepsMemBut x n s t)
            ∧ (old ≠ e.setWidth (8 * n) → KeepsMem s t))
      ∧ ∀ w x n, w < 64 → a.kind = .post w → a.pieces = [(x, n)] → a.data.length = n → KeepsMem s t
          ∧ (t.window w).left = (s.window w).left - 32 * ((n + 16 + 31) / 32)
          ∧ ∃ p, (t.window w).queue = (s.window w).queue ++ [p] ∧ p.win = w ∧ p.off = x ∧ p.bytes = a.data ∧ p.tgt = (s.window w).tgt
            ∧ p.seq = (s.window w).seq ∧ p.cyc = s.gcyc ∧ p.core = k)
  ∧ ∀ (k id : Nat) (s : State) (a : Access) (x n : Nat) (raw : Word), s.core.idx = k → k < 768 → s.ctx.acc = [a] → a.id = id →
    a.p = some s.gcyc → a.done = false → ptrSpace a.ptr = 0 → Memory.wf s.mem = true → s.soft = [] → s.bad = [] → s.core.eng.wc = [] → a.fwd = [] →
    a.copies = [0] → a.pieces = [(x, n)] → a.ptes = [raw] →
    let read := (List.range n).map fun j => if pteKey raw = 0 then some (memRead s.mem (x + j))
      else (unitRead raw ((x + j) / 256) s).map fun bs => bs.getD ((x + j) % 256) 0
    let plainPage := pteKey raw = 0 ∧ pteCmp raw = false
    let value := fun (P : VReg → Prop) (t : State) => ∃ v, P v ∧ t.fresh = s.fresh + 1
      ∧ ⟨s.gcyc + Config.tierDelay s.fresh, 8, k, .resultLanding k⟩ ∈ t.cal
      ∧ t.ctx.a.flights = s.ctx.a.flights.map fun f => if f.access = some id
          then { f with regs := f.regs.map (fun r => { r with val := v }), lands := some (s.gcyc + Config.tierDelay s.fresh) } else f
    ∃ t, exec (.accessPerform k id) s = .next t
      ∧ (∀ m sg bs, a.kind = .load (.scalar m sg) → m ≤ 8 → read = bs.map some → KeepsMem s t
          ∧ value (fun v => v.setWidth 64 = if sg then BitVec.ofInt 64 (BitVec.ofNat (8 * m) (leNat bs)).toInt else BitVec.ofNat 64 (leNat bs)) t)
      ∧ (∀ m sg, a.kind = .load (.scalar m sg) → none ∈ read → s.core.deferred = none →
          t.core.deferred = some ⟨0x12, a.ptr, .A, true⟩ ∧ t.ctx.acc = [] ∧ KeepsMem s t)
      ∧ (a.kind = .store → a.data.length = n → s.svc.viral = false → (s.vf (pteVf raw)).dirty = none → plainPage →
          HoldsBytes x a.data t ∧ KeepsMemBut x n s t)
      ∧ (a.kind = .store → a.data.length = n → ¬ plainPage → 0 < n → n < 256 → (x + n - 1) / 256 = x / 256 → s.core.wcwait ≠ 0 → KeepsMem s t
          ∧ ∃ e, t.core.eng.wc = [e] ∧ e.unit = x / 256 ∧ e.pte = raw ∧ e.due = s.gcyc + s.core.wcwait.toNat
            ∧ ⟨e.due, 6, 2 * k + 1, .wcWrite k e.unit false⟩ ∈ t.cal
            ∧ ∀ j, j < n → (e.bytes.find? fun y => y.1 = x + j).map Prod.snd = a.data[j]?)

/-- FENCE, MARK, acquires and releases: what strand A waits for, in both modes, and what FENCE and MARK leave to be waited for (R204, R206, R207, R186, R301). -/
def Obligations.ordering : Prop :=
  (∀ (h : Hdr) (f : FenceF), Acts (.fence h f) h false [] always (fun s =>
      let stores := f.order.getLsbD 1
      let mine := fun a : Access => a.pendingAt s.gcyc && a.scope s.core.idx ≤ f.scope.toNat && (stores || !a.isStore)
      s.mapCtx fun x => { x with gate := { x.gate with
        all := (s.ctx.acc.filter mine).map fun a => a.id, wc := if stores && f.scope = 2 then s.nextId else 0 } }))
  ∧ (∀ (h : Hdr) (s : State), Ready h false [] s →
      ∃ t w, exec (.mark h) s = .next t ∧ Went [] (s.str.pc + 4) (s.gcyc + 1 + h.i.toNat) w s t
        ∧ w = { s with
            core := { s.core with
              eng := { s.core.eng with wc := s.core.eng.wc.map fun e => if e.byA then { e with due := s.gcyc } else e }
              ctx := { s.core.ctx with gate := { s.core.ctx.gate with
                all := (s.ctx.acc.filter fun a => a.pendingAt s.gcyc && a.scope s.core.idx ≤ 3).map fun a => a.id, wc := s.nextId } } }
            cal := w.cal }
        ∧ (∀ d ∈ s.cal, d ∈ w.cal) ∧ ∀ e ∈ s.core.eng.wc, e.byA = true → ⟨s.gcyc, 6, 2 * s.core.idx + 1, .wcWrite s.core.idx e.unit false⟩ ∈ w.cal)
  ∧ (∀ (h : Hdr) (long : Bool) (us : List Use) (n : Need) (check : State → Option Stop) (eff : State → Eff) (s : State),
      ¬ Ungated s → Holds s (issue h long us n check eff s))
  ∧ ∀ i h long us q, accessForm i = some (h, long, us, q) → ∀ s, Ready h long us s →
      ((∃ g ∈ s.ctx.gate.acq, ((q s).access s).scope s.core.idx ≤ g.2.toNat ∧ s.pendingId g.1 = true) ∨ ¬ Released (q s) s) →
      Holds s (exec i s)

/-- TLBI removes translations at the end of its cycle, PREF walks into the stream TLB; their traps (R213, R214, R96, R114). -/
def Obligations.translations : Prop :=
  ∀ h : Hdr,
    (∀ f : R1, let us := [useS f.a f.la]
      let p := fun s : State => s.rs f.a
      Acts (.tlbiPage h f) h false us (fun s => canonical (p s) = true ∧ ptrSpace (p s) = 0 ∧ s.str.timed = false)
        (fun s => stage (.tlbi s.core.idx s.vfOf (some (ptrOff (p s)))) s)
      ∧ ∀ s, Ready h false us s →
        (canonical (p s) = false → exec (.tlbiPage h f) s = .next (precise 0x04 (p s) s))
        ∧ (canonical (p s) = true → ptrSpace (p s) ≠ 0 → exec (.tlbiPage h f) s = .next (precise 0x07 (p s) s))
        ∧ (canonical (p s) = true → ptrSpace (p s) = 0 → s.str.timed = true → exec (.tlbiPage h f) s = .next (precise 0x0D (p s) s)))
    ∧ (∀ f : Ra, Acts (.tlbiVf h f) h false [] (fun s => s.str.timed = false) (fun s => stage (.tlbi s.core.idx s.vfOf none) s)
      ∧ ∀ s, Ready h false [] s → s.str.timed = true → exec (.tlbiVf h f) s = .next (precise 0x0D 0 s))
    ∧ (∀ (s : State) (vf : Nat) (va : Option Nat), let t := applyStaged (.tlbi s.core.idx vf va) s
      (∀ e, e ∈ t.core.tlbA ↔ e ∈ s.core.tlbA ∧ ¬ (e.vf = vf ∧ ∀ a ∈ va, e.pte.base ≤ a ∧ a < e.pte.base + e.pte.size))
      ∧ (∀ e, e ∈ t.core.tlbC ↔ e ∈ s.core.tlbC ∧ ¬ (e.vf = vf ∧ ∀ a ∈ va, e.pte.base ≤ a ∧ a < e.pte.base + e.pte.size))
      ∧ (∀ e, e ∈ t.core.tlbX ↔ e ∈ s.core.tlbX ∧ ¬ (e.vf = vf ∧ ∀ a ∈ va, e.pte.base ≤ a ∧ a < e.pte.base + e.pte.size))
      ∧ t.mem = s.mem ∧ t.core.ctx = s.core.ctx)
    ∧ ∀ f : R2s, let us := [useS f.a f.la, useS f.b f.lb]
      (∀ s, Ready h false us s → s.str.timed = false →
        ∃ t l, exec (.pref h f) s = .next t
          ∧ Went us (s.str.pc + 4) (s.gcyc + 1 + h.i.toNat) { s with core := { s.core with tlbA := l } } s t
          ∧ (canonical (s.rs f.a) = false ∨ ptrSpace (s.rs f.a) ≠ 0 ∨ s.rs f.b = 0 → l = s.core.tlbA)
          ∧ (canonical (s.rs f.a) = true → ptrSpace (s.rs f.a) = 0 → s.rs f.b ≠ 0 →
              (∀ e ∈ s.core.tlbA, ¬ (e.vf = s.vfOf ∧ e.pte.base ≤ ptrOff (s.rs f.a) ∧ ptrOff (s.rs f.a) < e.pte.base + e.pte.size)) →
              ∀ p, walk s s.vfOf (ptrOff (s.rs f.a)) = .found p → ptrOff (s.rs f.a) + (s.rs f.b).toNat ≤ p.base + p.size →
                l = (⟨s.vfOf, p⟩ :: s.core.tlbA.filter fun e =>
                  ¬ (e.vf = s.vfOf ∧ e.pte.base ≤ p.base ∧ p.base < e.pte.base + e.pte.size)).take 16)
          ∧ ∀ e ∈ l, e ∈ s.core.tlbA ∨ (e.vf = s.vfOf ∧ ∃ va, ptrOff (s.rs f.a) ≤ va
              ∧ va < ptrOff (s.rs f.a) + (s.rs f.b).toNat ∧ walk s s.vfOf va = .found e.pte))
      ∧ ∀ s, Ready h false us s → s.str.timed = true → exec (.pref h f) s = .next (precise 0x0D (s.rs f.a) s)

/-- COPY, COPYT and COPYK that pass every check enter the command buffer in target-cycle order; each failure has its precise trap (R164, R165, R169, R172, R43).
That a stamp that has passed takes 0x18 where the buffer is full as well, for which R165 gives 0x0D, is the model's choice (log entry 34,
DESIGN CHOICE). -/
def Obligations.copy_accepts : Prop :=
  ∀ (h : Hdr) (f : En),
    let us := useS f.d :: useS f.a :: useS f.b :: (if f.k = 0 then [] else [useS (BitVec.ofNat 5 (24 + f.k.toNat))])
    let delta := fun s : State => (s.stamp f.stamp - BitVec.ofNat 32 s.gcyc).toNat
    let ahead := fun s : State => 1 ≤ delta s ∧ delta s < 2 ^ 31
    let target := fun s : State => if ahead s ∧ (s.str.timed = true ∨ f.stamp ≠ 0) then s.gcyc + delta s else s.gcyc + 1
    let fault := fun (kind : Nat) (s : State) => copyFault kind (s.rs f.d) (s.rs f.a) (s.rs f.b) s
    (∀ (kind : Nat) (i : Instr), (kind, i) ∈ [(0, .copy h f), (1, .copyt h f), (2, .copyk h f)] →
      Acts i h true us (fun s => s.ctx.gate.acq = [] ∧ fault kind s = none ∧ (s.str.timed = true → ahead s) ∧ s.core.eng.copyBuf.length < 32)
        (fun s =>
          let c := makeCopy kind f s
          { s with
            core := { s.core with eng := { s.core.eng with
              copyBuf := s.core.eng.copyBuf.takeWhile (fun d => d.target ≤ target s) ++ c
                :: s.core.eng.copyBuf.dropWhile fun d => d.target ≤ target s } }
            nextId := s.nextId + 1
            cal := insDue ⟨target s, 4, 8 * s.core.idx + 4, .copyStart s.core.idx⟩ s.cal })
      ∧ ∀ s, Ready h true us s → s.ctx.gate.acq = [] →
        (∀ c v, fault kind s = some (c, v) → exec i s = .next (precise c v s))
        ∧ (fault kind s = none → s.str.timed = true → ¬ ahead s → exec i s = .next (precise 0x18 (f.stamp.setWidth 64) s))
        ∧ (fault kind s = none → (s.str.timed = true → ahead s) → 32 ≤ s.core.eng.copyBuf.length →
            (s.str.timed = false → Holds s (exec i s)) ∧ (s.str.timed = true → exec i s = .next (precise 0x0D 0 s))))
    ∧ ∀ s : State,
      (∀ kind, kind ≤ 2 → let c := makeCopy kind f s
        c.id = s.nextId ∧ c.kind = kind ∧ c.ctl = s.rs f.b ∧ c.pc = s.str.pc ∧ c.timed = s.str.timed ∧ c.second = s.core.second
        ∧ c.spec = (if f.k = 0 then none else some (s.rs (BitVec.ofNat 5 (24 + f.k.toNat))))
        ∧ ((s.str.timed = true → ahead s) → c.target = target s))
      ∧ (let c := makeCopy 0 f s
        c.src = s.rs f.a ∧ c.dst = s.rs f.d ∧ c.srcAt = placeOf (s.rs f.a) s ∧ c.dstAt = placeOf (s.rs f.d) s
        ∧ c.beats = ((s.rs f.b).toNat % 2 ^ 32 + 127) / 128)
      ∧ (ptrSpace (s.rs f.d) = 6 → fault 0 s = some (0x08, s.rs f.d) ∧ fault 2 s = some (0x08, s.rs f.d))
      ∧ (ptrSpace (s.rs f.d) ≠ 6 → 2 ^ 26 < (s.rs f.b).toNat % 2 ^ 32 → fault 0 s = some (0x07, s.rs f.b))

/-- The copy engine: a command starts when its target cycle and tokens are there, reads and writes beats of 128 bytes, and completes with its token and arrival; a record that waits for room holds it (R166, R167, R168, R173, R177, R303, R355).
The model's choice are: of a late timed command without its tokens 0x09 alone is told (log entry 34, DESIGN CHOICE: the clause on missing
tokens); an empty command keeps the engine busy for one cycle (log entry 34: max 1 beats); each multicast member drops for itself a beat that
does not fit it (log entry 34: the clause on space 4); and a command whose entry holds a parity error stops with 0x13 (log entry 24,
DEDUCED: the clause on hurt). -/
def Obligations.copy_engine : Prop :=
  ∀ (k : Nat) (s : State), s.core.idx = k → k < 768 →
    (∀ c cs, s.core.eng.copyBuf = c :: cs →
      let toks := (s.ctxNum c.second).tokens
      let free := ∀ d ∈ s.core.eng.copyRun, d.busy ≤ s.gcyc ∧ d.hold = false
      let records := fun (t : State) => t.core.eng.recs ++ t.core.eng.recWait
      let told := fun (code : BitVec 6) (t : State) => ∃ r, records t = records s ++ [r] ∧ r.w1.extractLsb' 40 6 = code
      let waits := ∃ r ∈ s.core.eng.recWait, r.w1.extractLsb' 34 4 = 2
      (s.gcyc < c.target ∨ ¬ free → exec (.copyStart k) s = .next s)
      ∧ (waits → ∃ t, exec (.copyStart k) s = .next t ∧ t.core = s.core ∧ t.mem = s.mem)
      ∧ (c.target ≤ s.gcyc → free → ¬ waits →
        ∃ t, exec (.copyStart k) s = .next t ∧ t.mem = s.mem
          ∧ (c.hurt = true → t.core.eng.copyBuf = cs ∧ t.core.eng.copyRun = s.core.eng.copyRun ∧ (t.ctxNum c.second).tokens = toks ∧ told 0x13 t)
          ∧ (c.hurt = false → tokensThere toks (specPops c.spec) = true → t.core.eng.copyBuf = cs
              ∧ (t.ctxNum c.second).tokens = takeTokens toks (specPops c.spec)
              ∧ (∃ d, t.core.eng.copyRun = s.core.eng.copyRun ++ [d] ∧ d.id = c.id ∧ d.start = s.gcyc ∧ d.busy = s.gcyc + max 1 c.beats
                  ∧ d.read = c.read ∧ (ptrSpace c.src ≠ 0 → 0 < c.beats → d.readAt = s.gcyc + copyReads (ptrSpace c.src)
                    ∧ ⟨d.readAt, 1, k, .copyBeat k c.id⟩ ∈ t.cal))
              ∧ (c.timed = true → c.target < s.gcyc → told 0x18 t)
              ∧ (c.timed = false ∨ s.gcyc = c.target → records t = records s))
          ∧ (c.hurt = false → tokensThere toks (specPops c.spec) = false → (t.ctxNum c.second).tokens = toks ∧ t.core.eng.copyRun = s.core.eng.copyRun
              ∧ (c.timed = false → t.core.eng.copyBuf = c :: cs ∧ records t = records s)
              ∧ (c.timed = true → t.core.eng.copyBuf = cs ∧ told 0x09 t))))
    ∧ (∀ id c w, s.core.eng.copyRun = [c] → c.id = id → c.halted = none → c.walk = some w → (s.ctxNum c.second).inHandler s.gcyc = true →
        ∃ t, exec (.copyBeat k id) s = .next t ∧ t = { s with cal := t.cal } ∧ ⟨s.gcyc + 1, 1, k, .copyBeat k id⟩ ∈ t.cal)
    ∧ ∀ id c, s.core.eng.copyRun = [c] → c.id = id → c.halted = none → c.walk = none →
      let n := min 128 ((c.ctl).toNat % 2 ^ 32 - 128 * c.read)
      let src := c.srcAt + 128 * c.read
      let near := fun p : Word => 1 ≤ ptrSpace p ∧ ptrSpace p ≤ 3
      (c.kind = 0 → near c.src → near c.dst → c.read < c.beats → c.readAt ≤ s.gcyc → c.bad = [] → c.old = [] → s.soft = [] → s.bad = [] →
        ∃ t d, exec (.copyBeat k id) s = .next t ∧ t.mem = s.mem ∧ t.core.eng.copyRun = [d] ∧ d.read = c.read + 1 ∧ d.readAt = s.gcyc + 1
          ∧ d.buf = c.buf ++ [⟨c.read, s.gcyc + (copyLsrc (ptrSpace c.src) - copyReads (ptrSpace c.src)) + copyLdst (ptrSpace c.dst),
              (memBytes s.mem src n).map some⟩] ∧ d.wrote = c.wrote ∧ d.bad = [])
      ∧ (∀ b bs, c.kind = 0 → near c.dst → (c.beats ≤ c.read ∨ s.gcyc < c.readAt) → c.buf = [b] → b.due ≤ s.gcyc → c.ovl = none → c.copies = [0] →
        b.data = bs.map some → Memory.wf s.mem = true →
        ∃ t d, exec (.copyBeat k id) s = .next t ∧ t.core.eng.copyRun = [d] ∧ d.wrote = c.wrote + 1 ∧ d.buf = [] ∧ Memory.wf t.mem = true
          ∧ HoldsBytes (c.dstAt + 128 * b.beat) bs t ∧ KeepsMemBut (c.dstAt + 128 * b.beat) bs.length s t
          ∧ (c.wrote + 1 = c.beats → ⟨s.gcyc, 9, k, .copyComplete k id⟩ ∈ t.cal))
      ∧ (let span := beatSpan c c.read
        let at_ := ((c.srcAt : Int) + span.1).toNat
        let clean := c.read < c.beats ∧ c.readAt ≤ s.gcyc ∧ c.bad = [] ∧ c.old = [] ∧ s.soft = [] ∧ s.bad = []
        let takes := fun (due : Nat) (data : List Byte) (d : CopyCmd) => d.read = c.read + 1 ∧ d.buf = c.buf ++ [⟨c.read, due, data.map some⟩]
          ∧ d.wrote = c.wrote ∧ d.bad = []
        let path := copyLsrc (ptrSpace c.src) - copyReads (ptrSpace c.src) + copyLdst (ptrSpace c.dst)
        let was := memBytes s.mem at_ span.2.1
        (clean → c.kind = 1 → near c.src → near c.dst → ∃ t d, exec (.copyBeat k id) s = .next t ∧ t.mem = s.mem ∧ t.core.eng.copyRun = [d]
          ∧ takes (s.gcyc + path) was d)
        ∧ (clean → c.kind = 2 → near c.src → near c.dst → 0 < span.2.1 → ∃ t d, exec (.copyBeat k id) s = .next t ∧ t.mem = s.mem
          ∧ t.core.eng.copyRun = [d]
          ∧ takes (s.gcyc + path + 4) (if c.ctl.getLsbD 2 then leBytes 32 (packNat 16 (decodeBlock (copyMw c.ctl) was))
              else let e := encodeBlock (copyMw c.ctl) ((List.range 16).map fun i => leNat ((was.drop (2 * i)).take 2))
                e.1 ++ List.replicate (copyPad c.ctl - e.1.length) 0 ++ [e.2]) d)
        ∧ ∀ pa raw, clean → c.kind ≤ 1 → ptrSpace c.src = 0 → near c.dst → c.head = [] → s.core.eng.wc = [] → pteKey raw = 0 →
          (copyXlate c false at_ span.2.1 s).1 = [(pa, span.2.1, raw)] → (copyXlate c false at_ span.2.1 s).2.1 = none →
          ∃ t d due, exec (.copyBeat k id) s = .next t ∧ t.mem = s.mem ∧ t.core.eng.copyRun = [d] ∧ s.gcyc < due
            ∧ takes due (memBytes s.mem pa span.2.1) d)
      ∧ (∀ b bs, (c.beats ≤ c.read ∨ s.gcyc < c.readAt) → c.buf = [b] → b.due ≤ s.gcyc → c.ovl = none → Memory.wf s.mem = true →
        let at_ := ((c.dstAt : Int) + (beatSpan c b.beat).2.2.1).toNat
        let writes := fun (more : State → Prop) => ∃ t d, exec (.copyBeat k id) s = .next t ∧ t.core.eng.copyRun = [d] ∧ d.wrote = c.wrote + 1
          ∧ d.buf = [] ∧ Memory.wf t.mem = true ∧ more t
        (c.kind = 1 → near c.dst → c.copies = [0] → b.data = bs.map some →
          writes fun t => HoldsBytes at_ bs t ∧ KeepsMemBut at_ bs.length s t)
        ∧ (∀ e, c.kind = 2 → near c.dst → c.copies = [0] → c.ctl.getLsbD 2 = false → bs.length = copyPad c.ctl → b.data = (bs ++ [e]).map some →
          let side := poolAddr k (copyErrt c.ctl + b.beat)
          side < at_ ∨ at_ + bs.length ≤ side →
          writes fun t => HoldsBytes at_ bs t ∧ memRead t.mem side = e
            ∧ ∀ a, a ≠ side → a < at_ ∨ at_ + bs.length ≤ a → memRead t.mem a = memRead s.mem a)
        ∧ (let fits := fun m : Nat => at_ + bs.length ≤ localSize (s.coreAt ((m - 2 ^ 40) / 2 ^ 21)).partw
          c.kind ≤ 1 → ptrSpace c.dst = 4 → b.data = bs.map some →
          (∀ m ∈ c.copies, ∀ n ∈ c.copies, m = n ∨ m + at_ + bs.length ≤ n + at_ ∨ n + at_ + bs.length ≤ m + at_) →
          writes fun t => (∀ m ∈ c.copies, fits m → HoldsBytes (m + at_) bs t)
            ∧ ∀ a, (∀ m ∈ c.copies, fits m → a < m + at_ ∨ m + at_ + bs.length ≤ a) → memRead t.mem a = memRead s.mem a)
        ∧ (∀ pa raw, c.kind ≤ 1 → ptrSpace c.dst = 0 → c.part = 0 → b.data = bs.map some → (beatSpan c b.beat).2.2.2 = bs.length →
          (copyXlate c true at_ bs.length s).1 = [(pa, bs.length, raw)] → (copyXlate c true at_ bs.length s).2.1 = none →
          pteKey raw = 0 → pteCmp raw = false → s.svc.viral = false → (s.vf (pteVf raw)).dirty = none →
          writes fun t => HoldsBytes pa bs t ∧ KeepsMemBut pa bs.length s t)
        ∧ (let w := ptrWin c.dst
          c.kind ≤ 1 → ptrSpace c.dst = 5 → w < 64 → b.data = bs.map some → bs ≠ [] → windowHolds w 1 s = true →
          32 * ((bs.length + 16 + 31) / 32) + (postsBefore w s).2 ≤ (s.window w).left →
          writes fun t => t.mem = s.mem ∧ (t.window w).left = (s.window w).left - 32 * ((bs.length + 16 + 31) / 32)
            ∧ ∃ p, (t.window w).queue = (s.window w).queue ++ [p] ∧ p.win = w ∧ p.off = at_ ∧ p.bytes = bs ∧ p.agent = 1 ∧ p.core = k
              ∧ p.cyc = s.gcyc ∧ p.tgt = (s.window w).tgt ∧ p.seq = (s.window w).seq))
      ∧ (c.beats ≤ c.wrote → (∃ e ∈ s.core.eng.wc, id ∈ e.cmds) → ∃ t, exec (.copyComplete k id) s = .next t ∧ t.core = s.core
          ∧ t.staged = s.staged ∧ ⟨s.gcyc + 1, 9, k, .copyComplete k id⟩ ∈ t.cal)
      ∧ (c.beats ≤ c.wrote → (∀ e ∈ s.core.eng.wc, id ∉ e.cmds) → ∃ t, exec (.copyComplete k id) s = .next t ∧ t.core.eng.copyRun = [] ∧ t.mem = s.mem
          ∧ ((c.stopped = true ∨ c.bad ≠ []) → t.staged = s.staged)
          ∧ (c.stopped = false → c.bad = [] → t.staged = s.staged
              ++ (match specPush c.spec with | some ch => [.push k c.second 4 ch.val (c.spec.getD 0) c.pc] | none => [])
              ++ (if c.kind ≠ 2 ∧ c.ctl.getLsbD 63 = true then
                  [.arrive k c.second 4 (barKey (8 * (k / 8) + (c.ctl.extractLsb' 60 3).toNat) (c.ctl.extractLsb' 54 6).toNat)
                    ((c.ctl.extractLsb' 54 9).setWidth 64) c.pc] else [])))

/-- STRM.STAT and STRM.CLOSE act on the open stream of their handle; STRM.CHK and STRM.OPEN check their pointer and start their reads (R151, R152, R153, R154, R155, R306).
That the slot of a pending OLOAD.S is poisoned at the close itself is the model's choice (log entry 34). -/
def Obligations.stream_instructions : Prop :=
  ∀ h : Hdr,
    (∀ f : R2, let us := [useS f.a f.la]
      ∀ s, Ready h false us s → s.ctx.gate.acq = [] → ∃ t v, exec (.strmStat h f) s = .next t ∧ Issued h false s t ∧ Scalars us f.d v s s t
        ∧ ((∀ x, s.core.eng.stream = some x → x.handle ≠ s.rs f.a) → v = BitVec.ofNat 64 (2 ^ 63))
        ∧ ∀ x, s.core.eng.stream = some x → x.handle = s.rs f.a → x.lastD ≠ some s.gcyc → x.next < 2 ^ 16 →
          v.getLsbD 63 = false
          ∧ (v.extractLsb' 60 3).toNat = (if x.failed then 4 else if x.next = x.tt.length then 3 else if s.gcyc < x.start then 1 else 2)
          ∧ v.getLsbD 59 = x.overrun ∧ v.getLsbD 58 = x.integ ∧ v.getLsbD 57 = x.corr ∧ v.getLsbD 56 = x.late
          ∧ (v.extractLsb' 32 16).toNat = x.next
          ∧ (v.extractLsb' 0 32).toNat = (if x.failed || s.gcyc < x.start then 0
              else min x.total (x.rate * (s.gcyc - x.start) / 16) - x.gone) % 2 ^ 32)
    ∧ (∀ f : R1, let us := [useS f.a f.la]
      let mine := fun s : State => ∃ x, s.core.eng.stream = some x ∧ x.handle = s.rs f.a
      Acts (.strmClose h f) h false us (fun s => s.ctx.gate.acq = [] ∧ mine s) closeStream
      ∧ Acts (.strmClose h f) h false us (fun s => s.ctx.gate.acq = [] ∧ ¬ mine s) id)
    ∧ (∀ (s : State) (x : Stream), s.core.eng.stream = some x → let t := closeStream s
      t.core.eng.stream = none ∧ t.charge = s.charge - (if x.charged then x.rate else 0) ∧ t.mem = s.mem
      ∧ (∀ o ∈ s.core.eng.olds, o.closed = false → o.x < 16 → (t.slot o.x).poison = some 0x0F)
      ∧ (∀ x, x < 16 → (∀ o ∈ s.core.eng.olds, o.closed = false → o.x ≠ x) → t.slot x = s.slot x)
      ∧ ∀ o ∈ t.core.eng.olds, o.closed = true)
    ∧ ∀ (f : R2) (g : R2T),
      let traps := fun (i : Instr) (long : Bool) (a : BitVec 5) (la : Bool) => ∀ s, Ready h long [useS a la] s → s.ctx.gate.acq = [] →
        let p := s.rs a
        (canonical p = false → exec i s = .next (precise 0x04 p s))
        ∧ (canonical p = true → ptrOff p % 64 ≠ 0 → exec i s = .next (precise 0x03 p s))
        ∧ (canonical p = true → ptrOff p % 64 = 0 → (∀ z, spaceSize p s = some z → ptrOff p + 64 ≤ z) →
          (ptrSpace p ≠ 0 → exec i s = .next (precise 0x07 p s))
          ∧ (ptrSpace p = 0 → s.str.timed = true → exec i s = .next (precise 0x0D p s)))
      let reads := fun (i : Instr) (long : Bool) (us : List Use) (check : State → Option Stop) (q : State → Req) => ∀ s, Ready h long us s →
        QuietUnit s → LatchFree 0 s → check s = none → allInTlb ((q s).access s) s = false →
          ∃ t, exec i s = .next t ∧ Entered h long us (q s) ((q s).access s) (resultOf (q s) s.nextId none s.gcyc true) s t
            ∧ ⟨s.gcyc + 1 + Config.walkDelay s.fresh, 4, 8 * s.core.idx + 1, .translationWalk s.core.idx s.nextId⟩ ∈ t.cal ∧ t.fresh = s.fresh + 1
      let passed := fun s : State => (s.stamp g.stamp - BitVec.ofNat 32 s.gcyc).toNat = 0 ∨ 2 ^ 31 ≤ (s.stamp g.stamp - BitVec.ofNat 32 s.gcyc).toNat
      traps (.strmChk h f) false f.a f.la ∧ traps (.strmOpen h g) true g.a g.la
      ∧ reads (.strmChk h f) false [useS f.a f.la] (strmChkCheck f)
          (fun s => plainReq (.streamRead false 0) (.load false) 64 64 (s.rs f.a) [] (some (.scalar, f.d)))
      ∧ reads (.strmOpen h g) true [useS g.a g.la] (fun s => if stampPassed (s.stamp g.stamp) s then some .hold else strmOpenCheck g s)
          (fun s => plainReq (.streamRead true (s.stamp g.stamp)) (.load false) 64 64 (s.rs g.a) [] (some (.scalar, g.d)))
      ∧ ∀ s, Ready h true [useS g.a g.la] s → s.ctx.gate.acq = [] → strmPtr (s.rs g.a) s = none → passed s →
          ∃ t, exec (.strmOpen h g) s = .next t ∧ Issued h true s t
            ∧ Scalars [useS g.a g.la] g.d (BitVec.ofNat 64 (2 ^ 63 + 0xFFFF * 2 ^ 32 + 0x0B)) s s t

/-- The weight stream: a drain takes the next block into its slot, a late block is poisoned and decoded when it has come, overflow fails the stream (R147, R148, R154, R156, R157, R158).
Which bytes a block takes that drains, or has come late, while they are read is the model's choice (log entry 34). -/
def Obligations.stream_events : Prop :=
  ∀ (k : Nat) (s : State) (x : Stream), s.core.idx = k → k < 768 → s.core.eng.stream = some x → Memory.wf s.mem = true → s.soft = [] →
    let credit := fun c : Nat => min x.total (x.rate * (c - x.start) / 16)
    let runs := fun (b : Nat) (e : TtEntry) => strmRuns x.pages (e.size / 65536 + 2)
      (x.hva + strmP x.tt.length + (x.tt.take b).foldl (fun m e => m + e.size) 0) e.size
    let filled := fun (o : OloadS) (b : Nat) (img : List Byte) (t : State) =>
      (t.slot o.x).ready = s.gcyc + 32 ∧ (t.slot o.x).tag = BitVec.ofNat 16 b ∧ (t.slot o.x).poison = none
        ∧ HoldsBytes (slotAddr s.arr.idx o.x) img t ∧ KeepsMemBut (slotAddr s.arr.idx o.x) img.length s t
    let waits := ∃ r ∈ s.core.eng.recWait, r.w1.extractLsb' 34 4 = 3
    let told := fun (code : BitVec 6) (t : State) => ∃ r, t.core.eng.recs ++ t.core.eng.recWait = s.core.eng.recs ++ s.core.eng.recWait ++ [r]
      ∧ r.w1.extractLsb' 40 6 = code
    (∃ t, exec (.streamStart k) s = .next t ∧ t = { s with cal := t.cal } ∧ ∀ d ∈ s.cal, d ∈ t.cal)
    ∧ (credit s.gcyc ≠ x.total → exec (.reservationEnd k) s = .next s)
    ∧ (credit s.gcyc = x.total → x.charged = true → ∃ t y, exec (.reservationEnd k) s = .next t ∧ t.charge = s.charge - x.rate
        ∧ t.core.eng.stream = some y ∧ y = { x with charged := false } ∧ t.mem = s.mem)
    ∧ ((∀ c, drainDue x s.core.eng.olds = some c → s.gcyc < c) → exec (.drain k) s = .next s)
    ∧ (∀ c, drainDue x s.core.eng.olds = some c → c ≤ s.gcyc → waits → ∃ t, exec (.drain k) s = .next t ∧ t.core = s.core ∧ t.mem = s.mem)
    ∧ (∀ e c, x.tt[x.next]? = some e → drainDue x s.core.eng.olds = some c → c ≤ s.gcyc → ¬ waits →
        ∃ t y, exec (.drain k) s = .next t ∧ t.core.eng.stream = some y ∧ y.next = x.next + 1 ∧ y.gone = x.gone + e.size
          ∧ y.lastD = some s.gcyc ∧ y.failed = x.failed
          ∧ ∀ o, s.core.eng.olds.find? (fun o => o.block = x.next && o.ends.isNone) = some o → o.x < 16 →
            (∀ bs img, x.gone + e.size ≤ credit s.gcyc - Config.streamLag s.fresh → strmBytes (runs x.next e) s = .ok bs →
              decodeStream x.next e bs = some img → filled o x.next img t)
            ∧ (credit s.gcyc - Config.streamLag s.fresh < x.gone + e.size → (t.slot o.x).poison = some 0x0F ∧ y.late = true ∧ t.mem = s.mem ∧ told 0x0F t))
    ∧ (∀ b, x.failed = true → exec (.streamLateDecode k b) s = .next s)
    ∧ (∀ b e d o bs img, x.failed = false → x.tt[b]? = some e →
        x.lates.find? (fun l => l.1 = b && decide (l.2.1 ≤ s.gcyc)) = some (b, d, some o) → o.x < 16 →
        strmBytes (runs b e) s = .ok bs → decodeStream b e bs = some img →
        ∃ t, exec (.streamLateDecode k b) s = .next t ∧ filled o b img t)
    ∧ ((x.failed = true ∨ s.gcyc + 1 < x.start ∨ credit (s.gcyc + 1) ≤ x.bcap + x.gone) → exec (.streamOver k) s = .next s)
    ∧ (x.failed = false → x.start ≤ s.gcyc + 1 → x.bcap + x.gone < credit (s.gcyc + 1) →
        ∃ t y, exec (.streamOver k) s = .next t ∧ t.core.eng.stream = some y ∧ y.failed = true ∧ y.overrun = true ∧ y.charged = false
          ∧ told 0x10 t ∧ t.mem = s.mem)
    ∧ (∀ id o, s.core.eng.olds = [o] → o.id = id → o.popped = false → ∃ t, exec (.oloadSComplete k id) s = .next t
        ∧ t.core.eng.olds = [{ o with popped := true }] ∧ (t.ctxNum o.second).tokens = takeTokens (s.ctxNum o.second).tokens (specPops o.spec) ∧ t.mem = s.mem ∧ t.staged = s.staged)
    ∧ (∀ id o, s.core.eng.olds = [o] → o.id = id → o.popped = true → ∀ c, o.ends = some c →
        (s.gcyc < c → exec (.oloadSComplete k id) s = .next s)
        ∧ (c ≤ s.gcyc → ∃ t, exec (.oloadSComplete k id) s = .next t ∧ t.core.eng.olds = [] ∧ t.mem = s.mem
            ∧ t.staged = s.staged ++ (match specPush o.spec with | some ch => [.push k o.second 6 ch.val (o.spec.getD 0) o.pc] | none => [])))
    ∧ ∀ (hd tt : List Byte) (sb : Nat),
      ((leNat (hd.take 4) ≠ 0x44545242 ∨ leNat ((hd.drop 4).take 2) ≠ 1) → strmWalk hd tt sb = BitVec.ofNat 64 (2 ^ 63 + 0xFFFF * 2 ^ 32 + 0x01))
      ∧ (leNat (hd.take 4) = 0x44545242 → leNat ((hd.drop 4).take 2) = 1 → (crc32c (hd.take 60 ++ tt)).toNat ≠ leNat ((hd.drop 60).take 4) →
          strmWalk hd tt sb = BitVec.ofNat 64 (2 ^ 63 + 0xFFFF * 2 ^ 32 + 0x02))

/-- MBXS queues an action, MBXR takes an observation into LOCAL, MBXQ reads the state; the status word lands after 32 cycles (R209, R210, R211, R212).
The clauses with 0x13, for a bad word of MBXS's LOCAL buffer found at issue and for an observation that holds an error, rest on R397 and are
the model's choice (log entries 19 and 24, DEDUCED); that the status word lands at the end of issue + 32 is log entry 36. -/
def Obligations.mailbox_instructions : Prop :=
  ∀ (h : Hdr) (f : R3) (g : R2),
    let us := [useS f.a f.la, useS f.b f.lb]
    let status := fun (kind seq occ code : Nat) => scalarResult f.d (BitVec.ofNat 64 (kind * 2 ^ 32 + seq * 2 ^ 16 + occ * 2 ^ 8 + code))
    let sent := fun (s t : State) (r : Landing) => Issued h false s t ∧ t.str.regs = s.str.regs ∧ KeepsMem s t
      ∧ ⟨.scalar, [r], some (s.gcyc + 32), s.gcyc, true, false, false, none, 0, none⟩ ∈ t.str.flights
    ∀ s b, s.mbox (ptrOff (s.rs f.a) / 4096) = some b → QuietUnit s → LatchFree 0 s → Ready h false us s →
      mbxCheck (s.rs f.a) (some (s.rs f.b)) s = none →
      let buf := poolAddr s.core.idx (ptrOff (s.rs f.b))
      (4 ≤ b.acts.length → ∃ t, exec (.mbxs h f) s = .next t ∧ Flies h false us .scalar 33 [status 0 0 b.acts.length 1] s t)
      ∧ (b.acts.length < 4 → (∃ j, j < 512 ∧ s.badAt (buf + j) 1 = true) → exec (.mbxs h f) s = .next (precise 0x13 (s.rs f.b) s))
      ∧ (b.acts.length < 4 → (∀ j, j < 512 → s.badAt (buf + j) 1 = false) → ∃ t e a, exec (.mbxs h f) s = .next t ∧ sent s t (status 0 0 (b.acts.length + 1) 0)
          ∧ t.mbox b.idx = some { b with acts := b.acts ++ [e] } ∧ e.id = s.nextId ∧ e.vis = s.gcyc + 32
          ∧ t.ctx.acc = [a] ∧ a.id = s.nextId ∧ a.kind = .mbxSend b.idx ∧ a.pieces = [(buf, 512)] ∧ a.p = some (s.gcyc + 1))
      ∧ (b.obs = [] → ∃ t, exec (.mbxr h f) s = .next t ∧ Flies h false us .scalar 33 [status 0 0 0 2] s t)
      ∧ (∀ e es, b.obs = e :: es → e.bad = true → exec (.mbxr h f) s = .next (precise 0x13 (s.rs f.a) s))
      ∧ (∀ e es, b.obs = e :: es → e.bad = false → ∃ t a, exec (.mbxr h f) s = .next t
          ∧ sent s t (status (e.bytes.getD 0 0).toNat (leNat ((e.bytes.drop 4).take 2)) es.length 0)
          ∧ t.mbox b.idx = some { b with obs := es }
          ∧ t.ctx.acc = [a] ∧ a.kind = .store ∧ a.data = e.bytes ∧ a.pieces = [(buf, 512)] ∧ a.p = some (s.gcyc + 31))
      ∧ (g.a = f.a → Ready h false [useS g.a g.la] s → ∃ t a, exec (.mbxq h g) s = .next t ∧ Issued h false s t ∧ t.str.regs = s.str.regs
          ∧ KeepsMem s t ∧ t.ctx.acc = [a] ∧ a.kind = .mbxQuery (ptrOff (s.rs f.a) / 4096) ∧ a.p = some (s.gcyc + 1)
          ∧ ⟨.scalar, [⟨g.d, 0, BitVec.allOnes 4096⟩], some (s.gcyc + 32), s.gcyc, true, false, false, some s.nextId, 0, none⟩ ∈ t.str.flights)

/-- STEP waits for its boundary, issues at it and blocks the strand until U; a core without the pod, free mode, a missed or misplaced stamp
trap, and a missed stamp records LATE (R327, R320). -/
def Obligations.step_instruction : Prop :=
  ∀ (h : Hdr) (f : R2T),
    let us := [useS f.a f.la]
    let delta := fun s : State => (f.stamp - BitVec.ofNat 32 s.gcyc).toNat
    let accepted := fun s : State => (s.core.idx, s.gcyc + delta s) ∈ s.pod.waiting
    let due := fun s : State => delta s = 0 ∧ accepted s
    let inside := fun s : State => ∃ x ∈ s.pod.opened, x < s.gcyc + delta s ∧ s.gcyc + delta s < x + 12288
    ∀ s, Ready h true us s →
      (s.core.domain.getLsbD 3 = false → exec (.stepPod h f) s = .next (precise 0x07 0 s))
      ∧ (s.core.domain.getLsbD 3 = true → s.str.timed = false → exec (.stepPod h f) s = .next (precise 0x0D 0 s))
      ∧ (s.core.domain.getLsbD 3 = true → s.str.timed = true →
        (¬ accepted s → (delta s = 0 ∨ 2 ^ 31 ≤ delta s) →
          exec (.stepPod h f) s = .next { precise 0x0C (f.stamp.setWidth 64) s with pod :=
            if s.pod.closed then { s.pod with nextCauses := s.pod.nextCauses ||| 0x40 } else { s.pod with causes := s.pod.causes ||| 0x40 } })
        ∧ (¬ accepted s → 0 < delta s → delta s < 2 ^ 31 → inside s → exec (.stepPod h f) s = .next (precise 0x0D 0 s))
        ∧ (0 < delta s → (accepted s ∨ delta s < 2 ^ 31 ∧ ¬ inside s) → Holds s (exec (.stepPod h f) s)
            ∧ ∀ t, exec (.stepPod h f) s = .next t → (s.core.idx, s.gcyc + delta s) ∈ t.pod.waiting ∧ s.gcyc + delta s ∈ t.pod.bounds
              ∧ s.gcyc + delta s ∈ t.pod.opened
              ∧ ⟨s.gcyc + delta s, 1, 0, .boundaryStart⟩ ∈ t.cal)
        ∧ (due s → LatchFree 0 s → ∃ t, exec (.stepPod h f) s = .next t ∧ t.verdict = .issued ∧ t.str.pc = s.str.pc + 8
            ∧ t.str.next = s.gcyc + 12288 + h.i.toNat ∧ t.str.held = false ∧ t.str.regs = s.str.regs ∧ Deaths us none s t ∧ KeepsMem s t
            ∧ t.pod = { s.pod with
                steppers := s.pod.steppers ++ [⟨s.core.idx, s.rs f.a ≠ 0, s.nextId, s.str.pc⟩]
                waiting := s.pod.waiting.filter fun w => w.1 ≠ s.core.idx }
            ∧ t.str.flights = s.str.flights
                ++ [⟨.scalar, [⟨f.d, 0, BitVec.allOnes 4096⟩], some (s.gcyc + 12287), s.gcyc, true, false, false, some s.nextId, 0, none⟩]))

/-- OCLAIM, OREL, MMODE and MZERO: claiming a slot, releasing it, changing the pair's mode and zeroing an accumulator; what holds them and what traps (R263, R265, R266, R280, R287, R399). -/
def Obligations.slots : Prop :=
  ∀ h : Hdr,
    let waits := fun (i : Instr) (s : State) =>
      (s.str.timed = false → Holds s (exec i s)) ∧ (s.str.timed = true → exec i s = .next (precise 0x0D 0 s))
    let retains := fun (r : RetCmd) (s : State) => s.mapEng fun e =>
      if e.retOver then e else if 16 ≤ e.retained.length then { e with retOver := true } else { e with retained := e.retained ++ [r] }
    let pair := fun s : State => [s.core, s.coreAt (s.core.idx ^^^ 1)]
    let cmds := fun s : State => (pair s).flatMap fun c => c.ctx.tq ++ c.shadow.tq
    (∀ f : Mx,
      let owner := fun s : State => (s.slot f.x.toNat).owner
      let mine := fun s : State => owner s = some (s.core.idx % 2)
      let named := fun s : State => (∃ c ∈ s.core.ctx.tq ++ s.core.shadow.tq, f.x.toNat ∈ c.reads) ∨ (∃ o ∈ s.core.eng.oloads, o.x = f.x.toNat)
        ∨ ∃ o ∈ s.core.eng.olds, o.x = f.x.toNat
      Acts (.oclaim h f) h false [] (fun s => owner s = none ∨ mine s)
        (fun s => s.setSlot f.x.toNat { s.slot f.x.toNat with owner := some (s.core.idx % 2) })
      ∧ (∀ s, Ready h false [] s → owner s ≠ none → ¬ mine s → waits (.oclaim h f) s)
      ∧ Acts (.orel h f) h false [] (fun s => mine s ∧ ¬ named s) (fun s => stage (.orel s.core.idx f.x.toNat) s)
      ∧ (∀ s, Ready h false [] s → mine s → named s → waits (.orel h f) s)
      ∧ ∀ s, Ready h false [] s → ¬ mine s → exec (.orel h f) s = .next (precise 0x19 0 s))
    ∧ (∀ f : Mmo, let idle := fun s : State => cmds s = [] ∧ ∀ c ∈ pair s, c.eng.oloads = []
      Acts (.mmode h f) h false [] idle (fun s => stage (.mmode s.core.idx f.mode) s)
      ∧ ∀ s, Ready h false [] s → ¬ idle s → waits (.mmode h f) s)
    ∧ ∀ f : Mz, let idle := fun s : State => (∀ c ∈ cmds s, c.z ≠ f.z.toNat) ∧ ∀ r ∈ s.core.eng.recWait, r.w1.extractLsb' 34 4 ≠ 4
      Acts (.mzero h f) h false [] idle (fun s => retains (.mzero f.z.toNat s.gcyc) (stage (.mzero s.core.idx f.z.toNat) s))
      ∧ ∀ s, Ready h false [] s → ¬ idle s → waits (.mzero h f) s

/-- OLOAD, OLOAD.S, MDRAIN and MRES: a load, stream load, drain or resume is accepted with its slot or position record, waits or traps where its conditions fail, and its refusals are precise traps (R156, R158, R267, R275, R276, R279, R43).
That MRES of an image whose record holds an uncorrectable word takes 0x13 rests on R397 and is the model's choice (log entry 24, DEDUCED). -/
def Obligations.matrix_loads : Prop :=
  ∀ h : Hdr,
    let kUse := fun k : BitVec 3 => if k = 0 then [] else [useS (BitVec.ofNat 5 (24 + k.toNat))]
    let spec := fun (k : BitVec 3) (s : State) => if k = 0 then none else some (s.rs (BitVec.ofNat 5 (24 + k.toNat)))
    let mine := fun (x : Nat) (s : State) => (s.slot x).owner = some (s.core.idx % 2)
    let there := fun (k : BitVec 3) (s : State) => tokensThere (takeTokens s.ctx.tokens (copyPops s)) (specPops (spec k s)) = true
    let clear := fun s : State => ∀ r ∈ s.core.eng.recWait, r.w1.extractLsb' 34 4 ≠ 4
    let waits := fun (code : BitVec 6) (tval : Word) (i : Instr) (s : State) =>
      (s.str.timed = false → Holds s (exec i s)) ∧ (s.str.timed = true → exec i s = .next (precise code tval s))
    let goes := fun (long : Bool) (us : List Use) (s t : State) => Issued h long s t ∧ t.str.regs = s.str.regs ∧ Deaths us none s t
      ∧ KeepsMem s t ∧ t.ctx.tokens = s.ctx.tokens ∧ t.nextId = s.nextId + 1
    (∀ f : Mo, let us := useS f.g :: kUse f.k
      let p := fun s : State => s.rs f.g
      let len := 64 * f.len.toNat
      (∀ s, Ready h true us s → mine f.x.toNat s → stepFault .localOnly 64 len false (p s) s = none →
        (∀ o ∈ s.core.eng.oloads, o.c + (o.len + 511) / 512 ≤ s.gcyc) → clear s → there f.k s →
        ∃ t, exec (.oload h f) s = .next t ∧ goes true us s t
          ∧ t.core.eng.oloads = s.core.eng.oloads ++ [⟨s.nextId, s.str.pc, s.core.second, f.x.toNat, poolAddr s.core.idx (ptrOff (p s)), len, s.gcyc,
              spec f.k s, 0, []⟩]
          ∧ t.staged = s.staged ++ [.slotRec s.core.idx f.x.toNat (s.gcyc + (len + 511) / 512 + 4) f.tag]
          ∧ ⟨s.gcyc, 4, 8 * s.core.idx + 4, .oloadComplete s.core.idx s.nextId⟩ ∈ t.cal)
      ∧ (∀ s, Ready h true us s → ¬ mine f.x.toNat s → exec (.oload h f) s = .next (precise 0x19 0 s))
      ∧ (∀ s c, Ready h true us s → mine f.x.toNat s → stepFault .localOnly 64 len false (p s) s = some c →
          exec (.oload h f) s = .next (precise c.2 (p s) s))
      ∧ ∀ s, Ready h true us s → mine f.x.toNat s → stepFault .localOnly 64 len false (p s) s = none →
          let beats := ∃ o ∈ s.core.eng.oloads, s.gcyc < o.c + (o.len + 511) / 512
          ((beats ∨ ¬ clear s) → waits 0x0D 0 (.oload h f) s) ∧ (¬ beats → clear s → ¬ there f.k s → waits 0x09 0 (.oload h f) s))
    ∧ (∀ f : Ms, let us := useS f.g :: kUse f.k
      (∀ s x b, Ready h true us s → s.core.eng.stream = some x → x.handle = s.rs f.g → mine f.x.toNat s → strmNext x = some b → x.failed = false →
        f.stamp = BitVec.ofNat 32 (blockCycle x b) → (s.str.timed = true → stampPassed f.stamp s = false) → s.core.eng.olds.length < 8 →
        tokensThere (chiselTokens s) (specPops (spec f.k s)) = true →
        ∃ t o ready, exec (.oloadS h f) s = .next t ∧ goes true us s t ∧ t.core.eng.olds = s.core.eng.olds ++ [o] ∧ o.id = s.nextId
          ∧ o.x = f.x.toNat ∧ o.block = b ∧ o.due = blockCycle x b ∧ o.spec = spec f.k s ∧ o.ends = none ∧ o.popped = false
          ∧ o.early = s.gcyc + 1 ∧ ⟨s.gcyc, 4, 8 * s.core.idx + 6, .oloadSComplete s.core.idx s.nextId⟩ ∈ t.cal
          ∧ t.core.eng.stream = some { x with taken := x.taken + 1 }
          ∧ t.staged = s.staged ++ [.slotRec s.core.idx f.x.toNat ready (BitVec.ofNat 16 b)])
      ∧ (∀ s, Ready h true us s → (∀ x, s.core.eng.stream = some x → x.handle ≠ s.rs f.g) →
          exec (.oloadS h f) s = .next (precise 0x07 (s.rs f.g) s))
      ∧ (∀ s x, Ready h true us s → s.core.eng.stream = some x → x.handle = s.rs f.g → ¬ mine f.x.toNat s →
          exec (.oloadS h f) s = .next (precise 0x19 0 s))
      ∧ ∀ s x, Ready h true us s → s.core.eng.stream = some x → x.handle = s.rs f.g → mine f.x.toNat s →
          let stamp := f.stamp.setWidth 64
          let tokens := tokensThere (chiselTokens s) (specPops (spec f.k s)) = true
          let late := s.str.timed = true ∧ stampPassed f.stamp s = true
          ((∀ b, strmNext x = some b → f.stamp ≠ BitVec.ofNat 32 (blockCycle x b)) → exec (.oloadS h f) s = .next (precise 0x0D stamp s))
          ∧ ∀ b, strmNext x = some b → f.stamp = BitVec.ofNat 32 (blockCycle x b) →
            (late → exec (.oloadS h f) s = .next (precise 0x0C stamp s))
            ∧ (¬ late → 8 ≤ s.core.eng.olds.length → waits 0x0D stamp (.oloadS h f) s)
            ∧ (¬ late → s.core.eng.olds.length < 8 → ¬ tokens → waits 0x09 0 (.oloadS h f) s)
            ∧ (¬ late → s.core.eng.olds.length < 8 → tokens → x.failed = true → ∃ t, exec (.oloadS h f) s = .next t ∧ goes true us s t
                ∧ (t.slot f.x.toNat).poison = some 0x10
                ∧ ∃ o ∈ t.core.eng.olds, o.id = s.nextId ∧ o.ends = some (max s.gcyc (blockCycle x b + 32))))
    ∧ (∀ f : Md, let us := useS f.g :: kUse f.k
      let off := fun s : State => (s.rs f.g).toNat % 2 ^ 32
      let room := fun s : State => off s < 65536 * partRB4 s.core.partw
      (∀ s, Ready h false us s → off s % 65536 = 0 → room s → (∀ c ∈ s.pairCmds, c.z ≠ f.z.toNat) → clear s → there f.k s →
        ∃ t, exec (.mdrain h f) s = .next t ∧ goes false us s t
          ∧ t.core.eng.drains = s.core.eng.drains ++ [⟨s.nextId, s.str.pc, s.core.second, f.z.toNat, off s / 65536, s.gcyc, spec f.k s, []⟩]
          ∧ t.staged = s.staged ++ [.rbrec s.core.idx (off s / 65536) (s.gcyc + 40) ((s.rs f.g).extractLsb' 32 16) f.z.toNat s.nextId]
          ∧ ⟨s.gcyc, 4, 8 * s.core.idx + 4, .mdrainComplete s.core.idx s.nextId⟩ ∈ t.cal
          ∧ ⟨s.gcyc + 39, 9, s.core.idx, .mdrainComplete s.core.idx s.nextId⟩ ∈ t.cal)
      ∧ ∀ s, Ready h false us s → (off s % 65536 ≠ 0 → exec (.mdrain h f) s = .next (precise 0x03 (s.rs f.g) s))
        ∧ (off s % 65536 = 0 → ¬ room s → exec (.mdrain h f) s = .next (precise 0x05 (s.rs f.g) s))
        ∧ (off s % 65536 = 0 → room s → let busy := ∃ c ∈ s.pairCmds, c.z = f.z.toNat
            ((busy ∨ ¬ clear s) → waits 0x0D 0 (.mdrain h f) s) ∧ (¬ busy → clear s → ¬ there f.k s → waits 0x09 0 (.mdrain h f) s)))
    ∧ ∀ f : Mzg, let us := [useS f.g]
      let img := fun s : State => imageCmd (s.peek (poolAddr s.core.idx (ptrOff (s.rs f.g) + 65536)) 64) f.z.toNat s
      let whole := fun s : State => s.badAt (poolAddr s.core.idx (ptrOff (s.rs f.g) + 65536)) 64 = false
      (∀ s c, Ready h false us s → s.str.timed = false → stepFault .localOnly 64 65600 false (s.rs f.g) s = none → whole s → img s = some c →
        (∀ x ∈ c.reads, mine x s) → modeAdmits s = true → s.ctx.tq.length < 4 → clear s →
        ∃ t, exec (.mres h f) s = .next t ∧ Issued h false s t ∧ t.str.regs = s.str.regs ∧ Deaths us none s t ∧ KeepsMem s t
          ∧ t.ctx.tq = s.ctx.tq ++ [c] ∧ c.target = s.gcyc + 130
          ∧ t.core.eng.mres = s.core.eng.mres ++ [(s.gcyc, poolAddr s.core.idx (ptrOff (s.rs f.g)), [], c)])
      ∧ ∀ s, Ready h false us s → (s.str.timed = true → exec (.mres h f) s = .next (precise 0x0D 0 s))
        ∧ (∀ c, s.str.timed = false → stepFault .localOnly 64 65600 false (s.rs f.g) s = some c →
            exec (.mres h f) s = .next (precise c.2 (s.rs f.g) s))
        ∧ (s.str.timed = false → stepFault .localOnly 64 65600 false (s.rs f.g) s = none →
          (¬ whole s → exec (.mres h f) s = .next (precise 0x13 (s.rs f.g) s))
          ∧ (whole s → img s = none → exec (.mres h f) s = .next (precise 0x07 (s.rs f.g) s))
          ∧ ∀ c, whole s → img s = some c → ((∃ x ∈ c.reads, ¬ mine x s) → exec (.mres h f) s = .next (precise 0x19 0 s))
            ∧ ((∀ x ∈ c.reads, mine x s) → modeAdmits s = false → exec (.mres h f) s = .next (precise 0x1A 0 s))
            ∧ ((∀ x ∈ c.reads, mine x s) → modeAdmits s = true → 4 ≤ s.ctx.tq.length ∨ ¬ clear s → Holds s (exec (.mres h f) s)))

/-- MMA, MMAP and MMAPT take the first format word into a command of the half's queue; MSTAT reads the half; the traps 0x0B, 0x01, 0x19, 0x1A, 0x0C (R268, R270, R271, R262, R281, R43). -/
def Obligations.tile_commands : Prop :=
  ∀ h : Hdr,
    (∀ f : Mm, let us := if f.k = 0 then [] else [useS (BitVec.ofNat 5 (24 + f.k.toNat))]
      let mine := fun (x : Nat) (s : State) => (s.slot x).owner = some (s.core.idx % 2)
      let claimed := fun (w : BitVec 128) (s : State) => mine f.x.toNat s ∧ mine f.y.toNat s
        ∧ (w.getLsbD 6 = true → mine (w.extractLsb' 2 4).toNat s) ∧ (w.getLsbD 11 = true → mine (w.extractLsb' 7 4).toNat s)
      let admitted := fun s : State => modeAdmits s = true ∧ belongs s.arr.mmode s.half (tileTarget f.stamp s) = true
      let delta := fun s : State => (s.stamp f.stamp - BitVec.ofNat 32 s.gcyc).toNat
      let ahead := fun s : State => 1 ≤ delta s ∧ delta s < 2 ^ 31
      ∀ (kind : Nat) (i : Instr), (kind, i) ∈ [(0, .mma h f), (1, .mmap h f), (2, .mmapt h f)] → ∀ s, Ready h true us s →
        (s.ctx.fq = [] → exec i s = .next (precise 0x0B 0 s))
        ∧ ∀ w ws, s.ctx.fq = w :: ws →
          (fwValid kind w = false → exec i s = .next (precise 0x01 (f.stamp ++ s.word) s))
          ∧ (fwValid kind w = true →
            (¬ claimed w s → exec i s = .next (precise 0x19 0 s))
            ∧ (claimed w s → ¬ admitted s → exec i s = .next (precise 0x1A 0 s))
            ∧ (claimed w s → admitted s → s.str.timed = true → ¬ ahead s → exec i s = .next (precise 0x0C (f.stamp.setWidth 64) s))
            ∧ (claimed w s → admitted s → (s.str.timed = true → ahead s) →
              (4 ≤ s.ctx.tq.length → (s.str.timed = false → Holds s (exec i s)) ∧ (s.str.timed = true → exec i s = .next (precise 0x0D 0 s)))
              ∧ (s.ctx.tq.length < 4 → ∃ t c, exec i s = .next t ∧ Issued h true s t ∧ t.str.regs = s.str.regs ∧ Deaths us none s t ∧ KeepsMem s t
                ∧ t.ctx.tokens = s.ctx.tokens ∧ t.ctx.fq = ws ∧ t.ctx.tq = s.ctx.tq ++ [c] ∧ t.arr = s.arr
                ∧ c.id = s.nextId ∧ c.kind = kind ∧ c.z = f.z.toNat ∧ c.x = f.x.toNat ∧ c.y = f.y.toNat ∧ c.fw = w
                ∧ c.spec = (if f.k = 0 then none else some (s.rs (BitVec.ofNat 5 (24 + f.k.toNat)))) ∧ c.start = none ∧ c.kfrom = 0
                ∧ c.target = tileTarget f.stamp s ∧ (s.str.timed = true → c.target = s.gcyc + delta s)
                ∧ ⟨c.target, 4, 8 * s.core.idx + 5, .tileStart s.core.idx⟩ ∈ t.cal
                ∧ (s.core.eng.retOver = false → s.core.eng.retained.length < 16 → t.core.eng.retained = s.core.eng.retained ++ [.tile c])))))
    ∧ ∀ f : Mg, ∀ s, Ready h false [] s → ∃ t v, exec (.mstat h f) s = .next t ∧ Issued h false s t ∧ Scalars [] f.g v s s t
      ∧ (s.ctx.fq.length ≤ 16 → s.ctx.tq.length ≤ 4 → kdone s ≤ 128 →
          (∀ x, x < 16 → v.getLsbD (48 + x) = ((s.slot x).owner = some (s.core.idx % 2) : Bool) ∧ v.getLsbD (32 + x) = (s.slot x).poison.isSome)
          ∧ (v.extractLsb' 16 8).toNat = kdone s ∧ v.extractLsb' 13 3 = s.arr.mmode
          ∧ (v.extractLsb' 8 5).toNat = s.ctx.fq.length ∧ (v.extractLsb' 5 3).toNat = s.ctx.tq.length)

/-- The array half: commands start when slots, half and tokens are ready, leave their sums at completion; loads fill slots, drains positions, stops write images; faults are redone after a slip, or escalate (R267, R272, R273, R274, R275, R276, R279, R349, R360, R400, R401, R402).
That a command that faults at its start leaves its accumulator as it was, where R272 and R400 differ, is the model's choice (log entry 25,
DEDUCED), and so is that one whose entry of the queue holds a parity error faults at its start with 0x13 (log entry 24, DEDUCED). -/
def Obligations.matrix_events : Prop :=
  (∀ (k : Nat) (s : State), s.core.idx = k → k < 768 → Memory.wf s.mem = true → s.soft = [] → s.bad = [] →
    let pushed := fun (spec : Option Word) (pc : Nat) (second : Bool) => (match specPush spec with
      | some ch => [Staged.push k second 5 ch.val (spec.getD 0) pc] | none => [])
    let clear := ∀ r ∈ s.core.eng.recWait, r.w1.extractLsb' 34 4 ≠ 4
    (∀ c, s.core.eng.stop = none → s.core.eng.stopped = none → s.core.shadow.handler ≠ .switched s.gcyc → s.ctx.tq = [c] → c.start = none →
      c.second = s.core.second → (∀ q ∈ s.arr.runs, q.away = true → c.resumes ≠ some q.cmd.id) →
      let takes := fun (code : BitVec 6) => ∃ t, exec (.tileCommandStart k) s = .next t ∧ t.ctx.tq = []
        ∧ t.core.eng.aflt = s.core.eng.aflt ++ [(s.gcyc + 1, code, c)] ∧ ⟨s.gcyc + 1, 2, k, .replay k⟩ ∈ t.cal ∧ t.arr = s.arr ∧ t.mem = s.mem
      (s.gcyc < c.target → ∃ t, exec (.tileCommandStart k) s = .next t ∧ t = { s with cal := t.cal })
        ∧ (c.target ≤ s.gcyc → c.hurt = true → takes 0x13)
        ∧ (c.target ≤ s.gcyc → c.hurt = false → (c.timed = true → s.gcyc = c.target) → (∀ x ∈ c.reads, (s.slot x).poison = none ∧ (s.slot x).ready ≤ s.gcyc) → clear → freeFrom s ≤ s.gcyc →
            (c.pops = true → tokensThere s.ctx.tokens (specPops c.spec) = true) → belongs s.arr.mmode s.half s.gcyc = true →
            ∃ t d r, exec (.tileCommandStart k) s = .next t ∧ t.mem = s.mem ∧ t.ctx.tq = [d] ∧ d.start = some s.gcyc ∧ d.id = c.id
              ∧ d.last = lastStep s.arr.mmode c s.gcyc ∧ t.ctx.tokens = (if c.pops then takeTokens s.ctx.tokens (specPops c.spec) else s.ctx.tokens)
              ∧ t.arr.runs = s.arr.runs ++ [r] ∧ r.cmd = d ∧ r.half = k % 2 ∧ r.xb = memBytes s.mem (slotAddr s.arr.idx c.x) 32768
              ∧ r.yb = memBytes s.mem (slotAddr s.arr.idx c.y) 32768 ∧ ⟨d.last + 12, 9, k, .tileComplete k c.id⟩ ∈ t.cal)
        ∧ (∀ p, c.target ≤ s.gcyc → c.hurt = false → poisonOf c s = some p → takes p)
        ∧ (c.timed = true → c.target ≤ s.gcyc → c.hurt = false → poisonOf c s = none →
            let held := c.target < s.gcyc ∨ ¬ clear ∨ s.gcyc < freeFrom s ∨ ∃ x ∈ c.reads, s.gcyc < (s.slot x).ready
            (held → takes 0x0C)
            ∧ (¬ held → c.pops = true → tokensThere s.ctx.tokens (specPops c.spec) = false → takes 0x09)))
    ∧ (∀ id r, s.arr.runs = [r] → r.cmd.id = id → s.gcyc < r.cmd.last + 12 → exec (.tileCommandComplete k id) s = .next s)
    ∧ (∀ id r, s.core.eng.stop = none → s.arr.runs = [r] → r.cmd.id = id → r.cmd.last + 12 ≤ s.gcyc → r.spoil = none → r.finished = false →
      r.away = false → r.given = false → r.upTo = none →
        let out := r.result (32 * ((r.cmd.fw.extractLsb' 20 2).toNat + 1)) (memBytes s.mem (accAddr s.arr.idx r.cmd.z) 65536)
        ∃ t, exec (.tileCommandComplete k id) s = .next t ∧ t.arr.runs = [] ∧ HoldsBytes (accAddr s.arr.idx r.cmd.z) out t
          ∧ KeepsMemBut (accAddr s.arr.idx r.cmd.z) 65536 s t ∧ t.staged = s.staged ++ pushed r.cmd.spec r.cmd.pc r.cmd.second)
    ∧ (∀ id o, s.core.eng.oloads = [o] → o.id = id → let b := (o.len + 511) / 512
        (s.gcyc = o.c → ∃ t, exec (.oloadComplete k id) s = .next t ∧ t.core.eng.oloads = [o] ∧ t.mem = s.mem ∧ t.staged = s.staged
          ∧ (t.ctxNum o.second).tokens = takeTokens (s.ctxNum o.second).tokens (specPops o.spec))
        ∧ (o.done < b → s.gcyc = o.c + 1 + o.done → ∃ t, exec (.oloadComplete k id) s = .next t ∧ t.mem = s.mem
          ∧ t.core.eng.oloads = [{ o with done := o.done + 1, bytes := o.bytes ++ memBytes s.mem (o.src + 512 * o.done) (min 512 (o.len - 512 * o.done)) }])
        ∧ (o.c + b + 3 ≤ s.gcyc → o.bytes.length = o.len → o.len ≤ 32768 → ∃ t, exec (.oloadComplete k id) s = .next t ∧ t.core.eng.oloads = []
          ∧ HoldsBytes (slotAddr s.arr.idx o.x) (o.bytes ++ List.replicate (32768 - o.len) 0) t ∧ KeepsMemBut (slotAddr s.arr.idx o.x) 32768 s t
          ∧ t.staged = s.staged ++ pushed o.spec o.pc o.second))
    ∧ (∀ id d, s.core.eng.drains = [d] → d.id = id → s.gcyc = d.c →
        ∃ t, exec (.mdrainComplete k id) s = .next t ∧ t.core.eng.drains = [d] ∧ t.mem = s.mem ∧ t.staged = s.staged
          ∧ (t.ctxNum d.second).tokens = takeTokens (s.ctxNum d.second).tokens (specPops d.spec))
    ∧ (∀ id d, s.core.eng.drains = [d] → d.id = id → s.gcyc ≠ d.c → d.data.length = 65536 →
        let dst := poolAddr k (resultBase s.core.partw + 65536 * d.pos)
        ∃ t, exec (.mdrainComplete k id) s = .next t ∧ t.core.eng.drains = [] ∧ HoldsBytes dst d.data t ∧ KeepsMemBut dst 65536 s t
          ∧ t.staged = s.staged ++ pushed d.spec d.pc d.second)
    ∧ (∀ id c base bs d, s.core.eng.mres = [(c, base, bs, d)] → d.id = id →
        (s.gcyc < c + 129 → ∃ t, exec (.mresImageRead k id) s = .next t ∧ t.mem = s.mem
          ∧ t.core.eng.mres = [(c, base, bs ++ memBytes s.mem (base + bs.length) 512, d)])
        ∧ (c + 129 ≤ s.gcyc → ∃ t, exec (.mresImageRead k id) s = .next t ∧ t.core.eng.mres = []
          ∧ HoldsBytes (accAddr s.arr.idx d.z) bs t ∧ KeepsMemBut (accAddr s.arr.idx d.z) bs.length s t))
    ∧ (∀ id due kd c, s.core.eng.stop = some (due, kd, c) → s.gcyc + 128 < due → exec (.stopImageWrite k id) s = .next s)
    ∧ (∀ due kd c r, s.core.eng.stop = some (due, kd, c) → s.arr.runs = [r] → r.cmd = c → r.spoil = none → r.given = false → r.upTo = some kd →
        let base := poolAddr k (64 * (s.core.trapbase.extractLsb' 40 24).toNat)
        let beat := fun (j : Nat) (img : List Byte) => ∃ t, exec (.stopImageWrite k c.id) s = .next t ∧ t.core.eng.stop = s.core.eng.stop ∧ t.arr = s.arr
          ∧ t.core.eng.img = img ∧ HoldsBytes (base + 512 * j) ((img.drop (512 * j)).take 512) t ∧ KeepsMemBut (base + 512 * j) 512 s t
        (s.gcyc + 128 = due → s.core.eng.img = [] → beat 0 (stopImage c kd (r.result kd (memBytes s.mem (accAddr s.arr.idx c.z) 65536))))
        ∧ ∀ j, 0 < j → j < 128 → s.gcyc + 128 = due + j → s.core.eng.img ≠ [] → beat j s.core.eng.img)
    ∧ (∀ due kd c r, s.core.eng.stop = some (due, kd, c) → due ≤ s.gcyc → s.arr.runs = [r] → r.cmd.id = c.id →
        ∃ t, exec (.stopImageWrite k c.id) s = .next t ∧ t.core.eng.stop = none ∧ t.arr.runs = []
          ∧ (s.core.second ≠ c.second → t.core.eng.stopped = some c)
          ∧ (s.core.second = c.second → clear → t.core.eng.stopped = none ∧ ∃ m, t.core.eng.mres = s.core.eng.mres ++ [m]))
    ∧ (let first := (s.core.eng.retained.head?.map RetCmd.cycle).getD s.gcyc
      let slip := if 2 ≤ s.arr.mmode.toNat ∧ s.arr.mmode.toNat ≤ 6 then
          let w := 2 ^ (s.arr.mmode.toNat + 2); (s.gcyc - first + 2 * w - 1) / (2 * w) * (2 * w)
        else s.gcyc - first
      let absorbed := fun c : TileCmd => s.ctx.m.timed = true
        ∧ (∃ g, s.core.seg = some g ∧ slip + s.core.slip ≤ 32 * (g.word.extractLsb' 16 5).toNat)
        ∧ s.core.eng.retOver = false ∧ (∃ t, .tile t ∈ s.core.eng.retained ∧ t.id = c.id) ∧ windowReads s.core.eng.retained [] = true
        ∧ redoRuns s = false ∧ c.redone = false
      let unlogged := s.svc.physLog = none ∧ (s.vf s.vfOf).errq = none
      let noFault := ∀ r ∈ s.arr.runs, r.flt = none
      let alone := ∀ r ∈ s.arr.runs, r.finished = false
      let escalated := fun (code : BitVec 6) (c : TileCmd) (t : State) =>
        t.core.deferred = some ⟨code, c.stamp.setWidth 64, .M, true⟩ ∧ (∀ d ∈ t.ctx.tq, d.id ≠ c.id)
        ∧ ∃ r, t.core.eng.recs ++ t.core.eng.recWait = s.core.eng.recs ++ s.core.eng.recWait ++ [r] ∧ r.w0 = c.stamp.setWidth 64
          ∧ r.w1.extractLsb' 40 6 = code ∧ r.w1.extractLsb' 0 32 = BitVec.ofNat 32 c.pc
      (s.core.eng.redo = [] → s.core.eng.aflt = [] → noFault → exec (.replay k) s = .next s)
      ∧ (∀ z c, s.core.eng.redo = [(s.gcyc, .mzero z c, none, 0)] → s.core.eng.aflt = [] → noFault →
          ∃ t, exec (.replay k) s = .next t ∧ t.core.eng.redo = [] ∧ t.staged = s.staged ++ [.mzero k z] ∧ t.mem = s.mem)
      ∧ (∀ p c, s.core.eng.redo = [] → s.core.eng.aflt = [(s.gcyc, p, c)] → noFault → absorbed c →
          ∃ t, exec (.replay k) s = .next t ∧ t.core.replay = some (s.gcyc, slip) ∧ t.core.slip = s.core.slip + slip ∧ t.core.eng.aflt = []
            ∧ (∀ st, (t.ctx.strand st).next = max (s.ctx.strand st).next s.gcyc + slip ∧ (t.ctx.strand st).pc = (s.ctx.strand st).pc
                ∧ (t.ctx.strand st).regs = (s.ctx.strand st).regs)
            ∧ (∃ d ∈ t.ctx.tq, d.id = c.id ∧ d.redone = true ∧ d.start = none) ∧ t.ctx.fq = s.ctx.fq ∧ t.core.deferred = s.core.deferred
            ∧ (unlogged → alone → t.mem = s.mem))
      ∧ (∀ p c, s.core.eng.redo = [] → s.core.eng.aflt = [(s.gcyc, p, c)] → noFault → ¬ absorbed c → c.second = s.core.second →
          s.core.deferred = none → ∃ t, exec (.replay k) s = .next t ∧ escalated p c t ∧ t.core.eng.aflt = []
            ∧ t.ctx.fq = (if c.pops then c.fw :: s.ctx.fq else s.ctx.fq) ∧ (unlogged → alone → t.mem = s.mem))
      ∧ ∀ r x, s.core.eng.redo = [] → s.core.eng.aflt = [] → s.arr.runs = [r] → r.half = s.half → r.flt = some x → x + 1 = s.gcyc →
          ¬ absorbed r.cmd → r.cmd.second = s.core.second → s.core.deferred = none →
          ∃ t, exec (.replay k) s = .next t ∧ escalated 0x13 r.cmd t ∧ t.arr.runs = [] ∧ t.ctx.fq = s.ctx.fq
            ∧ (unlogged → r.cmd.z < 8 → KeepsMemBut (accAddr s.arr.idx r.cmd.z) 65536 s t)))
  ∧ ∀ (r : TileRun) (kto i j : Nat) (old : List Byte), i < 128 → j < 128 → r.cmd.kfrom ≤ kto →
    let fw := r.cmd.fw
    let fA := (fw.extractLsb' 12 4).toNat
    let fB := (fw.extractLsb' 16 4).toNat
    let n := 4 * (128 * i + j)
    let code := fun (fm : Nat) (bs : List Byte) (q : Nat) => leNat bs / 2 ^ (typeWidth fm * q) % 2 ^ typeWidth fm
    let entry := fun (bs : List Byte) (g : Nat) => leNat ((bs.drop (0x6000 + 4 * g)).take 4)
    let value := fun (fm x z : Nat) => if fm = 10 ∨ fm = 11 then Machine.Num.ofInt ((x : Int) - z) else elemNum fm x
    let scale := fun (fm e : Nat) => if e / 4096 % 4096 ≠ 0 ∨ (fm = 10 ∧ 15 < e / 2 ^ 24) ∨ (fm ≠ 10 ∧ fm ≠ 11 ∧ e / 2 ^ 24 ≠ 0) then none
      else scaleNum (e % 4096)
    let sA := fun m => if fw.getLsbD 6 then scale fA (entry r.asb (4 * i + m / 32)) else some (.fin false 1 0)
    let sB := fun m => if fw.getLsbD 11 then scale fB (entry r.bsb (4 * j + m / 32)) else some (.fin false 1 0)
    let a := fun k m => value fA (code fA r.xb (128 * i + k)) (if fw.getLsbD 6 then entry r.asb (4 * i + m / 32) / 2 ^ 24 else 0)
    let b := fun k m =>
      let q := if r.cmd.kind = 2 then 128 * k + j else 128 * j + k
      if fB = 13 then Machine.Num.ofBits .bf16 (bp12Weight (code fB r.yb q)
        (patinaE (fw.extractLsb' 32 32) (fw.extractLsb' 64 32) (fw.extractLsb' 24 8) (fw.extractLsb' 96 32 + BitVec.ofNat 32 q)))
      else value fB (code fB r.yb q) (if fw.getLsbD 11 then entry r.bsb (4 * j + m / 32) / 2 ^ 24 else 0)
    let term := fun m => match sA m, sB m with
      | some x, some y => (match ((Machine.Num.sum ((List.range 16).map fun d => (a (m + d) m).mul (b (m + d) m))).mul x).mul y with
        | .fin neg q e => if q = 0 then Machine.Num.fin false 0 0 else .fin neg q e
        | z => z)
      | _, _ => .nan
    typeWidth fA ≤ 16 → typeWidth fB ≤ 16 → ∃ acc : Nat → Nat,
      acc 0 = (if fw.getLsbD 22 ∨ r.cmd.acc1 = true then leNat ((old.drop n).take 4) else 0)
      ∧ (∀ g, acc (g + 1) = Machine.Num.round .rne .f32 ((Machine.Num.ofBits .f32 (acc g)).add (term (r.cmd.kfrom + 16 * g))))
      ∧ leNat (((r.result kto old).drop n).take 4) = acc ((kto - r.cmd.kfrom) / 16)

/-- VADD, VSUB, VMUL, VMIN, VMAX, VABS and VNEG at the integer types: the lanes, their wrapping and saturation, latency 2 (R222, R217, R220, R121, R64). -/
def Obligations.vector_integers : Prop :=
  ∀ h : Hdr,
    (∀ f : V3t, let us := [useV f.va f.la, useV f.vb f.lb, useP f.pg]
      let exact := fun (i : Instr) (w : Nat) (x : Int → Int → Int) => LanesLater i h us w 2 f.vd (fun s => s.rp f.pg) fun s n =>
        let e := x (laneB w (s.rv f.va) n).toInt (laneB w (s.rv f.vb) n).toInt
        (BitVec.ofInt w (if f.t then clampS w e else e)).toNat
      let reads := fun {w : Nat} (x : BitVec w) => if f.t then (x.toNat : Int) else x.toInt
      let pick := fun (i : Instr) (w : Nat) (first : Int → Int → Bool) => LanesLater i h us w 2 f.vd (fun s => s.rp f.pg) fun s n =>
        let a := laneB w (s.rv f.va) n
        let b := laneB w (s.rv f.vb) n
        if first (reads a) (reads b) then a.toNat else b.toNat
      exact (.vaddI8 h f) 8 (· + ·)
      ∧ exact (.vaddI16 h f) 16 (· + ·)
      ∧ exact (.vaddI32 h f) 32 (· + ·)
      ∧ exact (.vsubI8 h f) 8 (· - ·)
      ∧ exact (.vsubI16 h f) 16 (· - ·)
      ∧ exact (.vsubI32 h f) 32 (· - ·)
      ∧ exact (.vmulI8 h f) 8 (· * ·)
      ∧ exact (.vmulI16 h f) 16 (· * ·)
      ∧ exact (.vmulI32 h f) 32 (· * ·)
      ∧ pick (.vminI8 h f) 8 (fun x y => decide (x ≤ y))
      ∧ pick (.vminI16 h f) 16 (fun x y => decide (x ≤ y))
      ∧ pick (.vminI32 h f) 32 (fun x y => decide (x ≤ y))
      ∧ pick (.vmaxI8 h f) 8 (fun x y => decide (y ≤ x))
      ∧ pick (.vmaxI16 h f) 16 (fun x y => decide (y ≤ x))
      ∧ pick (.vmaxI32 h f) 32 (fun x y => decide (y ≤ x)))
    ∧ ∀ f : VUt,
      let exact := fun (i : Instr) (w : Nat) (x : Int → Int) => LanesLater i h [useV f.va f.la, useP f.pg] w 2 f.vd (fun s => s.rp f.pg) fun s n =>
        let e := x (laneB w (s.rv f.va) n).toInt
        (BitVec.ofInt w (if f.t then clampS w e else e)).toNat
      exact (.vabsI8 h f) 8 (fun x => (x.natAbs : Int))
      ∧ exact (.vabsI16 h f) 16 (fun x => (x.natAbs : Int))
      ∧ exact (.vabsI32 h f) 32 (fun x => (x.natAbs : Int))
      ∧ exact (.vnegI8 h f) 8 (fun x => -x)
      ∧ exact (.vnegI16 h f) 16 (fun x => -x)
      ∧ exact (.vnegI32 h f) 32 (fun x => -x)

/-- The bf16 and f32 forms of VADD, VSUB, VMUL, VFMA, VNFMA, VFMS, VMIN, VMAX, VABS and VNEG: one rounding, NaN and the zeros (R223, R224, R225, R217, R220, R140). -/
def Obligations.vector_floats : Prop :=
  ∀ h : Hdr,
    (∀ f : V3, let us := [useV f.va f.la, useV f.vb f.lb, useP f.pg]
      let num := fun (fm : FloatFmt) (v : VReg) (n : Nat) => Machine.Num.ofBits fm (lane fm.width v n)
      let two := fun (i : Instr) (fm : FloatFmt) (lat : Nat) (x : Machine.Num → Machine.Num → Nat) => LanesLater i h us fm.width lat f.vd (fun s => s.rp f.pg) fun s n =>
        x (num fm (s.rv f.va) n) (num fm (s.rv f.vb) n)
      let fused := fun (i : Instr) (fm : FloatFmt) (x : Machine.Num → Machine.Num → Machine.Num) => LanesLater i h [useV f.va f.la, useV f.vb f.lb, useV f.vd, useP f.pg] fm.width 4 f.vd (fun s => s.rp f.pg) fun s n =>
        Machine.Num.round .rne fm (x ((num fm (s.rv f.va) n).mul (num fm (s.rv f.vb) n)) (num fm (s.rv f.vd) n))
      let pick := fun (i : Instr) (fm : FloatFmt) (first : Machine.Num → Machine.Num → Bool) => LanesLater i h us fm.width 2 f.vd (fun s => s.rp f.pg) fun s n =>
        let a := lane fm.width (s.rv f.va) n
        let b := lane fm.width (s.rv f.vb) n
        let x := num fm (s.rv f.va) n
        let y := num fm (s.rv f.vb) n
        if x = .nan ∧ y = .nan then fm.nan else if x = .nan then b else if y = .nan then a else if first x y then a else b
      two (.vaddBf16 h f) .bf16 4 (fun x y => Machine.Num.round .rne .bf16 (x.add y))
      ∧ two (.vsubBf16 h f) .bf16 4 (fun x y => Machine.Num.round .rne .bf16 (x.add y.neg))
      ∧ two (.vmulBf16 h f) .bf16 4 (fun x y => Machine.Num.round .rne .bf16 (x.mul y))
      ∧ fused (.vfmaBf16 h f) .bf16 (fun p z => p.add z)
      ∧ fused (.vnfmaBf16 h f) .bf16 (fun p z => p.neg.add z)
      ∧ fused (.vfmsBf16 h f) .bf16 (fun p z => p.add z.neg)
      ∧ pick (.vminBf16 h f) .bf16 (fun x y => belowNum x y)
      ∧ pick (.vmaxBf16 h f) .bf16 (fun x y => belowNum y x)
      ∧ two (.vaddF32 h f) .f32 4 (fun x y => Machine.Num.round .rne .f32 (x.add y))
      ∧ two (.vsubF32 h f) .f32 4 (fun x y => Machine.Num.round .rne .f32 (x.add y.neg))
      ∧ two (.vmulF32 h f) .f32 4 (fun x y => Machine.Num.round .rne .f32 (x.mul y))
      ∧ fused (.vfmaF32 h f) .f32 (fun p z => p.add z)
      ∧ fused (.vnfmaF32 h f) .f32 (fun p z => p.neg.add z)
      ∧ fused (.vfmsF32 h f) .f32 (fun p z => p.add z.neg)
      ∧ pick (.vminF32 h f) .f32 (fun x y => belowNum x y)
      ∧ pick (.vmaxF32 h f) .f32 (fun x y => belowNum y x))
    ∧ ∀ f : VU,
      let one := fun (i : Instr) (fm : FloatFmt) (x : Nat → Nat → Nat) =>
        LanesLater i h [useV f.va f.la, useP f.pg] fm.width 2 f.vd (fun s => s.rp f.pg) fun s n =>
          let a := lane fm.width (s.rv f.va) n
          if Machine.Num.ofBits fm a = .nan then fm.nan else x fm.width a
      one (.vabsBf16 h f) .bf16 (fun w a => a % 2 ^ (w - 1))
      ∧ one (.vnegBf16 h f) .bf16 (fun w a => a ^^^ 2 ^ (w - 1))
      ∧ one (.vabsF32 h f) .f32 (fun w a => a % 2 ^ (w - 1))
      ∧ one (.vnegF32 h f) .f32 (fun w a => a ^^^ 2 ^ (w - 1))

/-- VAND, VOR, VXOR, VNOT, VSHL, VSHR, VSAR and VSEL lane by lane, and ROT, which steps the rotation base (R226, R227, R229, R230, R217, R220). -/
def Obligations.vector_bits : Prop :=
  ∀ h : Hdr,
    (∀ f : V3, let us := [useV f.va f.la, useV f.vb f.lb, useP f.pg]
      let two := fun (i : Instr) (w : Nat) (x : BitVec w → BitVec w → BitVec w) => LanesLater i h us w 2 f.vd (fun s => s.rp f.pg) fun s n =>
        (x (laneB w (s.rv f.va) n) (laneB w (s.rv f.vb) n)).toNat
      let sel := fun (i : Instr) (w : Nat) => LanesLater i h us w 2 f.vd (fun _ => BitVec.allOnes 1024) fun s n =>
        if (s.rp f.pg).getLsbD n then lane w (s.rv f.va) n else lane w (s.rv f.vb) n
      two (.vandI8 h f) 8 (fun a b => a &&& b)
      ∧ two (.vandI32 h f) 32 (fun a b => a &&& b)
      ∧ two (.vorI8 h f) 8 (fun a b => a ||| b)
      ∧ two (.vorI32 h f) 32 (fun a b => a ||| b)
      ∧ two (.vxorI8 h f) 8 (fun a b => a ^^^ b)
      ∧ two (.vxorI32 h f) 32 (fun a b => a ^^^ b)
      ∧ two (.vshlI8 h f) 8 (fun a b => a <<< b.toNat)
      ∧ two (.vshlI16 h f) 16 (fun a b => a <<< b.toNat)
      ∧ two (.vshlI32 h f) 32 (fun a b => a <<< b.toNat)
      ∧ two (.vshrI8 h f) 8 (fun a b => a >>> b.toNat)
      ∧ two (.vshrI16 h f) 16 (fun a b => a >>> b.toNat)
      ∧ two (.vshrI32 h f) 32 (fun a b => a >>> b.toNat)
      ∧ two (.vsarI8 h f) 8 (fun a b => a.sshiftRight b.toNat)
      ∧ two (.vsarI16 h f) 16 (fun a b => a.sshiftRight b.toNat)
      ∧ two (.vsarI32 h f) 32 (fun a b => a.sshiftRight b.toNat)
      ∧ sel (.vselI8 h f) 8
      ∧ sel (.vselI16 h f) 16
      ∧ sel (.vselI32 h f) 32)
    ∧ (∀ f : VU,
      let inv := fun (i : Instr) (w : Nat) => LanesLater i h [useV f.va f.la, useP f.pg] w 2 f.vd (fun s => s.rp f.pg) fun s n => (~~~(laneB w (s.rv f.va) n)).toNat
      inv (.vnotI8 h f) 8 ∧ inv (.vnotI32 h f) 32)
    ∧ Acts (.rot h) h false [] always (fun s => stage (.rot s.core.idx s.core.second s.cur) s)

/-- VCMP compares lanes into a predicate; PAND, POR, PXOR, PNOT and PSET write one at once; PCNT and PFF read one into a scalar (R228, R218, R252, R253, R254, R220). -/
def Obligations.predicates : Prop :=
  ∀ h : Hdr,
    (∀ f : VCmp, let us := [useV f.va f.la, useV f.vb f.lb, useP f.pg]
      let reads := fun (w x : Nat) => if f.t then (x : Int) else (BitVec.ofNat w x).toInt
      let intCond := fun (a b : Int) =>
        (f.cond = 0 ∧ a = b) ∨ (f.cond = 1 ∧ a ≠ b) ∨ (f.cond = 2 ∧ a < b) ∨ (f.cond = 3 ∧ a ≤ b)
      let numCond := fun (a b : Machine.Num) => if a = .nan ∨ b = .nan then f.t = true else
        (f.cond = 0 ∧ a.eq b) ∨ (f.cond = 1 ∧ ¬ a.eq b) ∨ (f.cond = 2 ∧ a.lt b) ∨ (f.cond = 3 ∧ (a.lt b ∨ a.eq b))
      let flags := fun (i : Instr) (w : Nat) (cond : Nat → Nat → Prop) => ∀ s, Ready h false us s → LatchFree 0 s →
        ∃ t r, exec i s = .next t ∧ Flies h false us .pred 2 [r] s t ∧ r.reg = f.pd.setWidth 5
          ∧ (∀ n, n < 1024 → r.mask.getLsbD n = ((s.rp f.pg).getLsbD n || decide (4096 / w ≤ n)))
          ∧ (∀ n, n < 4096 / w → (s.rp f.pg).getLsbD n = true →
              (r.val.getLsbD n = true ↔ cond (lane w (s.rv f.va) n) (lane w (s.rv f.vb) n)))
          ∧ ∀ n, 4096 / w ≤ n → n < 1024 → r.val.getLsbD n = false
      flags (.vcmpI8 h f) 8 (fun a b => intCond (reads 8 a) (reads 8 b))
      ∧ flags (.vcmpI16 h f) 16 (fun a b => intCond (reads 16 a) (reads 16 b))
      ∧ flags (.vcmpI32 h f) 32 (fun a b => intCond (reads 32 a) (reads 32 b))
      ∧ flags (.vcmpF8 h f) 8 (fun a b => numCond (Machine.Num.ofBits .f8 a) (Machine.Num.ofBits .f8 b))
      ∧ flags (.vcmpBf16 h f) 16 (fun a b => numCond (Machine.Num.ofBits .bf16 a) (Machine.Num.ofBits .bf16 b))
      ∧ flags (.vcmpF32 h f) 32 (fun a b => numCond (Machine.Num.ofBits .f32 a) (Machine.Num.ofBits .f32 b)))
    ∧ (let puts := fun (i : Instr) (us : List Use) (pd : BitVec 3) (v : State → PReg) => ∀ s, Ready h false us s →
        ∃ t, exec i s = .next t ∧ Issued h false s t ∧ t.str.regs = s.str.regs ∧ Deaths us none s t ∧ KeepsMem s t
          ∧ (pd ≠ 0 → t.rp pd = v s) ∧ t.rp 0 = BitVec.allOnes 1024 ∧ (∀ n, n ≠ pd → t.rp n = s.rp n)
          ∧ t.str.flights = s.str.flights.map (fun x => if x.kind = .pred ∧ x.lands = some s.gcyc then
              { x with regs := x.regs.filter fun r => r.reg ≠ pd.setWidth 5 } else x)
          ∧ t.cal = s.cal ∧ OnlyStrand (s.mapCtx fun x => { x with preds := t.ctx.preds, pupset := t.ctx.pupset }) t
          ∧ t.ctx.pupset = s.ctx.pupset &&& ~~~((1 : BitVec 8) <<< pd.toNat);
      (∀ f : P3, puts (.pand h f) [useP f.pa, useP f.pb] f.pd (fun s => s.rp f.pa &&& s.rp f.pb) ∧ puts (.por h f) [useP f.pa, useP f.pb] f.pd (fun s => s.rp f.pa ||| s.rp f.pb)
        ∧ puts (.pxor h f) [useP f.pa, useP f.pb] f.pd (fun s => s.rp f.pa ^^^ s.rp f.pb))
      ∧ (∀ f : P2, puts (.pnot h f) [useP f.pa] f.pd (fun s => ~~~(s.rp f.pa)))
      ∧ ∀ f : Ps, puts (.pset h f) [useS f.a f.la] f.pd (fun s => BitVec.ofNat 1024 (2 ^ min (s.rs f.a).toNat 1024 - 1)))
    ∧ ∀ f : Pc, let ones := fun s : State => (List.range 1024).filter fun n => (s.rp f.pa).getLsbD n && (s.rp f.pg).getLsbD n
      WritesLater (.pcnt h f) h [useP f.pa, useP f.pg] 2 f.d (fun s => BitVec.ofNat 64 (ones s).length)
      ∧ WritesLater (.pff h f) h [useP f.pa, useP f.pg] 2 f.d (fun s => match ones s with | [] => BitVec.allOnes 64 | n :: _ => BitVec.ofNat 64 n)

/-- VCVT converts every element between the types of R236 in its shape, advances CTR where it rounds by chance or reads bp12, and traps else (R236, R237, R238, R219, R122, R135). -/
def Obligations.vector_conversion : Prop :=
  ∀ (h : Hdr) (f : Vc),
    (∀ s, cvtShape f.src f.dst f.rm = none → exec (.vcvt h f) s = .next (precise 0x01 (s.word.setWidth 64) s))
    ∧ ∀ sh, cvtShape f.src f.dst f.rm = some sh →
      let ks := match sh with | .narrow k => k | _ => 1
      let kd := match sh with | .widen k => k | _ => 1
      let name := fun (v : BitVec 5) (j : Nat) => v + BitVec.ofNat 5 j
      let us := (List.range ks).map fun j => useV (name f.va j) f.la
      let ws := typeWidth f.src.toNat
      let wd := typeWidth f.dst.toNat
      let count := match sh with | .patina => 256 | .narrow _ => 4096 / wd | _ => 4096 / ws
      let source := fun (s : State) (n : Nat) => match sh with
        | .patina => lane 12 (s.rv f.va) n
        | .narrow k => lane ws (s.rv (name f.va (n % k))) (n / k)
        | _ => lane ws (s.rv f.va) n
      let key := fun (s : State) (b : Nat) => s.str.pert.key.extractLsb' b 32
      let index := fun (s : State) (n : Nat) => s.str.pert.ctr + BitVec.ofNat 32 n
      let mode := fun (s : State) (n : Nat) => if f.rm = 0 then RMode.rne else if f.rm = 1 then .rtz
        else .sr ((patina (key s 0) (key s 32) s.str.pert.mem (index s n)).toNat % 256)
      let isN := f.dst = 4 ∨ f.dst = 5 ∨ f.dst = 6
      let lo : Int := if isN then 0 else -(2 ^ (wd - 1))
      let hi : Int := if isN then 2 ^ wd - 1 else 2 ^ (wd - 1) - 1
      let out := fun (s : State) (n : Nat) => let x := source s n
        if sh = .patina then bp12Weight x (patinaE (key s 0) (key s 32) s.str.pert.mem (index s n))
        else match floatOf f.dst.toNat with
          | some fm => (elemNum f.src.toNat x).round (mode s n) fm
          | none => (BitVec.ofInt wd (if (floatOf f.src.toNat).isSome then (elemNum f.src.toNat x).toInt (mode s n) lo hi
              else max lo (min hi (intOf f.src.toNat x)))).toNat
      let advanced := fun s : State => if f.rm = 2 ∨ sh = .patina then
          s.setStr { s.str with pert := { s.str.pert with ctr := s.str.pert.ctr + BitVec.ofNat 32 count } } else s
      (∀ s, Ready h false us s → sh.aligned f.vd f.va = false → exec (.vcvt h f) s = .next (precise 0x01 (s.word.setWidth 64) s))
      ∧ ∀ s, Ready h false us s → LatchFree kd s → sh.aligned f.vd f.va = true →
        ∃ t rs, exec (.vcvt h f) s = .next t ∧ Flies h false us .vector 3 rs (advanced s) t ∧ Deaths us none s t ∧ rs.length = kd
          ∧ ∀ j (hj : j < rs.length), (rs[j]).reg = name f.vd j ∧ (rs[j]).mask = BitVec.allOnes 4096
              ∧ ∀ n, n < 4096 / wd → n * kd + j < count → lane wd (rs[j]).val n = out s (n * kd + j)

/-- VWMUL into a pair, VDOT4 into 32-bit lanes, and the five special functions, each with its special cases (R239, R240, R241, R219, R217).
That 1/x and 1/√x are exact to the last bit before the rounding, and the fixed-point value of the other functions, are the model's choice
(log entry 18, DEDUCED). -/
def Obligations.vector_products : Prop :=
  ∀ h : Hdr,
    (let pair := fun (i : Instr) (vd va vb : BitVec 5) (pg : BitVec 3) (us : List Use) (w : Nat) (x : Nat → Nat → Nat) => ∀ s, Ready h false us s → LatchFree 2 s →
        ∃ t r q, exec i s = .next t ∧ Flies h false us .vector 4 [r, q] s t ∧ r.reg = vd ∧ q.reg = vd + 1
          ∧ ∀ p ∈ [(0, r), (1, q)],
              (∀ m, m < 2048 / w → lane (2 * w) p.2.val m = x (lane w (s.rv va) (2 * m + p.1)) (lane w (s.rv vb) (2 * m + p.1)))
              ∧ ∀ j, j < 4096 → p.2.mask.getLsbD j = (s.rp pg).getLsbD (2 * (j / (2 * w)) + p.1);
      (∀ f : V3t, let us := [useV f.va f.la, useV f.vb f.lb, useP f.pg]
        let prod := fun (w a b : Nat) => if f.t then a * b
          else (BitVec.ofInt (2 * w) ((BitVec.ofNat w a).toInt * (BitVec.ofNat w b).toInt)).toNat
        pair (.vwmulI8 h f) f.vd f.va f.vb f.pg us 8 (prod 8) ∧ pair (.vwmulI16 h f) f.vd f.va f.vb f.pg us 16 (prod 16))
      ∧ ∀ f : V3, let us := [useV f.va f.la, useV f.vb f.lb, useP f.pg]
        pair (.vwmulBf16 h f) f.vd f.va f.vb f.pg us 16 (fun a b => Machine.Num.round .rne .f32 (Machine.Num.mul (.ofBits .bf16 a) (.ofBits .bf16 b))))
    ∧ (∀ f : V3t, let us := [useV f.va f.la, useV f.vb f.lb, useV f.vd, useP f.pg]
      LanesLater (.vdot4I8 h f) h us 32 4 f.vd (fun s => s.rp f.pg) fun s n =>
        let reads := fun (x : BitVec 8) => if f.t then (x.toNat : Int) else x.toInt
        let term := fun (q : Nat) => reads (laneB 8 (s.rv f.va) (4 * n + q)) * reads (laneB 8 (s.rv f.vb) (4 * n + q))
        (laneB 32 (s.rv f.vd) n + BitVec.ofInt 32 (term 0 + term 1 + term 2 + term 3)).toNat)
    ∧ (∀ f : VU, let us := [useV f.va f.la, useP f.pg]
      let fn := fun (i : Instr) (g : Machine.Num → Machine.Num) => LanesLater i h us 32 8 f.vd (fun s => s.rp f.pg) fun s n =>
        Machine.Num.round .rne .f32 (g (Machine.Num.ofBits .f32 (lane 32 (s.rv f.va) n)))
      fn (.vexp2 h f) exp2Num ∧ fn (.vlog2 h f) log2Num ∧ fn (.vrcp h f) rcpNum ∧ fn (.vrsq h f) rsqNum ∧ fn (.vtanh h f) tanhNum)
    ∧ (let row := fun (x : Machine.Num) (a b c d e : Nat) => [exp2Num x, log2Num x, rcpNum x, rsqNum x, tanhNum x].map (Machine.Num.round .rne .f32) = [a, b, c, d, e]
      row .nan 0x7FC00000 0x7FC00000 0x7FC00000 0x7FC00000 0x7FC00000
      ∧ row (.fin false 0 (-149)) 0x3F800000 0xFF800000 0x7F800000 0x7F800000 0 ∧ row (.fin true 0 (-149)) 0x3F800000 0xFF800000 0xFF800000 0xFF800000 0x80000000
      ∧ row (.inf false) 0x7F800000 0x7F800000 0 0 0x3F800000 ∧ row (.inf true) 0 0x7FC00000 0x80000000 0x7FC00000 0xBF800000)
    ∧ (∀ x m e, 0 < m → x = Machine.Num.fin true m e → log2Num x = .nan ∧ rsqNum x = .nan)
    ∧ (∀ neg m e, 0 < m →
      (∃ q, rcpNum (.fin neg m e) = .fin neg q (-65 - e) ∧ (q * m = 2 ^ 65 ∨ (q % 2 = 1 ∧ (q - 1) * m < 2 ^ 65 ∧ 2 ^ 65 < (q + 1) * m)))
      ∧ ∃ q, rsqNum (.fin false m e) = .fin false q (-65 - (if e % 2 = 0 then e else e - 1) / 2) ∧ let n := if e % 2 = 0 then m else 2 * m
          (q * q * n = 2 ^ 130 ∨ (q % 2 = 1 ∧ (q - 1) * (q - 1) * n < 2 ^ 130 ∧ 2 ^ 130 < (q + 1) * (q + 1) * n)))
    ∧ (∀ n : Int, -160 < n → n < 129 → exp2Num (Machine.Num.ofInt n) = .fin false (2 ^ 192) (n - 192))
    ∧ ∀ (k : Nat) (e : Int), log2Num (.fin false (2 ^ k) e) = Machine.Num.ofInt (e + k)

/-- VREDS, VREDM and VSCAN: the exact sum rounded once, the largest active lane, and the prefix sums (R242, R243, R217, R224). -/
def Obligations.vector_reductions : Prop :=
  ∀ h : Hdr,
    let active := fun (w : Nat) (v : VReg) (p : PReg) (upto : Nat) => ((List.range upto).filter fun n => p.getLsbD n).map fun n => lane w v n
    (∀ f : VU, let us := [useV f.va f.la, useP f.pg]
      let all := fun (i : Instr) (x : List Nat → Nat) => LanesLater i h us 32 6 f.vd (fun _ => BitVec.allOnes 1024) fun s _ => x (active 32 (s.rv f.va) (s.rp f.pg) 128)
      let prefixes := fun (i : Instr) (x : List Nat → Nat) => LanesLater i h us 32 6 f.vd (fun s => s.rp f.pg) fun s n =>
        x (active 32 (s.rv f.va) (s.rp f.pg) (n + 1))
      let wrap := fun xs : List Nat => (BitVec.ofInt 32 (xs.map fun x => (BitVec.ofNat 32 x).toInt).sum).toNat
      let once := fun xs : List Nat => Machine.Num.round .rne .f32 (Machine.Num.sum (xs.map (Machine.Num.ofBits .f32)))
      all (.vredsI32 h f) wrap ∧ all (.vredsF32 h f) once ∧ prefixes (.vscanI32 h f) wrap ∧ prefixes (.vscanF32 h f) once)
    ∧ ∀ f : VUt, let us := [useV f.va f.la, useP f.pg]
      let ints := fun (i : Instr) (w : Nat) => LanesLater i h us w 6 f.vd (fun _ => BitVec.allOnes 1024) fun s _ =>
        let reads := fun x : Nat => if f.t then (x : Int) else (BitVec.ofNat w x).toInt
        (BitVec.ofInt w (((active w (s.rv f.va) (s.rp f.pg) (4096 / w)).map reads).foldl max (if f.t then 0 else -(2 ^ (w - 1))))).toNat
      let floats := fun (i : Instr) (fm : FloatFmt) => ∃ top : List Nat → Nat,
        LanesLater i h us fm.width 6 f.vd (fun _ => BitVec.allOnes 1024) (fun s _ => top (active fm.width (s.rv f.va) (s.rp f.pg) (4096 / fm.width)))
        ∧ ∀ xs, (∀ x ∈ xs, x < 2 ^ fm.width) →
          let ys := xs.map fun x => if f.t ∧ Machine.Num.ofBits fm x ≠ .nan then x ^^^ 2 ^ (fm.width - 1) else x
          let real := fun y => Machine.Num.ofBits fm y ≠ .nan
          (xs = [] → top xs = (if fm = .f32 then 0xFF800000 else 0xFF80))
          ∧ (xs ≠ [] → (∀ y ∈ ys, ¬ real y) → top xs = fm.nan)
          ∧ ((∃ y ∈ ys, real y) → top xs ∈ ys ∧ real (top xs) ∧ ∀ y ∈ ys, real y → belowNum (Machine.Num.ofBits fm (top xs)) (Machine.Num.ofBits fm y) = false)
      ints (.vredmI16 h f) 16 ∧ ints (.vredmI32 h f) 32 ∧ floats (.vredmBf16 h f) .bf16 ∧ floats (.vredmF32 h f) .f32

/-- VPERM, VSLIDE, VBCAST, VIDX, VMOVSV and VMOVVS: which lane goes where (R244, R245, R246, R217). -/
def Obligations.vector_moves : Prop :=
  ∀ h : Hdr,
    (∀ f : V3, let us := [useV f.va f.la, useV f.vb f.lb, useP f.pg]
      let perm := fun (i : Instr) (w : Nat) (from_ : Nat → Nat → Nat) => LanesLater i h us w 3 f.vd (fun s => s.rp f.pg) fun s n =>
        lane w (s.rv f.va) (from_ n (lane w (s.rv f.vb) n))
      perm (.vpermI8 h f) 8 (fun n b => 256 * (n / 256) + b) ∧ perm (.vpermI16 h f) 16 (fun _ b => b % 256)
      ∧ perm (.vpermI32 h f) 32 (fun _ b => b % 128))
    ∧ (∀ f : V3, let us := [useV f.va f.la, useS f.vb f.lb, useP f.pg]
      let slide := fun (i : Instr) (w : Nat) => LanesLater i h us w 2 f.vd (fun s => s.rp f.pg) fun s n =>
        let m := (n : Int) + (s.rs f.vb).toInt
        if 0 ≤ m ∧ m < 4096 / w then lane w (s.rv f.va) m.toNat else 0
      slide (.vslideI8 h f) 8 ∧ slide (.vslideI32 h f) 32)
    ∧ (∀ f : VU, let fill := fun (i : Instr) (w : Nat) => LanesLater i h [useS f.va f.la, useP f.pg] w 2 f.vd (fun s => s.rp f.pg) fun s _ => (s.rs f.va).toNat
      fill (.vbcastI8 h f) 8 ∧ fill (.vbcastI16 h f) 16 ∧ fill (.vbcastI32 h f) 32)
    ∧ (∀ f : VI, LanesLater (.vidx h f) h [useP f.pg] 32 2 f.vd (fun s => s.rp f.pg) fun _ n => n)
    ∧ ∀ f : VMov, let n := fun s : State => (s.rs f.vb).toNat % 128
      LanesLater (.vmovsv h f) h [useS f.va f.la, useS f.vb f.lb] 32 2 f.vd (fun s => 1#1024 <<< n s) (fun s _ => (s.rs f.va).toNat)
      ∧ WritesLater (.vmovvs h f) h [useV f.va f.la, useS f.vb f.lb] 2 f.vd (fun s => (laneB 32 (s.rv f.va) (n s)).signExtend 64)

/-- VRB reads a drained row; VGATH, VSCAT and VSCATA enter the gather unit with a cycle for every active lane; their checks in order (R247, R248, R249, R250, R255, R256, R177, R355, R287).
While a gather record waits for the array half, VSCAT and VSCATA are held as everything of that half is (R355); that timed code then takes
0x0D before the check of the token counts, 0x09, is the model's choice (log entry 34); that an instruction's own conflicts alone add
cycles to it, as R249 has it, whatever R310's cell (g) asks of two of them, is log entry 37 (DEDUCED). -/
def Obligations.gathers : Prop :=
  ∀ h : Hdr,
    (∀ f : Vr, let us := [useS f.a, useS f.b]
      let off := fun s : State => (s.rs f.a).toNat
      let mark := fun s : State => s.rbrec (off s / 65536)
      let legal := fun s : State => off s % 512 = 0 ∧ off s < 65536 * partRB4 s.core.partw
      ∀ s, Ready h false us s →
        (off s % 512 ≠ 0 → exec (.vrb h f) s = .next (precise 0x03 (s.rs f.a) s))
        ∧ (off s % 512 = 0 → ¬ legal s → exec (.vrb h f) s = .next (precise 0x05 (s.rs f.a) s))
        ∧ (legal s → mark s = none → exec (.vrb h f) s = .next (precise 0x0D (s.rs f.a) s))
        ∧ ∀ p arrival tag, legal s → mark s = some (p, arrival, tag) →
          (s.gcyc < arrival → s.str.timed = true → exec (.vrb h f) s = .next (precise 0x0D (s.rs f.a) s))
          ∧ (s.gcyc < arrival → s.str.timed = false → Holds s (exec (.vrb h f) s))
          ∧ (arrival ≤ s.gcyc → (s.rs f.b).extractLsb' 0 16 ≠ tag →
              exec (.vrb h f) s = .next (precise 0x0E (BitVec.ofNat 64 (tag.toNat * 65536 + (s.rs f.b).toNat % 65536)) s))
          ∧ (arrival ≤ s.gcyc → (s.rs f.b).extractLsb' 0 16 = tag → s.soft = [] → s.bad = [] → LatchFree 1 s →
              ∃ t r, exec (.vrb h f) s = .next t ∧ Flies h false us .vector 4 [r] s t ∧ r.reg = f.vd ∧ r.mask = BitVec.allOnes 4096
                ∧ ∀ j, j < 512 → lane 8 r.val j = (memRead s.mem (poolAddr s.core.idx (resultBase s.core.partw + off s) + j)).toNat))
    ∧ ∀ f : Vx,
      let kUse := if f.k = 0 then [] else [useS (BitVec.ofNat 5 (24 + f.k.toNat))]
      let pops := fun s : State => specPops (if f.k = 0 then none else some (s.rs (BitVec.ofNat 5 (24 + f.k.toNat))))
      let act := fun s : State => (List.range 128).filter fun n => (s.rp f.pg).getLsbD n
      let ptr := fun (s : State) (n : Nat) => lea (s.rs f.a) (BitVec.ofNat 64 (4 * lane 32 (s.rv f.vb) n))
      let base := fun s : State => canonical (s.rs f.a) = true ∧ ptrOff (s.rs f.a) % 4 = 0 ∧ ptrSpace (s.rs f.a) = 2
      let within := fun (s : State) (n : Nat) => ptrSpace (ptr s n) = 2 ∧ ptrOff (ptr s n) + 4 ≤ localSize s.core.partw
      let clash := fun (s : State) (n m : Nat) => n / 32 = m / 32 ∧ ptrOff (ptr s n) / 4 % 32 = ptrOff (ptr s m) / 4 % 32
        ∧ ptrOff (ptr s n) / 4 ≠ ptrOff (ptr s m) / 4
      let clear := fun s : State => ∀ r ∈ s.core.eng.recWait, r.w1.extractLsb' 34 4 ≠ 5
      let fair := fun s : State => ∀ n ∈ act s, ∀ m ∈ act s, ¬ clash s n m
      ∀ kind i, (kind, i) ∈ [(0, .vgath h f), (1, .vscat h f), (2, .vscataF32 h f), (3, .vscataI32 h f)] →
        let us := useS f.a :: useV f.vb :: ((if kind = 0 then [] else [useData f.vd]) ++ useP f.pg :: kUse)
        ∀ s, Ready h false us s →
          (canonical (s.rs f.a) = false → exec i s = .next (precise 0x04 (s.rs f.a) s))
          ∧ (canonical (s.rs f.a) = true → ptrOff (s.rs f.a) % 4 ≠ 0 → exec i s = .next (precise 0x03 (s.rs f.a) s))
          ∧ (canonical (s.rs f.a) = true → ptrOff (s.rs f.a) % 4 = 0 → ptrSpace (s.rs f.a) ≠ 2 → exec i s = .next (precise 0x07 (s.rs f.a) s))
          ∧ (base s →
            (∀ n ∈ act s, ¬ within s n → (∀ m ∈ act s, m < n → within s m) → exec i s = .next (precise 0x05 (ptr s n) s))
            ∧ ((∀ n ∈ act s, within s n) →
              (s.str.timed = true → ∀ n ∈ act s, (∃ m ∈ act s, clash s n m) → (∀ l ∈ act s, l < n → ∀ m ∈ act s, ¬ clash s l m) →
                  exec i s = .next (precise 0x0D (ptr s n) s))
              ∧ ((s.str.timed = true → fair s) → clear s → tokensThere s.ctx.tokens (pops s) = false →
                  (s.str.timed = true → exec i s = .next (precise 0x09 0 s)) ∧ (s.str.timed = false → Holds s (exec i s)))
              ∧ ((s.str.timed = true → fair s) → ¬ clear s →
                  (s.str.timed = true → exec i s = .next (precise 0x0D 0 s)) ∧ (s.str.timed = false → Holds s (exec i s)))
              ∧ ((s.str.timed = true → fair s) → clear s → tokensThere s.ctx.tokens (pops s) = true → (kind = 0 → LatchFree 1 s) →
                ∃ t g r, exec i s = .next t ∧ Issued h false s t ∧ t.str.regs = s.str.regs ∧ Deaths us none s t ∧ KeepsMem s t
                  ∧ t.ctx.tokens = takeTokens s.ctx.tokens (pops s) ∧ t.nextId = s.nextId + 1
                  ∧ t.core.eng.gathers = s.core.eng.gathers ++ [g] ∧ g.id = s.nextId ∧ g.kind = kind ∧ g.pc = s.str.pc ∧ g.got = []
                  ∧ g.lanes.map (fun l => l.1) = act s
                  ∧ (∀ l ∈ g.lanes, l.2.1 = poolAddr s.core.idx (ptrOff (ptr s l.1)) ∧ l.2.2.1 = laneB 32 (s.rv f.vd) l.1
                    ∧ (fair s → l.2.2.2 = s.gcyc + (if kind = 0 then 1 else 8) + l.1 / 32)
                    ∧ ⟨l.2.2.2, if kind = 0 then 1 else if kind = 1 then 6 else 5, 2 * s.core.idx + 1, .gatherPerform s.core.idx s.nextId⟩ ∈ t.cal)
                  ∧ s.gcyc + 11 ≤ g.ends ∧ (fair s → g.ends = s.gcyc + 11)
                  ∧ ⟨g.ends, 9, s.core.idx, .gatherComplete s.core.idx s.nextId⟩ ∈ t.cal
                  ∧ (∀ j, j < 4096 → r.mask.getLsbD j = (s.rp f.pg).getLsbD (j / 32)) ∧ r.reg = f.vd
                  ∧ t.str.flights = s.str.flights ++ (if kind = 0 then
                      [⟨.vector, [r], some g.ends, s.gcyc, true, decide (g.ends ≠ s.gcyc + 11), false, some s.nextId, 0, none⟩] else []))))

/-- Results land, walks end, write-combining entries are written back, gather lanes perform and end, and scrub clears single-bit errors (R64, R48, R111, R350, R186, R185, R249, R250, R177, R398).
That a failure of a late walk other than the page fault is a deferred trap is the model's choice (log entry 19, DEDUCED). -/
def Obligations.results_and_gathers : Prop :=
  (∀ (k : Nat) (s : State), s.core.idx = k → k < 768 → Memory.wf s.mem = true → s.soft = [] → s.bad = [] →
    (∀ (st : StrandId) (f : Flight) (r : Landing) (c : Nat), (s.ctx.strand st).flights = [f] → f.lands = some c → f.regs = [r] →
      (∀ x, x ≠ st → (s.ctx.strand x).flights = []) → s.core.shadow.a.flights = [] → s.core.shadow.v.flights = [] →
      let p := physV s.ctx.v.rotb r.reg
      let put := fun {w : Nat} (old : BitVec w) => (old &&& ~~~(r.mask.setWidth w)) ||| (r.val.setWidth w &&& r.mask.setWidth w)
      ∃ t, exec (.resultLanding k) s = .next t ∧ t.mem = s.mem ∧ (s.gcyc < c → t.ctx = s.ctx)
        ∧ (c ≤ s.gcyc → f.beaten = some s.gcyc → (t.ctx.strand st).flights = [] ∧ (t.ctx.strand st).regs = (s.ctx.strand st).regs
          ∧ t.ctx.vregs = s.ctx.vregs ∧ t.ctx.preds = s.ctx.preds)
        ∧ (c ≤ s.gcyc → f.beaten ≠ some s.gcyc → (t.ctx.strand st).flights = [] ∧ (∀ x, x ≠ st → t.ctx.strand x = s.ctx.strand x)
          ∧ (f.kind = .scalar → ∀ n, (t.ctx.strand st).get n = if n = r.reg ∧ n ≠ 0 then r.val.setWidth 64 else (s.ctx.strand st).get n)
          ∧ (f.kind = .pred → ∀ n, t.rp n = if n = r.reg.setWidth 3 ∧ n ≠ 0 then put (s.rp n) else s.rp n)
          ∧ (f.kind = .vector → s.ctx.vdead.getLsbD p.val = false ∨ r.mask = BitVec.allOnes 4096 →
              t.ctx.vdead.getLsbD p.val = false ∧ ∀ q : Fin 32, t.ctx.vregs[q] = if q = p then put s.ctx.vregs[q] else s.ctx.vregs[q])))
    ∧ (∀ id a, s.ctx.acc = [a] → a.id = id → a.p = none → a.va ≠ [] → a.rid = none → a.walk = none → a.cancelled = false → a.done = false → a.kind.queued = true →
      s.ctx.auHalt = false → s.ctx.waits = [] → s.core.deferred = none → ptrSpace a.ptr = 0 →
      ∃ t, exec (.translationWalk k id) s = .next t ∧ t.mem = s.mem
        ∧ (∀ rs, (xlateAccess a s).1 = .ok rs → ∃ b p, t.ctx.acc = [b] ∧ b.id = id ∧ b.va = [] ∧ b.pieces = rs.map (fun r => (r.1, r.2.1))
            ∧ b.p = some p ∧ s.gcyc < p ∧ ⟨p, performRank a, 2 * k, .accessPerform k id⟩ ∈ t.cal)
        ∧ (∀ c va b z, (xlateAccess a s).1 = .bad c va b z → c ≠ 0x06 → t.ctx.acc = [] ∧ t.core.deferred = some ⟨c, a.ptr, .A, true⟩)
        ∧ ∀ va b z, (xlateAccess a s).1 = .bad 0x06 va b z → t.ctx.auHalt = true ∧ t.core.deferred = none
            ∧ t.ctx.acc = [{ a with rid := some s.ctx.rid, p := none }] ∧ t.ctx.waits = [⟨s.ctx.rid, b, z, none, some id⟩]
            ∧ ∃ r, t.core.eng.recs ++ t.core.eng.recWait = s.core.eng.recs ++ s.core.eng.recWait ++ [r] ∧ r.w0 = a.ptr ∧ r.w1.extractLsb' 40 6 = 0x06#6 ∧ r.w1.getLsbD 46 = true
              ∧ r.w1.extractLsb' 48 16 = s.ctx.rid)
    ∧ (∀ unit e, s.core.eng.wc = [e] → e.unit = unit →
      (s.gcyc < e.due → exec (.wcReadModifyWrite k unit) s = .next s)
      ∧ (e.due ≤ s.gcyc → pteKey e.pte = 0 → (s.vf (pteVf e.pte)).dirty = none → s.svc.viral = false →
        ∃ t, exec (.wcReadModifyWrite k unit) s = .next t ∧ t.core.eng.wc = [] ∧ KeepsMemBut (256 * unit) 256 s t
          ∧ ∀ a, 256 * unit ≤ a → a < 256 * unit + 256 →
            memRead t.mem a = ((e.bytes.find? fun x => x.1 = a).map Prod.snd).getD (memRead s.mem a))
      ∧ (e.due ≤ s.gcyc → unitRead e.pte unit s = none → s.svc.physLog = none → (s.vf (pteVf e.pte)).errq = none →
        ∃ t r, exec (.wcReadModifyWrite k unit) s = .next t ∧ t.core.eng.wc = [] ∧ t.mem = s.mem
          ∧ t.core.eng.recs ++ t.core.eng.recWait = s.core.eng.recs ++ s.core.eng.recWait ++ [r] ∧ r.w1.extractLsb' 40 6 = 0x12#6))
    ∧ (∀ id o, s.core.eng.gathers = [o] → o.id = id → o.hurt = 0 → s.ctx.frame = none → s.core.shadow.frame = none →
      let ls := o.lanes.filter fun l => l.2.2.2 = s.gcyc
      let word := fun a : Nat => leNat (memBytes s.mem a 4)
      let next := fun (old data : Nat) => if o.kind = 1 then data
        else if o.kind = 2 then Machine.Num.round .rne .f32 (Machine.Num.add (.ofBits .f32 old) (.ofBits .f32 data)) else (old + data) % 2 ^ 32
      ((∀ l ∈ ls, l.2.1 % 4 = 0) → ∃ t, exec (.gatherGroupPerform k id) s = .next t
        ∧ (o.kind = 0 → let got := o.got ++ ls.map fun l => (l.1, BitVec.ofNat 32 (word l.2.1))
          t.mem = s.mem ∧ t.core.eng.gathers = [{ o with got := got }]
          ∧ ∃ v, (∀ i, i < 128 → lane 32 v i = ((got.find? fun g => g.1 = i).map fun g => g.2.toNat).getD 0)
            ∧ t.ctx.v.flights = s.ctx.v.flights.map fun f =>
                if f.access = some id then { f with regs := f.regs.map fun r => { r with val := v } } else f)
        ∧ (o.kind ≠ 0 → t.core.eng.gathers = [o]
          ∧ (∀ b, (∀ l ∈ ls, b < l.2.1 ∨ l.2.1 + 4 ≤ b) → memRead t.mem b = memRead s.mem b)
          ∧ ∀ l ∈ ls, leNat (memBytes t.mem l.2.1 4)
              = (ls.filter fun m => m.2.1 = l.2.1).foldl (fun w m => next w m.2.2.1.toNat) (word l.2.1)))
      ∧ ∃ t, exec (.gatherComplete k id) s = .next t ∧ t.core.eng.gathers = [] ∧ t.mem = s.mem
          ∧ t.staged = s.staged ++ (match specPush o.spec with
              | some ch => [.push k o.second 7 ch.val (o.spec.getD 0) o.pc] | none => [])))
  ∧ ∀ (s : State) (addr : Nat), s.svc.physLog = none →
    let clean := { s with soft := s.soft.filter fun w => w ≠ addr / 8 }
    let stays := fun t : State => t.bad = s.bad ∧ t.soft = clean.soft ∧ t.mem = s.mem ∧ t.core = s.core
    let unmarked := ∀ c ∈ s.core :: s.others, c.ctx.vupset = 0 ∧ c.shadow.vupset = 0
    (addr / 8 ∉ s.bad → unmarked → exec (.scrubSlot addr) s = .next clean)
    ∧ (addr / 8 ∈ s.bad → ∃ t, exec (.scrubSlot addr) s = .next t ∧ stays t
        ∧ (2 ^ 38 ≤ addr → ∃ d, d < 2 ^ 26 ∧ ⟨s.gcyc + 1 + d, 9, 0, .scrubSlot (8 * (addr / 8))⟩ ∈ t.cal))
    ∧ (addr < 2 ^ 38 → addr / 8 ∉ s.bad → exec (.patrol addr) s = .next clean)
    ∧ (addr < 2 ^ 38 → addr / 8 ∈ s.bad → ∃ t, exec (.patrol addr) s = .next t ∧ stays t
        ∧ (0 < s.svc.patrol → ∃ d, d < s.svc.patrol ∧ ⟨s.gcyc + 1 + d, 9, 0, .patrol (8 * (addr / 8))⟩ ∈ t.cal))
    ∧ (2 ^ 38 ≤ addr → exec (.patrol addr) s = .fault .noSuchUnit)

/-- Interrupts, ticks, deferred traps, the handler's start and its frame, page-fault replies, and the reporting port (R347, R349, R340, R344, R346, R356, R357, R353, R354, R355). -/
def Obligations.interrupts_and_replies : Prop :=
  (∀ (k : Nat) (s : State), s.core.idx = k → k < 768 →
    let x := s.ctx
    let admitted := (x.pendTick = true ∨ x.pendSig = true ∨ x.pendUrg = true) ∧ s.core.trapbase.getLsbD 0 = true ∧ x.inHandler s.gcyc = false
      ∧ x.group.isSome = true ∧ x.c.asleep = false ∧ (∀ st, (x.strand st).timed = false) ∧ s.atBoundary = false ∧ s.core.stopped = false
      ∧ s.core.parking = none ∧ (∀ r ∈ s.core.replay, r.1 + r.2 ≤ s.gcyc) ∧ s.svc.viral = false
    (¬ admitted → exec (.interruptTaken k) s = .next s)
    ∧ (admitted → x.pendUrg = true → exec (.interruptTaken k) s = .next (enterTrap ⟨0x1C, 3, .C, false⟩ (s.setCtx { x with pendUrg := false })))
    ∧ (admitted → x.pendUrg = false → x.pendTick = true →
        exec (.interruptTaken k) s = .next (enterTrap ⟨0x1C, 1, .C, false⟩ (s.setCtx { x with pendTick := false })))
    ∧ (admitted → x.pendUrg = false → x.pendTick = false →
        exec (.interruptTaken k) s = .next (enterTrap ⟨0x1C, 2, .C, false⟩ (s.setCtx { x with pendSig := false })))
    ∧ (∀ b, let y := s.ctxNum b
      (s.svc.power = 0 → y.tick.toNat = s.gcyc → y.tick ≠ 0 →
        exec (.tick k b) s = .next (s.setCtxNum b { y with tick := 0, pendTick := true }))
      ∧ (y.tick.toNat ≠ s.gcyc ∨ y.tick = 0 → exec (.tick k b) s = .next s))
    ∧ (s.core.deferred = none ∨ x.inHandler s.gcyc = true → exec (.deferredTrap k) s = .next s)
    ∧ (∀ e, s.core.deferred = some e → x.inHandler s.gcyc = false →
        exec (.deferredTrap k) s = .next (enterTrap e { s with core := { s.core with deferred := none } }))
    ∧ (∀ h f, x.handler = .entering h → x.frame = some f → x.fq.length ≤ 16 → f.pfr.length ≤ 4 →
      (s.gcyc < h → exec (.handlerStart k) s = .next s)
      ∧ (h ≤ s.gcyc → Memory.wf s.mem = true → x.acc = [] → x.a.flights = [] →
        let base := poolAddr k (trapBase s.core.partw (if s.core.second then 1 else 0))
        let saved := fun st : StrandId => if st = .A then { (f.strand st).st with regs := x.a.regs, dead := x.a.dead } else (f.strand st).st
        ∃ t, exec (.handlerStart k) s = .next t ∧ t.ctx.handler = .running ∧ t.ctx.c.next = s.gcyc ∧ t.ctx.c.held = false
          ∧ KeepsMemBut base 16384 s t
          ∧ HoldsBytes base (leBytes 8 f.tcause.toNat ++ leBytes 8 f.tval.toNat ++ leBytes 8 f.tcyc) t
          ∧ (∀ st : StrandId, HoldsBytes (base + 0x40 + 128 * st.num) (leBytes 8 (saved st).pc) t
            ∧ ∀ n : BitVec 5, HoldsBytes (base + 0x240 + 256 * st.num + 8 * n.toNat)
                (leBytes 8 (if (saved st).dead.getLsbD n.toNat then 0 else ((saved st).get n).toNat)) t)
          ∧ ∀ n : BitVec 3, n ≠ 0 → HoldsBytes (base + 0x640 + 128 * n.toNat) (leBytes 128 (s.rp n).toNat) t))
    ∧ (∀ u, x.handler = .returning u → (s.gcyc < u → exec (.handlerStart k) s = .next s)
      ∧ (u ≤ s.gcyc → x.acc = [] → x.replies = [] →
          exec (.handlerStart k) s = .next (s.setCtx { x with auHalt := false, handler := .none, frame := none })))
    ∧ (x.handler = .none ∨ x.handler = .running → exec (.handlerStart k) s = .next s)
    ∧ (∀ r : Word, (r.extractLsb' 38 10).toNat = k →
      let b := r.getLsbD 33
      let y := s.ctxNum b
      let vf := (r.extractLsb' 34 4).toNat
      let owner := match y.group with | some g => g.vf | none => s.core.lastVf.getD 0
      let taken := (s.vf vf).resetting = none ∧ vf = owner ∧ y.replies.length < 512
      ∀ i q, (i, q) ∈ [(Instr.replyResume r, r &&& ~~~(2 ^ 32 : Word)), (.replyFail r, r ||| (2 ^ 32 : Word))] →
        (¬ taken → exec i s = .next s)
        ∧ (taken → ∃ t, exec i s = .next t ∧ ⟨s.gcyc + 1, 2, k, .reply q⟩ ∈ t.cal
            ∧ t = { s.setCtxNum b { y with replies := y.replies ++ [(s.gcyc + 1, q)] } with cal := t.cal }))
    ∧ ((∀ p ∈ x.replies, s.gcyc < p.1) → applyReplies s = s)
    ∧ (∀ c r, x.replies = [(c, r)] → c ≤ s.gcyc → applyReplies s = applyReply r (s.setCtx { x with replies := [] }))
    ∧ (∀ r : Word, (∀ w ∈ x.waits, w.rid ≠ r.extractLsb' 48 16) → applyReply r s = s)
    ∧ (∀ (r : Word) w a, x.waits = [w] → w.rid = r.extractLsb' 48 16 → (r.extractLsb' 34 4).toNat = s.vfOf → r.getLsbD 32 = true →
      s.core.eng.copyRun = [] → x.acc = [a] → a.rid = some w.rid → a.done = false → a.kind.queued = true → s.core.deferred = none →
      (applyReply r s).ctx.acc = [] ∧ (applyReply r s).ctx.waits = [] ∧ (applyReply r s).core.deferred = some ⟨0x06, a.ptr, .A, true⟩)
    ∧ exec (.recordRetry k) s = .next (addDue s.gcyc 9 0 .recordWrite s)
    ∧ (s.others = [] → s.lists = [] → s.core.eng.recs = [] → exec .recordWrite s = .next s)
    ∧ ∀ r, s.others = [] → s.lists = [] → s.core.eng.recs = [r] → r.due ≤ s.gcyc → (r.w3.extractLsb' 0 10).toNat = k →
      let v := (r.w3.extractLsb' 10 4).toNat
      let n := if r.w1.getLsbD 46 then 16 else 17
      let room := fun g : Ring => g.set = true ∧ 6 ≤ g.logn ∧ g.logn ≤ 16 ∧ (g.tail - g.head).toNat ≠ 2 ^ g.logn
      let place := fun g : Ring => g.base + 32 * (g.tail.toNat % 2 ^ g.logn)
      let a := place (s.ring n)
      let b := place (s.ring v)
      (Memory.wf s.mem = true → room (s.ring n) → room (s.ring v) → a + 32 ≤ b ∨ b + 32 ≤ a → ∃ t, exec .recordWrite s = .next t
        ∧ t.core.eng.recs = s.core.eng.recWait.take 1 ∧ t.core.eng.recWait = s.core.eng.recWait.drop 1
        ∧ HoldsBytes a r.bytes t ∧ HoldsBytes b r.bytes t ∧ (∀ c, (c < a ∨ a + 32 ≤ c) → (c < b ∨ b + 32 ≤ c) → memRead t.mem c = memRead s.mem c)
        ∧ (t.ring n).tail = (s.ring n).tail + 1 ∧ (t.ring v).tail = (s.ring v).tail + 1)
      ∧ (¬ (room (s.ring n) ∧ room (s.ring v)) → ∃ t, exec .recordWrite s = .next t ∧ t.mem = s.mem
        ∧ t.core.eng.recs = [{ r with refused := r.refused + 1, due := s.gcyc + 64 * 2 ^ min r.refused 6 }]
        ∧ ⟨s.gcyc + 64 * 2 ^ min r.refused 6, 9, 0, .recordRetry k⟩ ∈ t.cal))
  ∧ ∀ k s, 768 ≤ k → exec (.resultLanding k) s = .fault .noSuchUnit ∧ exec (.interruptTaken k) s = .fault .noSuchUnit

/-- The dispatcher takes a ready launch under its g, groups start, end and park, slices run out, and a launch completes with its signal (R63, R216, R299, R283, R294, R93, R259, R368, R370, R371, R374, R376).
That a launch completes only after the writes its groups left behind, the one selection of a cycle and the readiness of a rival are the
model's choice (log entry 33, DEDUCED). -/
def Obligations.groups_and_dispatch : Prop :=
  (∀ (s : State), (s.svc.running = false ∨ s.svc.viral = true ∨ s.svc.power ≠ 0 ∨ s.svc.exitAt ≠ none ∨ chooseHead s 4 = none) →
      exec .launchDispatch s = .next s)
  ∧ (∀ (s : State) vf n q hd c cs, s.svc.running = true → s.svc.viral = false → s.svc.power = 0 → s.svc.exitAt = none →
      chooseHead s 4 = some (vf, n, q) → vf < 16 → q < 4 → headBusy vf q s = false → headOf vf q s = some hd → queueOf vf q s = c :: cs →
      (s.vf vf).resetting = none → (s.vf vf).paused = false → (s.vf vf).pausing = false → hd.launch.vf = vf → hd.launch.queue = q →
      gbaseOk hd.launch c.arg1.toNat s = true →
      (hd.launch.gx * hd.launch.gy * hd.launch.gz = 0 → ∃ t, exec .launchDispatch s = .next t ∧ t.launches = s.launches ∧ t.mem = s.mem ∧ queueOf vf q t = cs)
      ∧ (hd.launch.gx * hd.launch.gy * hd.launch.gz ≠ 0 → (∀ m ∈ s.launches, m.id ≠ s.nextId) →
        ∃ t l, exec .launchDispatch s = .next t ∧ t.launches = s.launches ++ [l] ∧ l.id = s.nextId ∧ t.nextId = s.nextId + 1 ∧ headBusy vf q t = true
          ∧ (c.arg1 ≠ 0 → l.g = c.arg1.toNat) ∧ (c.arg1 = 0 → l.g % 4096 = 0 ∧ s.gcyc + 65536 ≤ l.g ∧ l.g < s.gcyc + 69632)
          ∧ l.image = relocate l.g hd.launch.image ∧ l.live = hd.launch.live ∧ l.slice = (s.vf vf).slice.toNat ∧ s.gcyc < l.since
          ∧ l.todo = ((List.range l.count).filter fun j => j < l.gx * l.gy * l.gz).map (fun j => (l.first + j, j, 0))
          ∧ ∀ x ∈ l.todo, ⟨l.since, 2, x.1, .groupStart x.1⟩ ∈ t.cal))
  ∧ (∀ (k : Nat) (s : State), s.core.idx = k → k < 768 →
    (s.core.second = false → s.launches = [] ∨ s.core.stopped = true → exec (.groupStart k) s = .next s)
    ∧ (∀ l n s1, s.core.second = false → s.core.ctx.group = none → s.core.stopped = false → s.launches = [l] → l.parked = false → l.since ≤ s.gcyc →
      (s.vf l.vf).resetting = none → (s.vf l.vf).pausing = false → (s.vf l.vf).paused = false → l.live = [] → l.todo = [(k, n, s1)] →
      ∃ t l', exec (.groupStart k) s = .next t ∧ t.mem = s.mem ∧ t.launches = [l'] ∧ l'.live = [(k, n)]
        ∧ l'.todo = (if s1 ≠ 0 ∨ l.timed = true ∨ l.fail.isSome = true ∨ l.gx * l.gy * l.gz ≤ n + l.count then [] else [(k, n + l.count, 0)])
        ∧ t.ctx.group = some ⟨l.id, l.vf, n, n % l.gx, n / l.gx % l.gy, n / (l.gx * l.gy), none⟩
        ∧ (∀ st : StrandId, let u := t.ctx.strand st
          u.pc = 0 ∧ u.halted = false ∧ u.timed = false ∧ u.next = s.gcyc ∧ u.image = l.image.section st ∧ u.flights = [] ∧ u.dead = 0
            ∧ ∀ r : BitVec 5, u.get r = if r = 1 then BitVec.ofNat 64 s1 else 0)
        ∧ (∀ r, t.ctx.getV r = 0) ∧ t.ctx.vdead = 0 ∧ (∀ p : BitVec 3, p ≠ 0 → t.rp p = 0) ∧ t.ctx.tokens = Vector.replicate 16 0
        ∧ t.core.domain = domainOf l n ∧ t.core.syncmask = l.image.mask ∧ t.core.trapbase = 0
        ∧ ∀ b, b < 48 → t.bar (64 * k + b) = ⟨64 * k + b, false, 0, 0, 0⟩)
    ∧ (groupOver s = false ∨ s.core.stopped = true → exec (.groupEnd k) s = .next s)
    ∧ (∀ l g, s.core.ctx.group = some g → g.failed = none → s.core.stopped = false → s.launches = [l] → l.id = g.launch → l.vf < 16 → (s.vf l.vf).pausing = false →
      l.live = [(k, g.n)] → l.todo = [] → l.fail = none → s.core.second = false → s.core.shadow.group = none → s.core.eng.stream = none →
      (groupOver s = true → ∃ t l', exec (.groupEnd k) s = .next t ∧ t.mem = s.mem ∧ t.ctx.group = none ∧ t.ctx.fq = [] ∧ t.launches = [l'] ∧ l'.id = l.id
        ∧ l'.live = [] ∧ l'.todo = [] ∧ (∀ x, x < 16 → (t.slot x).owner ≠ some (k % 2)) ∧ ⟨s.gcyc, 9, 3000 + l.id, .launchComplete l.id⟩ ∈ t.cal)
      ∧ ∀ n pc str, s.core.parking = some (n, pc, str) → n < 2 ^ 64 → pc < 2 ^ 32 → str < 4 →
        let waits := ∃ r ∈ s.core.eng.recWait, r.w1.extractLsb' 34 4 = 7
        ((enginesIdle s = false ∨ waits) → exec (.park k) s = .next (addDue (s.gcyc + 1) 9 k (.park k) s))
        ∧ (enginesIdle s = true → ¬ waits → ∃ t l' r, exec (.park k) s = .next t ∧ t.mem = s.mem ∧ t.ctx.group = none ∧ t.core.parking = none
          ∧ (∀ st, (t.ctx.strand st).halted = true) ∧ (∀ x, x < 16 → (t.slot x).owner ≠ some (k % 2))
          ∧ t.launches = [l'] ∧ l'.live = [] ∧ l'.parked = true ∧ l'.todo = [(k, g.n, n)]
          ∧ t.core.eng.recs ++ t.core.eng.recWait = s.core.eng.recs ++ s.core.eng.recWait ++ [r] ∧ r.w0 = BitVec.ofNat 64 n ∧ r.w1.extractLsb' 40 6 = 0x1D#6 ∧ r.w1.extractLsb' 0 32 = BitVec.ofNat 32 pc
          ∧ r.w1.extractLsb' 32 2 = BitVec.ofNat 2 str ∧ r.w1.extractLsb' 34 3 = 7#3))
    ∧ (s.core.parking = none → exec (.park k) s = .next s)
    ∧ ∀ l j, s.launches = [l] → l.live = [(k, j)] → l.parked = false → domPod l = false → l.since ≤ s.gcyc → (s.vf l.vf).slice ≠ 0 →
      let left := l.slice - (s.gcyc - l.since)
      let counted := { l with slice := left, since := s.gcyc }
      let again := fun (at_ : Nat) (m : Launch) => exec (.sliceExpiry l.id) s = .next (addDue at_ 2 (65 + l.id) (.sliceExpiry l.id) { s with launches := [m] })
      (left ≠ 0 → again (s.gcyc + left) counted)
      ∧ (left = 0 → rivalReady counted s = true → exec (.sliceExpiry l.id) s = .next { s with launches := [counted], core := { s.core with request := true } })
      ∧ (left = 0 → rivalReady counted s = false →
          again (s.gcyc + (s.vf l.vf).slice.toNat) { counted with slice := (s.vf l.vf).slice.toNat }))
  ∧ ∀ (s : State) l c cs, s.launches = [l] → l.live = [] → l.todo = [] → l.vf < 16 → l.queue < 4 → l.sig < 64 → queueOf l.vf l.queue s = c :: cs → c.vf = l.vf →
      s.svc.viral = false → (s.vf l.vf).held = [] → (∀ r ∈ (s.vf l.vf).ring, r.2.2.2 = true) →
      ((s.vf l.vf).resetting ≠ none → exec (.launchComplete l.id) s = .next s)
      ∧ ((s.vf l.vf).resetting = none → writesDone l s = false → exec (.launchComplete l.id) s = .next (addDue (s.gcyc + 1) 9 (3000 + l.id) (.launchComplete l.id) s))
      ∧ ((s.vf l.vf).resetting = none → writesDone l s = true → ∃ t x, exec (.launchComplete l.id) s = .next t ∧ t.mem = s.mem ∧ t.launches = [] ∧ queueOf l.vf l.queue t = cs
        ∧ (∀ n, n < 64 → (t.vf l.vf).signals.toList.getD n 0 = (s.vf l.vf).signals.toList.getD n 0 + if n = l.sig then 1 else 0)
        ∧ t.done = s.done ++ [x] ∧ x.vf = l.vf ∧ x.cyc = s.gcyc ∧ x.tag = c.w0.extractLsb' 16 16
        ∧ (l.fail = none → x.status = 0 ∧ x.data = 0) ∧ ∀ f k v, l.fail = some (f, k, v) → x.status = 1 ∧ x.data = v ∧ x.core = BitVec.ofNat 10 k)

/-- Capsules: what the endpoint takes in and refuses, and what COPYIN, COPYOUT, SIGNAL, WAITSIG and QUERY do at the head of their queue (R363, R364, R365, R367, R381, R347, R372, R419, R420).
That COPYOUT answers a DATA of 0 with FAULT is the model's choice (log entry 25), and so is that an endpoint bound to no port yet takes
capsules on any (log entry 34). -/
def Obligations.capsules : Prop :=
  let sends := fun (c : Capsule) (status : Nat) (data : Word) (bytes : List Byte) (s t : State) =>
    t.done = s.done ++ [⟨c.vf, c.w0.extractLsb' 16 16, c.w0.extractLsb' 0 8, BitVec.ofNat 8 status, data, 0, s.gcyc, bytes⟩]
    ∧ (t.vf c.vf).ringTail = (s.vf c.vf).ringTail + 1
    ∧ ∀ a n key w, (s.vf c.vf).ring = some (a, n, key, w) →
        (t.vf c.vf).sends = (s.vf c.vf).sends ++ [(a + 32 * ((s.vf c.vf).ringTail % 2 ^ n), key, (s.vf c.vf).ringTail + 1)]
  let ready := fun (vf : Nat) (s : State) => vf < 16 ∧ s.svc.power = 0 ∧ s.svc.exitAt = none ∧ s.svc.running = true ∧ s.svc.viral = false
    ∧ (s.vf vf).held = [] ∧ ∀ r ∈ (s.vf vf).ring, r.2.2.2 = true
  let bound := fun (c : Capsule) (s : State) => (s.vf c.vf).ports = [] ∨ c.port ∈ (s.vf c.vf).ports
  let kind := fun c : Capsule => (c.w0.extractLsb' 0 8).toNat
  (∀ (c : Capsule) (i : Instr), i ∈ [Instr.launch c, .waitsig c, .resetVf c] → ∀ s,
    let q := (c.w0.extractLsb' 8 2).toNat
    let wrong := kind c = 0 ∨ 7 < kind c ∨ c.w0.extractLsb' 10 6 ≠ 0 ∨ c.w0.extractLsb' 32 32 ≠ 0 ∨ c.arg2 ≠ 0
      ∨ c.len ≠ (if kind c = 2 then 32 + c.arg1.toNat else 32)
    (16 ≤ c.vf → exec i s = .fault .noSuchUnit)
    ∧ (c.ok = true → s.svc.running = false ∨ s.svc.viral = true ∨ ¬ bound c s → exec i s = .next s)
    ∧ (ready c.vf s → c.ok = true → bound c s →
      (wrong → ∃ t, exec i s = .next t ∧ t.mem = s.mem ∧ sends c 2 0 [] s t ∧ ∀ p, queueOf c.vf p t = queueOf c.vf p s)
      ∧ (¬ wrong → (s.vf c.vf).resetting ≠ none → ∃ t, exec i s = .next t ∧ t.mem = s.mem ∧ sends c 6 0 [] s t ∧ ∀ p, queueOf c.vf p t = queueOf c.vf p s)
      ∧ (¬ wrong → (s.vf c.vf).resetting = none →
        (kind c = 6 → (∀ x ∈ s.others, x.idx ≠ s.core.idx) → ∃ t, exec i s = .next t ∧ (t.vf c.vf).resetting = some (1, c.w0.extractLsb' 16 16)
          ∧ (∀ p ∈ (s.vf c.vf).pairs, (t.coreAt (2 * p)).stopped = true ∧ (t.coreAt (2 * p + 1)).stopped = true)
          ∧ ⟨s.gcyc + 1, 2, 128 + c.vf, .resetVfClear c.vf⟩ ∈ t.cal)
        ∧ (kind c ≠ 6 → 64 ≤ (queueOf c.vf q s).length → ∃ t, exec i s = .next t ∧ t.mem = s.mem ∧ sends c 5 0 [] s t
          ∧ ∀ p, queueOf c.vf p t = queueOf c.vf p s)
        ∧ (kind c ≠ 6 → (queueOf c.vf q s).length < 64 → ∃ t, exec i s = .next t ∧ t.mem = s.mem ∧ t.done = s.done
          ∧ (∀ p, queueOf c.vf p t = queueOf c.vf p s ++ if p = q then [c] else [])
          ∧ ⟨s.gcyc + 1, 2, 4 * c.vf + q, .serve c.vf q⟩ ∈ t.cal))))
  ∧ (∀ (vf q : Nat) (s : State), let all := [Instr.copyin vf q, .copyout vf q, .signalAdd vf q, .signalInterrupt vf q, .waitsigComplete vf q,
      .queryQueues vf q, .querySignal vf q, .queryCores vf q]
    (16 ≤ vf ∨ 4 ≤ q → ∀ i ∈ all, exec i s = .fault .noSuchUnit)
    ∧ (vf < 16 → q < 4 → queueOf vf q s = [] → ∀ i ∈ all, exec i s = .next s)
    ∧ ∀ c cs, ready vf s → q < 4 → (s.vf vf).resetting = none → queueOf vf q s = c :: cs → c.vf = vf →
      let ends := fun (i : Instr) (status : Nat) (data : Word) (bytes : List Byte) (more : State → Prop) =>
        ∃ t, exec i s = .next t ∧ sends c status data bytes s t ∧ queueOf vf q t = cs ∧ (∀ p, p ≠ q → queueOf vf p t = queueOf vf p s) ∧ more t
      let same := fun t : State => t.mem = s.mem
      let fits := 1 ≤ c.arg1.toNat ∧ c.arg1.toNat ≤ 2 ^ 20
      let signal := fun (n : Nat) (u : State) => (u.vf vf).signals.toList.getD n 0
      let here := fun write : Bool => hostPrefix s vf (!write) write (c.arg1.toNat / 65536 + 2) c.arg0.toNat c.arg1.toNat
      (kind c = 2 → (¬ (fits ∧ c.payload.length = c.arg1.toNat) → ends (.copyin vf q) 2 0 [] same)
        ∧ (fits → c.payload.length = c.arg1.toNat → ends (.copyin vf q) (if (here true).2 then 0 else 3) 0 [] fun t =>
            t.mem = (ctlWriteRuns (here true).1 c.payload s).mem))
      ∧ (kind c = 3 → (¬ fits → ends (.copyout vf q) 2 0 [] same)
        ∧ (fits → let b := readRuns vf c.arg0.toNat (here false).1 s
          let ok := (here false).2 && b.1.2
          ends (.copyout vf q) (if ok then 0 else 3) (if ok then c.arg1 else 0) b.1.1
            fun t => s.svc.physLog = none → (s.vf vf).errq = none → t.mem = s.mem))
      ∧ (kind c = 4 → c.arg0.getLsbD 16 = false → ends (.signalAdd vf q) 0 0 [] fun t => t.mem = s.mem
        ∧ ∀ n, n < 64 → signal n t = signal n s + if n = (c.arg0.extractLsb' 0 6).toNat then c.arg1 else 0)
      ∧ (kind c = 4 → c.arg0.getLsbD 16 = true → let k := (c.arg0.extractLsb' 32 10).toNat
        let owned := k < 768 ∧ (s.vf vf).ownsCore k = true
        (¬ owned → ends (.signalInterrupt vf q) 2 0 [] same)
        ∧ (owned → ends (.signalInterrupt vf q) 0 0 [] fun t => t.mem = s.mem ∧ let u := t.coreAt k
            (if u.second = c.arg0.getLsbD 48 then u.ctx else u.shadow).pendSig = true))
      ∧ (kind c = 5 → let met := c.arg1.toNat ≤ (signal (c.arg0.extractLsb' 0 6).toNat s).toNat
        (met → ends (.waitsigComplete vf q) 0 0 [] same) ∧ (¬ met → exec (.waitsigComplete vf q) s = .next s))
      ∧ (kind c = 7 → (c.arg0 = 0 → ends (.queryQueues vf q) 0 (BitVec.ofNat 64 ((queueOf vf 0 s).length + (queueOf vf 1 s).length * 256
            + (queueOf vf 2 s).length * 256 ^ 2 + (queueOf vf 3 s).length * 256 ^ 3)) [] same)
        ∧ (c.arg0 = 1 → ends (.querySignal vf q) 0 (signal (c.arg1.extractLsb' 0 6).toNat s) [] same)
        ∧ (c.arg0 = 2 → ends (.queryCores vf q) 0 (BitVec.ofNat 64 (2 * (s.vf vf).pairs.length)) [] same)))
  ∧ ∀ (vf : Nat) (s : State), let v := s.vf vf
    (16 ≤ vf → exec (.completionRetry vf) s = .fault .noSuchUnit)
    ∧ (vf < 16 → v.held = [] → exec (.completionRetry vf) s = .next s)
    ∧ (vf < 16 → v.held ≠ [] → (∃ r ∈ v.ring, r.2.2.2 = false) →
        exec (.completionRetry vf) s = .next (addDue (s.gcyc + 2 ^ 20) 9 vf (.completionRetry vf) s))
    ∧ (vf < 16 → (∀ r ∈ v.ring, r.2.2.2 = true) → ∃ t, exec (.completionRetry vf) s = .next t ∧ t.mem = s.mem
        ∧ t.done = s.done ++ v.held ∧ (t.vf vf).held = [] ∧ (t.vf vf).ringTail = v.ringTail + v.held.length)
    ∧ ∀ (a b : Arrival) (c d : Capsule), s.inbox = [a, b] → a.ev = .launch c → b.ev = .launch d → a.cyc = s.gcyc → b.cyc = s.gcyc →
        arrivalDue false s = some (if d.port < c.port then b else a)

/-- Partitions, dirty maps, snapshots, pausing and resuming a VF, invalidation, key slots, and steps 2 to 5 of RESET-VF (R213, R372, R379, R380, R381, R388, R416, R431, R433, R434).
That a KEYLOAD completes in its next cycle is the model's choice (log entry 34). Step 1 of RESET-VF stands in capsules. -/
def Obligations.partitions_and_keys : Prop :=
  let refused := fun (cmd n : Nat) (s : State) => { s with svc := { s.svc with refusals := s.svc.refusals ++ [(s.gcyc, cmd, n)] } }
  (∀ vf, 16 ≤ vf → ∀ s o w, ∀ i ∈ [Instr.dirtySwap vf w, .dirtySwapComplete vf, .snap vf, .pauseVf vf, .vfPaused vf, .resumeVf vf o, .hostPathInvalidation vf,
      .resetVfClear vf], exec i s = .fault .noSuchUnit)
  ∧ (∀ slot, (slot = 0 ∨ 256 ≤ slot) → ∀ s b, ∀ i ∈ [Instr.keyload slot b, .keyclr slot, .keySlotSwitch slot], exec i s = .fault .noSuchUnit)
  ∧ (∀ (p : PartitionCfg) (s : State), p.ok = false → exec (.partitionConfigure p) s = .fault .noSuchUnit)
  ∧ (∀ (p : PartitionCfg) (s : State), s.svc.power = 0 → p.ok = true →
      let v := s.vf p.vf
      let busy := (∃ l ∈ s.launches, l.vf = p.vf) ∨ ∃ q, q < 4 ∧ ∃ c ∈ queueOf p.vf q s, c.w0.extractLsb' 0 8 = 1#8
      (busy → exec (.partitionConfigure p) s = .next s)
      ∧ (¬ busy → ∃ t, exec (.partitionConfigure p) s = .next t ∧ t.mem = s.mem ∧ (∀ n, n ≠ p.vf → t.vf n = s.vf n)
        ∧ t.vf p.vf = { v with on := true, pairs := p.pairs, mboxes := p.mailboxes, harts := p.harts, keys := p.keys, slices := p.slices
                               plinth := p.plinth, podIdx := p.podIdx, signals := Vector.replicate 64 0 }
        ∧ (∀ m ∈ p.mailboxes, (t.mailbox m).on = true ∧ (t.mailbox m).vf = p.vf ∧ (t.mailbox m).seq = 0)
        ∧ (∀ m ∈ v.mboxes, m ∉ p.mailboxes → (t.mailbox m).on = false) ∧ ∀ k ∈ p.keys, (t.keySlot k).vf = BitVec.ofNat 4 p.vf))
  ∧ (∀ (vf : Nat) (s : State), vf < 16 → s.svc.power = 0 →
    let v := s.vf vf
    let put := fun x : Vf => s.setVf vf x
    let soon := fun t : State => addDue (s.gcyc + 1) 2 64 .launchDispatch t
    let rest := { v with pausing := false, paused := true, gtsp := gtsOf s v }
    (∀ w, (s.gcyc < w → exec (.dirtySwap vf w) s = .next (addDue w 0 vf (.dirtySwap vf w) (put { v with swapAt := some w, swapping := true })))
      ∧ (w ≤ s.gcyc → v.swapAt = none ∨ v.swapAt = some w → exec (.dirtySwap vf w) s = .next (addDue s.gcyc 0 vf (.dirtySwapComplete vf)
          (put { v with dirtyB := !v.dirtyB, swapAt := none, swapping := true })))
      ∧ (w ≤ s.gcyc → v.swapAt ≠ none → v.swapAt ≠ some w → exec (.dirtySwap vf w) s = .next s))
    ∧ exec (.dirtySwapComplete vf) s = .next (if v.swapAt = none then put { v with swapping := false } else s)
    ∧ exec (.snap vf) s = .next (put { v with snaps := v.snaps + 1 })
    ∧ (v.paused = true → exec (.pauseVf vf) s = .next s)
    ∧ (v.paused = false → (∀ l ∈ s.launches, l.vf ≠ vf) → exec (.pauseVf vf) s = .next (soon (put rest)))
    ∧ (∀ l j, v.paused = false → s.launches = [l] → l.vf = vf → domPod l = false → l.parked = false → l.live = [(s.core.idx, j)] →
        exec (.pauseVf vf) s = .next (soon { put { v with pausing := true } with core := { s.core with request := true } }))
    ∧ exec (.vfPaused vf) s = .next (if v.pausing = true ∧ s.launches.all (fun l => l.vf ≠ vf || (!domPod l && l.live.isEmpty)) then put rest else s)
    ∧ (∀ o, (o.toNat < v.gtsp.toNat → exec (.resumeVf vf o) s = .next (refused 1 vf s))
      ∧ (v.gtsp.toNat ≤ o.toNat → ∃ t, exec (.resumeVf vf o) s = .next t ∧ t.mem = s.mem
        ∧ t.vf vf = { v with paused := false, pausing := false, tbase := BitVec.ofNat 64 s.gcyc, toffset := o
                             scale := if s.svc.halved then v.nom <<< 1 else v.nom }
        ∧ (s.gcyc < 2 ^ 64 → gtsOf t (t.vf vf) = o) ∧ ⟨s.gcyc + 1, 2, 64, .launchDispatch⟩ ∈ t.cal))
    ∧ (∃ t, exec (.hostPathInvalidation vf) s = .next t ∧ t.mem = s.mem ∧ t.core.ctx = s.core.ctx
      ∧ ∀ c ∈ t.core :: t.others, ∀ e ∈ c.tlbC ++ c.tlbA ++ c.tlbX ++ c.tlbV ++ c.tlbM, e.vf ≠ vf)
    ∧ (v.resetting = none → exec (.resetVfClear vf) s = .next s)
    ∧ ∀ tag, (v.resetting = some (1, tag) → (∀ c ∈ s.others, c.idx ≠ s.core.idx) → ∃ t, exec (.resetVfClear vf) s = .next t ∧ t.mem = s.mem
        ∧ (t.vf vf).resetting = some (if drained vf s then 3 else 1, tag) ∧ ⟨s.gcyc + 1, 2, 128 + vf, .resetVfClear vf⟩ ∈ t.cal
        ∧ (∀ w, w < 64 → ∀ p ∈ (t.window w).queue, p.vf ≠ vf) ∧ ∀ k ∈ vfCores vf s, (t.coreAt k).eng.wc = [])
      ∧ (v.resetting = some (3, tag) → Memory.wf s.mem = true → ∃ t, exec (.resetVfClear vf) s = .next t ∧ (t.vf vf).resetting = some (4, tag)
        ∧ (∀ b, b < 2 ^ 40 → memRead t.mem b = memRead s.mem b)
        ∧ (∀ k ∈ vfCores vf s, ∀ a, a < 2 ^ 21 → memRead t.mem (poolAddr k a) = 0)
        ∧ ∀ j ∈ v.pairs, (∀ a, a < 16 * 32768 → memRead t.mem (slotAddr j 0 + a) = 0) ∧ ∀ a, a < 4 * 65536 → memRead t.mem (accAddr j 0 + a) = 0)
      ∧ (v.resetting = some (4, tag) → ∃ t, exec (.resetVfClear vf) s = .next t ∧ t.mem = s.mem ∧ (t.vf vf).resetting = some (5, tag)
        ∧ ∀ c ∈ t.core :: t.others, ∀ e ∈ c.tlbC ++ c.tlbA ++ c.tlbX ++ c.tlbV ++ c.tlbM, e.vf ≠ vf)
      ∧ (v.resetting = some (5, tag) → s.svc.viral = false → v.held = [] → (∀ r ∈ v.ring, r.2.2.2 = true) →
        (∀ c ∈ queueOf vf 0 s ++ queueOf vf 1 s ++ queueOf vf 2 s ++ queueOf vf 3 s, c.vf = vf) →
        ∃ t, exec (.resetVfClear vf) s = .next t ∧ t.mem = s.mem ∧ (t.vf vf).resetting = none ∧ (∀ q, queueOf vf q t = [])
          ∧ (t.vf vf).signals = Vector.replicate 64 0 ∧ t.launches = s.launches.filter (fun l => l.vf ≠ vf)
          ∧ t.done = s.done ++ (queueOf vf 0 s ++ queueOf vf 1 s ++ queueOf vf 2 s ++ queueOf vf 3 s).map
              (fun c => ⟨vf, c.w0.extractLsb' 16 16, c.w0.extractLsb' 0 8, 4, 0, 0, s.gcyc, []⟩) ++ [⟨vf, tag, 6, 0, 0, 0, s.gcyc, []⟩]))
  ∧ ∀ (slot : Nat) (s : State), 1 ≤ slot → slot < 256 → s.svc.power = 0 →
    let k := s.keySlot slot
    let pend := fun x : Option (BitVec 256) => addDue (s.gcyc + 1) 0 slot (.keySlotSwitch slot) (s.setKey { k with pend := k.pend ++ [(s.gcyc + 1, x)] })
    (∀ b, exec (.keyload slot b) s = .next (match Config.keyUnwrap b with | none => refused 0 slot s | some key => pend (some key)))
    ∧ exec (.keyclr slot) s = .next (pend none)
    ∧ ((∀ p ∈ k.pend, s.gcyc < p.1) → exec (.keySlotSwitch slot) s = .next s)
    ∧ (∀ c, k.pend = [(c, none)] → c ≤ s.gcyc → exec (.keySlotSwitch slot) s = .next (s.setKey { k with key := 0, valid := false, pend := [] }))
    ∧ (∀ c key, k.pend = [(c, some key)] → c ≤ s.gcyc →
        exec (.keySlotSwitch slot) s = .next (s.setKey { k with key := key, valid := true, gen := k.gen + 1, pend := [] }))
    ∧ ∀ c d a b, k.pend = [(c, some a), (d, some b)] → c ≤ s.gcyc → d ≤ s.gcyc →
        exec (.keySlotSwitch slot) s = .next (s.setKey { k with key := b, valid := true, gen := k.gen + 1 + 1, pend := [] })

/-- Viral state, counter snapshots, measurement and reports, registers, throttle points and power states (R320, R322, R334, R347, R353, R408, R414, R415, R424, R425, R429, R433).
The power that a consumer takes is a free value (log entry 12). The model's choice are that a snapshot asked for at a passed cycle is taken at
once, and that a write of a completion ring's register that names another ring sets its tail to 0 (log entry 34). -/
def Obligations.service_and_power : Prop :=
  (∀ s : State, let first := if s.gcyc = s.svc.entered then s.gcyc + 1 else s.gcyc
      (s.svc.power = 0 → s.svc.viral = true → exec .viral s = .next s)
      ∧ (s.svc.power = 0 → s.svc.viral = false → s.svc.physLog = none → ∃ t, exec .viral s = .next t
          ∧ t = { s with svc := { s.svc with viral := true }, pod := { s.pod with ctl := t.pod.ctl, out := t.pod.out } }
          ∧ t.pod.ctl = s.pod.ctl.filter (fun m => decide (m.1 < s.gcyc))
          ∧ ∀ e ∈ t.pod.out, e.1 < s.gcyc ∧ ∀ i, i < (e.2.2.2.bytes.length + 191) / 192 → s.gcyc ≤ e.1 + i → i ∈ e.2.2.2.lost)
      ∧ (let u := { s with pod := { s.pod with swap := true } }
        (s.svc.power = 0 → s.pod.holder ≠ none → exec .routeSwapRequest s = .next u)
        ∧ (s.svc.power = 0 → s.pod.holder = none → (∀ m ∈ s.pod.ctl, m.1 < s.gcyc) →
            exec .routeSwapRequest s = .next { s with pod := { s.pod with bankB := !s.pod.bankB, swap := false } })
        ∧ (s.svc.power = 0 → s.pod.holder = none → (∃ m ∈ s.pod.ctl, s.gcyc ≤ m.1) → ∃ m ∈ s.pod.ctl, (∀ n ∈ s.pod.ctl, n.1 ≤ m.1)
            ∧ exec .routeSwapRequest s = .next (addDue (m.1 + 1) 1 0 .boundaryResume u)))
      ∧ (∀ h, ∃ t, exec (.thermalHalving h) s = .next t ∧ t.mem = s.mem
          ∧ t.svc = { s.svc with halved := h, change := none, exitAt := s.svc.exitAt.map fun c => first
              + if h = s.svc.halved then c - first else if h then (c - first + 1) / 2 else 2 * (c - first) }
          ∧ (∀ c ∈ t.svc.exitAt, ⟨c, 2, 0, .powerExitComplete⟩ ∈ t.cal)
          ∧ (s.gcyc < 2 ^ 64 → ∀ n, n < 16 → gtsOf t (t.vf n) = gtsOf s (s.vf n) ∧ (t.vf n).scale = if h then (s.vf n).nom <<< 1 else (s.vf n).nom))
      ∧ exec .wake s = (if s.svc.power = 4 then exec .packageReset s else exec .powerStateExit s)
      ∧ ((s.svc.power = 0 ∨ 4 ≤ s.svc.power ∨ s.svc.exitAt ≠ none) → exec .powerStateExit s = .next s)
      ∧ (∀ p ns, (p, ns) ∈ [(1, 2000), (2, 40000), (3, 3000000)] → s.svc.power = p → s.svc.exitAt = none →
          let c := first + (ns * (if s.svc.halved then 47 else 94) + 99) / 100
          exec .powerStateExit s = .next (addDue c 2 0 .powerExitComplete { s with svc := { s.svc with exitAt := some c } })
          ∧ ∀ i ∈ [Instr.viral, .routeSwapRequest, .snapctr, .ltolWrite 0, .mr3Extend 0, .attestationReport 0, .snap 0, .pauseVf 0, .resumeVf 0 0,
              .hostPathInvalidation 0, .dirtySwap 0 0, .keyclr 1, .registerWrite (.stepTol 0)], ∃ t, exec i s = .next t ∧ t.svc.exitAt = some c
                ∧ ⟨c, 2, 0, .powerExitComplete⟩ ∈ t.cal)
      ∧ ((∀ c ∈ s.svc.exitAt, s.gcyc < c) → exec .powerExitComplete s = .next s)
      ∧ (∀ c, s.svc.exitAt = some c → c ≤ s.gcyc → ∃ t, exec .powerExitComplete s = .next t ∧ t.svc = { s.svc with power := 0, exitAt := none, quiet := 0 }
          ∧ (s.svc.power ≠ 3 → t.mem = s.mem ∧ t.core = s.core)
          ∧ (s.svc.power = 3 → t.core.wcwait = s.core.wcwait ∧ t.core.counters = s.core.counters ∧ t.core.ctx.a = .idle ∧ t.harts = [] ∧ t.bars = []
            ∧ ∀ m, (t.mailbox m).hart = (s.mailbox m).hart ∧ (t.mailbox m).aie = (s.mailbox m).aie ∧ (t.mailbox m).budget = (s.mailbox m).budget)
          ∧ (∀ vf q, vf < 16 → q < 4 → ⟨s.gcyc, 2, 4 * vf + q, .serve vf q⟩ ∈ t.cal)
          ∧ (s.svc.power = 3 → Memory.wf s.mem = true → (∀ a, a < 2 ^ 40 → memRead t.mem a = memRead s.mem a) ∧ ∀ a, 2 ^ 40 ≤ a → memRead t.mem a = 0))
      ∧ (¬ (s.svc.power = 0 ∧ s.svc.exitAt = none ∧ s.gcyc % 4096 = 0 ∧ 4096 ≤ s.svc.quiet ∧ packageIdle s = true) → exec .powerStateEntry s = .next s)
      ∧ (s.svc.power = 0 → s.svc.exitAt = none → s.gcyc % 4096 = 0 → 4096 ≤ s.svc.quiet → packageIdle s = true → ∃ t, exec .powerStateEntry s = .next t
          ∧ t.mem = s.mem ∧ t.core = s.core ∧ (t.svc.power = 0 ∨ t.svc.power = deepest s)
          ∧ let tol := (s.svc.ltol.extractLsb' 0 40).toNat
            (tol < 2000 → t.svc.power = 0) ∧ (tol < 40000 → t.svc.power ≤ 1) ∧ (s.svc.ltol.getLsbD 40 = false → t.svc.power ≤ 2)
              ∧ (tol < 3000000 → t.svc.power ≤ 2) ∧ (tol < 2000000000 → t.svc.power ≤ 3)))
  ∧ ∀ s : State, s.svc.power = 0 →
    (let shares := [(0, 720), (1, 260), (2, 155), (3, 110), (4, 95), (5, 65), (6, 35), (7, 160)]
      let above := ∃ b ∈ shares, 1000 * b.2 < Config.powerUse s.gcyc b.1
      let under := 2 ^ 20 ≤ s.gcyc ∧ ∀ k, k < 2 ^ 20 → ∀ b ∈ shares, Config.powerUse (s.gcyc - k) b.1 < 900 * b.2
      let asks := fun (i : Instr) (h : Bool) => ∃ t c, exec i s = .next t ∧ t.mem = s.mem ∧ t.svc = { s.svc with change := some (c, h) }
        ∧ c % 4096 = 0 ∧ s.gcyc + 1024 ≤ c ∧ ⟨c, 2, 0, .thermalHalving h⟩ ∈ t.cal;
      (above → asks .halvingRequest true) ∧ (¬ above → exec .halvingRequest s = .next s)
      ∧ (under → asks .halvingEndRequest false) ∧ (¬ under → exec .halvingEndRequest s = .next s)
      ∧ let u := addDue (s.gcyc + 1) 2 0 .powerWatch s
        (s.svc.change ≠ none → powerWatch s = .next u)
        ∧ (s.svc.change = none → powerWatch s = if s.svc.halved then exec .halvingEndRequest u else exec .halvingRequest u))
    ∧ (∀ v, exec (.ltolWrite v) s = .next { s with svc := { s.svc with ltol := v &&& 0x1FFFFFFFFFF } })
    ∧ (∀ d, exec (.mr3Extend d) s = .next { s with svc := { s.svc with mr3 := Config.sha384 (leBytes 48 s.svc.mr3.toNat ++ leBytes 48 d.toNat) } })
    ∧ (∀ n, ∃ r, exec (.attestationReport n) s = .next { s with svc := { s.svc with reports := s.svc.reports ++ [r] } }
        ∧ r.take 248 = leBytes 48 n.toNat ++ leBytes 48 s.svc.mr0.toNat ++ leBytes 48 s.svc.mr1.toNat ++ leBytes 48 s.svc.mr2.toNat
            ++ leBytes 48 s.svc.mr3.toNat ++ leBytes 8 s.svc.bootst.toNat)
    ∧ (s.gcyc < s.svc.snapAt → exec .snapctr s = .next (addDue s.svc.snapAt 0 0 .snapshot s))
    ∧ (s.svc.snapAt ≤ s.gcyc → ∃ snaps, exec .snapctr s = .next { s with snapshot := snaps }
        ∧ (∀ n : Fin 8, (8 * s.core.idx + n.val, s.core.counters[n].count) ∈ snaps) ∧ (∀ n : Fin 32, (7680 + n.val, s.packageCnt[n].count) ∈ snaps)
        ∧ ∀ x ∈ s.clusterCnt, (6144 + 16 * x.1 + x.2.1, x.2.2.count) ∈ snaps)
    ∧ (∀ (n : Nat) (x : Counter), s.gcyc < n →
        let src := (x.ctl.extractLsb' 0 8).toNat
        let runs := ∃ g ∈ s.core.ctx.group, g.vf = (x.ctl.extractLsb' 18 4).toNat
        let left := s.core.ended = some (s.gcyc, (x.ctl.extractLsb' 18 4).toNat)
        let on := x.ctl.getLsbD 17 = true ∧ (x.ctl.getLsbD 22 = true → runs ∨ left)
        let seen := ((s.tally.filter fun e => e.level = 0 && e.unit = s.core.idx && e.src = src).map fun e => e.n).sum
        let y := countOne n 0 s.core.idx (some s.core) s x
        let takes := fun k : Nat => y.count = BitVec.ofNat 48 (x.count.toNat + k)
          ∧ (y.ctl.getLsbD 23 = true ↔ x.ctl.getLsbD 23 = true ∨ 2 ^ 48 ≤ x.count.toNat + k);
        (¬ on ∨ 0x12 < src → y = x)
        ∧ (on → src = 0 → takes (if x.ctl.getLsbD 22 = true ∧ ¬ runs then 1 else n - s.gcyc))
        ∧ (on → src ≤ 0x12 → src ∉ [0, 5, 7, 15] → takes (if x.ctl.getLsbD 16 then min 1 seen else seen))
        ∧ (x.ctl.getLsbD 17 = true → ∀ i (hi : i < 8), s.core.counters[i] = x → (countAll n s).core.counters[i] = y))
    ∧ (let write := fun (r : HostReg) (t : State) => exec (.registerWrite r) s = .next t;
      (∀ vf, vf < 16 → let v := s.vf vf
        (∀ pa, pa % 65536 = 0 → pa < 2 ^ 38 → write (.tableRoot vf pa) (s.setVf vf { v with root := some pa }))
        ∧ (∀ pa, pa % 65536 ≠ 0 ∨ 2 ^ 38 ≤ pa → exec (.registerWrite (.tableRoot vf pa)) s = .fault .noSuchUnit)
        ∧ (∀ a n key w, 4 ≤ n → n ≤ 16 → v.ring = none →
            write (.complRing vf a n key w) (s.setVf vf { v with ring := some (a, n, key, w), ringTail := 0 }))
        ∧ (∀ a ps, (∀ p ∈ ps, p < 8) → write (.endpoint vf a ps) (s.setVf vf { v with addr := a, ports := ps }))
        ∧ (∀ slot, 1 ≤ slot → slot < 256 → ∃ t, exec (.registerWrite (.keyVf slot vf)) s = .next t
            ∧ t = s.setKey { s.keySlot slot with vf := BitVec.ofNat 4 vf })
        ∧ (∀ x, write (.slice vf x) (s.setVf vf { v with slice := x }))
        ∧ (∀ x, write (.vfWeight vf x) (s.setVf vf { v with weight := x })) ∧ (∀ x, write (.toffset vf x) (s.setVf vf { v with toffset := x }))
        ∧ (∀ x, write (.tbase vf x) (s.setVf vf { v with tbase := x })) ∧ (∀ a b, write (.dirtyMaps vf a b) (s.setVf vf { v with dirty := some (a, b) }))
        ∧ (∀ x, write (.nomScale vf x) (s.setVf vf { v with nom := x, scale := if s.svc.halved then x <<< 1 else x }))
        ∧ ∀ a, write (.errQueue vf a) (s.setVf vf { v with errq := some a, errTail := 0, errOvf := 0, errLast := none }))
      ∧ (let m := s.svc.mgmt
        (∀ a n key w, 4 ≤ n → n ≤ 16 → m.ring = none →
            write (.complRing 16 a n key w) { s with svc := { s.svc with mgmt := { m with ring := some (a, n, key, w), tail := 0 } } })
        ∧ ∀ a ps, (∀ p ∈ ps, p < 8) → write (.endpoint 16 a ps) { s with svc := { s.svc with mgmt := { m with addr := a, ports := ps } } })
      ∧ (∀ x, write (.stepTol x) { s with pod := { s.pod with stepTol := x } })
      ∧ (∀ x y z, x < 8 → y < 8 → z < 8 → write (.coords x y z) { s with pod := { s.pod with x := x, y := y, z := z } })
      ∧ (∀ x y z, ¬ (x < 8 ∧ y < 8 ∧ z < 8) → exec (.registerWrite (.coords x y z)) s = .fault .noSuchUnit)
      ∧ (∀ x y z, x ∈ List.range' 1 8 → y ∈ List.range' 1 8 → z ∈ List.range' 1 8 →
          write (.extent x y z) { s with pod := { s.pod with ex := x, ey := y, ez := z } })
      ∧ (∀ x, s.core.idx < 768 → write (.wcwait s.core.idx x) { s with core := { s.core with wcwait := x } })
      ∧ (∀ x, s.soft = [] → s.bad = [] → write (.patrolPeriod x) { s with svc := { s.svc with patrol := x } })
      ∧ (∀ c, write (.snapCycle c) { s with svc := { s.svc with snapAt := c } })
      ∧ (∀ b d p, d < 512 → p < 18 → b = s.pod.bankB → write (.route b d p) s)
      ∧ (∀ w x, w < 64 → write (.windowRoute w x) (s.setWindow w { s.window w with
          hops := (x.extractLsb' 60 4).toNat, route := x.extractLsb' 20 40, plog := (x.extractLsb' 16 4).toNat
          phase := (x.extractLsb' 6 10).toNat, slotf := (x.extractLsb' 2 4).toNat }))
      ∧ (∀ n x, (hn : n < 8) → s.core.idx < 768 → let c := s.core.counters[n]
          let d : Counter := { c with ctl := (x &&& 0x7F00FF) ||| (c.ctl &&& ~~~x &&& 0x800000) }
          write (.counterCtl 0 s.core.idx n x) { s with core := { s.core with counters := s.core.counters.set n d hn } })
      ∧ (∀ g n, g < 8 → 1 ≤ n → n ≤ 4 → ∃ t, exec (.registerWrite (.hartDiv g n)) s = .next t ∧ t = { s with hartDiv := t.hartDiv }
          ∧ ∀ h, t.hartDivider h = if h / 16 = g then n else s.hartDivider h)
      ∧ (∀ n x, n < 18 → write (.ringHead n x) (s.setRing n { s.ring n with head := x }))
      ∧ (∀ n a l w, n < 18 → write (.ringCtl n a l w) (s.setRing n { s.ring n with set := true, base := a, logn := l, wt := w }))
      ∧ (∀ b x, s.core.idx < 768 → s.gcyc < x.toNat → write (.tickCmp s.core.idx b x) (addDue x.toNat 0 s.core.idx (.tick s.core.idx b)
          (s.mapCtxNum b fun y => { y with tick := x })))
      ∧ ∀ vf x, 16 ≤ vf → exec (.registerWrite (.slice vf x)) s = .fault .noSuchUnit)

/-- Reset and boot: stage 1 verifies the firmware, repairs are applied, the march repairs or counts rows, measurements are taken, and the part runs (R407, R412, R413, R414, R416, R425).
That the repair table and the fuse bytes make one message of the measurement is the model's choice (log entry 22). -/
def Obligations.boot : Prop :=
  ∀ s : State, let v := s.svc
    let stage := fun (n more : Nat) => (v.bootst &&& ~~~(0xF : Word)) ||| BitVec.ofNat 64 (n + more)
    let hang := if v.marchHang then 64 else 0
    let ended := fun (w : Service) => if v.marchHang then { s with svc := { w with viral := true } } else addDue (s.gcyc + 1) 0 0 .bootMeasure { s with svc := w }
    (let good := v.flashErr = false ∧ Config.sha384 v.fwKey = v.fuseHash ∧ v.fuseRoll ≤ v.fwVer ∧ Config.ecdsaOk v.fwKey (Config.sha384 v.firmware) v.fwSig = true
      ∃ t, exec .packageReset s = .next t ∧ t.mem = [] ∧ t.core = State.reset.core ∧ t.others = [] ∧ t.launches = [] ∧ t.gcyc = State.reset.gcyc ∧ t.inbox = s.inbox
        ∧ t.svc.secret = v.secret ∧ t.svc.flashRepair = v.flashRepair ∧ t.svc.fuseRepair = v.fuseRepair ∧ t.svc.running = false
        ∧ t.svc.flashErr = v.flashErr ∧ t.svc.marchHang = v.marchHang
        ∧ (good → t.svc.bootst = 1 ∧ t.cal = [⟨1, 0, 0, .bootRepair⟩]) ∧ (¬ good → t.svc.bootst = (if v.flashErr then 0x11 else 0x21) ∧ t.cal = []))
    ∧ exec .bootRepair s = .next (addDue (s.gcyc + 1) 0 0 .bootMarch
        { s with svc := { v with bootst := stage 2 ((v.fuseRepair.length + v.flashRepair.length) * 2 ^ 32) } })
    ∧ (v.physLog = none → exec (.bootMarch []) s = .next (ended { v with bootst := stage 3 hang }))
    ∧ (∀ row, v.physLog = none → let used := (v.fuseRepair ++ v.flashRepair).filter fun r => Config.bankOf r = Config.bankOf row
        exec (.bootMarch [row]) s = .next (ended (if used.length < 4
          then { v with bootst := stage 3 hang + BitVec.ofNat 64 (2 ^ 32), flashRepair := v.flashRepair ++ [row] }
          else { v with bootst := stage 3 hang + BitVec.ofNat 64 (2 ^ 16) })))
    ∧ (∃ t, exec .bootMeasure s = .next t ∧ t.mem = s.mem ∧ ⟨s.gcyc + 1, 0, 0, .bootRun⟩ ∈ t.cal ∧ t.svc.bootst = stage 4 128
        ∧ t.svc.mr0 = extend v.mr0 (Config.sha384 v.firmware)
        ∧ t.svc.mr1 = extend v.mr1 (Config.sha384 (tableBytes (v.fuseRepair ++ v.flashRepair) ++ fuseBytes v))
        ∧ t.svc.mr2 = v.maqFw.foldl extend v.mr2 ∧ t.svc.mr3 = v.mr3
        ∧ t.svc.attKey = Config.hkdf384 v.secret (leBytes 48 t.svc.mr0.toNat ++ leBytes 48 t.svc.mr1.toNat) labelAttest)
    ∧ (v.physLog = none → Memory.wf s.mem = true → ∃ t, exec .bootRun s = .next t ∧ t.gcyc = 0 ∧ t.keys = [] ∧ t.svc.running = true ∧ t.svc.bootst = stage 5 0
        ∧ t.cal = [⟨0, 1, 0, .realignExchange⟩, ⟨0, 2, 0, .powerWatch⟩] ∧ t.core = .idle s.core.idx ∧ t.others = []
        ∧ (∀ a, a < 2 ^ 40 → memRead t.mem a = memRead s.mem a) ∧ (∀ a, 2 ^ 40 ≤ a → memRead t.mem a = 0)
        ∧ (v.bootst.extractLsb' 16 16 ≠ 0 → t.svc.viral = true)
        ∧ (v.bootst.extractLsb' 16 16 = 0 → t.svc.viral = v.viral))

/-- The pod: exchange messages and SKEW, packets that depart, pass, arrive and enter the plinth, and the boundary from B to U with vote, abort and apply (R316, R317, R318, R319, R320, R321, R326, R328, R329, R330, R332, R334).
The model's choice are the opening of a boundary that another package names, of a later one while one is active, and of the own
acknowledgement (log entry 30), and the fields a packet carries beside those of R317 (log entry 31). -/
def Obligations.pod_boundary_and_packets : Prop :=
  let note := fun (m : BitVec 8) (p : Pod) => if p.closed then { p with nextCauses := p.nextCauses ||| m } else { p with causes := p.causes ||| m }
  let flits := fun q : Packet => (q.bytes.length + 191) / 192
  let charge := fun q : Packet => 32 * ((q.bytes.length + 16 + 31) / 32)
  let enters := fun (q : Packet) (s : State) (p r : Pod) =>
    let clash := ∃ e ∈ p.plinth, plinthMeets q e s = true ∧ (q.rule = 0 ∨ e.rule ≠ q.rule)
    (plinthTarget q s = none → r = note 0x20 p)
    ∧ (plinthTarget q s ≠ none → plinthShare s < p.used + charge q → r = note 0x02 p)
    ∧ (plinthTarget q s ≠ none → p.used + charge q ≤ plinthShare s → clash → r = note 0x10 p)
    ∧ (plinthTarget q s ≠ none → p.used + charge q ≤ plinthShare s → ¬ clash → r = { p with plinth := p.plinth ++ [q], used := p.used + charge q })
  let free := fun (q : Packet) (port : Nat) (s : State) =>
    ∀ e ∈ s.pod.out, e.2.1 = port → e.1 + flits e.2.2.2 ≤ s.gcyc ∨ s.gcyc + flits q ≤ e.1
  (∀ s : State, let p := s.pod
    let root := p.x = 0 ∧ p.y = 0 ∧ p.z = 0
    let children := (if p.x + 1 < p.ex then [0] else []) ++ (if p.x = 0 ∧ p.y + 1 < p.ey then [6] else [])
      ++ (if p.x = 0 ∧ p.y = 0 ∧ p.z + 1 < p.ez then [12] else [])
    (s.gcyc % 65536 ≠ 0 → exec .realignExchange s = .next s)
    ∧ (s.gcyc % 65536 = 0 → ∃ t, exec .realignExchange s = .next t ∧ t.mem = s.mem ∧ t.core = s.core
        ∧ t.pod = { p with sentG := p.sentG ++ children.map (fun c => (c, s.gcyc)), parentAt := if root ∨ p.heard = some s.gcyc then none else some s.gcyc }
        ∧ ⟨s.gcyc + 65536, 1, 0, .realignExchange⟩ ∈ t.cal ∧ (¬ root → p.heard ≠ some s.gcyc → ⟨s.gcyc + 1024, 2, 0, .realignTimeout⟩ ∈ t.cal))
    ∧ (∀ g : Word, let off : Int := (s.gcyc : Int) - (g.toNat + 180)
        let early := ¬ root ∧ s.gcyc ≤ g.toNat ∧ p.heard ≠ some g.toNat ∧ p.parentAt ≠ some g.toNat
        let q := { p with heard := some g.toNat, parentAt := if early then p.parentAt else none
                          trim := if 0 < off then -1 else if off < 0 then 1 else 0 }
        (p.parentAt = none → ¬ early → exec (.realignMessage g) s = .next s)
        ∧ (p.parentAt ≠ none ∨ early → exec (.realignMessage g) s = .next { s with pod := if p.stepTol.toNat < off.natAbs then note 0x08 q else q }))
    ∧ ((∀ c ∈ p.parentAt, s.gcyc < c + 1024) → exec .realignTimeout s = .next s)
    ∧ (∀ c, p.parentAt = some c → c + 1024 ≤ s.gcyc → exec .realignTimeout s = .next { s with pod := note 0x08 { p with parentAt := none, trim := 0 } })
    ∧ (s.gcyc ∉ p.bounds → exec .boundaryStart s = .next s)
    ∧ (∀ b, s.gcyc ∈ p.bounds → p.bound = some b → b ≠ s.gcyc → (s.gcyc ∈ p.later → exec .boundaryStart s = .next s)
        ∧ (s.gcyc ∉ p.later → ∃ t, exec .boundaryStart s = .next t ∧ t.mem = s.mem ∧ t.core = s.core ∧ t.pod = { p with later := p.later ++ [s.gcyc] }
          ∧ (∀ w, w < 64 → (s.window w).valid = true → t.window w = { s.window w with left := (s.window w).allow, queue := [] })
          ∧ ⟨s.gcyc + 2560, 2, 0, .voteCutoff⟩ ∈ t.cal ∧ ⟨s.gcyc + 4096, 1, 0, .applySpan⟩ ∈ t.cal ∧ ⟨s.gcyc + 12288, 1, 0, .boundaryResume⟩ ∈ t.cal))
    ∧ (s.gcyc ∈ p.bounds → p.bound = none → ∃ t, exec .boundaryStart s = .next t ∧ t.mem = s.mem ∧ t.core = s.core
        ∧ (∃ lost : Bool, (lost = true ↔ ∃ w, w < 64 ∧ (s.window w).valid = true ∧ (s.window w).queue ≠ [])
          ∧ t.pod = { p with bound := some s.gcyc, steppers := [], closed := false, result := none, causes := if lost then p.causes ||| 4 else p.causes })
        ∧ (∀ w, w < 64 → let x := s.window w
          (x.valid = false → t.window w = x) ∧ (x.valid = true → t.window w = { x with left := x.allow, queue := [], tried := [] }
            ∧ (x.sent ≠ [] → ⟨slotStart x s.gcyc, 1, w + 1, .retransmit w⟩ ∈ t.cal)))
        ∧ ⟨s.gcyc + 2560, 2, 0, .voteCutoff⟩ ∈ t.cal ∧ ⟨s.gcyc + 4096, 1, 0, .applySpan⟩ ∈ t.cal ∧ ⟨s.gcyc + 12288, 1, 0, .boundaryResume⟩ ∈ t.cal)
    ∧ (s.gcyc ∈ p.bounds → p.bound = some s.gcyc → let here := p.steppers.map Stepper.core
        (here ≠ [] → (∃ k ∈ participants s, k ∉ here) → exec .boundaryStart s = .next { s with pod := note 0x40 p })
        ∧ (here = [] ∨ (∀ k ∈ participants s, k ∈ here) → exec .boundaryStart s = .next s))
    ∧ ((∃ b ∈ p.later, b + 2560 = s.gcyc) → exec .voteCutoff s = .next { s with pod := { p with nextCauses := 0 } })
    ∧ ((∀ b ∈ p.later, b + 2560 ≠ s.gcyc) → p.bound = none ∨ p.closed = true → exec .voteCutoff s = .next s)
    ∧ ((∀ b ∈ p.later, b + 2560 ≠ s.gcyc) → p.bound ≠ none → p.closed = false →
        let c := p.causes ||| (if s.windows.toList.any (fun w => !w.sent.isEmpty) then 4 else 0) ||| (if p.steppers.any (fun x => x.err) then 1 else 0)
        exec .voteCutoff s = .next { s with cal := s.cal.filter (fun d => match d.ev with | .ackReceive .. => false | _ => true), pod := { p with
          ctl := p.ctl.filter (fun m => decide (m.1 ≤ s.gcyc)), causes := c, closed := true, own := c, ownErr := decide (c ≠ 0) || p.steppers.isEmpty || s.svc.viral } })
    ∧ (p.bound ≠ none → p.closed = true → p.result = none → p.ex * p.ey * p.ez ≤ 1 → (∀ x ∈ p.steppers, x.core = s.core.idx) →
        s.core.ctx.frame = none → s.core.shadow.frame = none → s.svc.physLog = none → (∀ n, (s.vf n).errq = none) →
        let word : Word := BitVec.ofNat 64 ((if p.ownErr then 2 ^ 63 else 0) + p.own.toNat * 2 ^ 48 + p.own.toNat * 2 ^ 40 + p.stepno % 2 ^ 32)
        ∃ t, exec .applySpan s = .next t ∧ t.pod.plinth = [] ∧ t.pod.result = some word
          ∧ t.mem = s.mem ∧ (p.ownErr = false → plinthBad s ≠ none → t.svc.viral = true ∧ t.pod.applies = p.applies)
          ∧ (p.ownErr = true → participants s = [s.core.idx] → ∃ r, t.core.eng.recs ++ t.core.eng.recWait = s.core.eng.recs ++ s.core.eng.recWait ++ [r]
            ∧ r.w1.extractLsb' 40 6 = 0x16#6
            ∧ r.w0 = BitVec.ofNat 64 (p.stepno % 2 ^ 32) ∧ t.pod.applies = p.applies)
          ∧ (p.ownErr = false → plinthBad s = none → t.pod.applies.map (fun v => v.2) = plinthValues s
            ∧ (∀ v ∈ t.pod.applies, s.gcyc ≤ v.1 ∧ v.1 < s.gcyc + 8192 ∧ ⟨v.1, 7, 0, .applySpan⟩ ∈ t.cal)
            ∧ t.ctx.a.flights = s.ctx.a.flights.map fun f => if ∃ x ∈ p.steppers, f.access = some x.id
                then { f with regs := f.regs.map fun r => { r with val := word.setWidth 4096 } } else f))
    ∧ (∀ b, p.bound = none ∨ p.closed = false ∨ p.result ≠ none → p.later = [b] → b + 4096 = s.gcyc → participants s = [s.core.idx] → ∃ t r,
        exec .applySpan s = .next t ∧ t.core.eng.recs ++ t.core.eng.recWait = s.core.eng.recs ++ s.core.eng.recWait ++ [r]
        ∧ r.w1.extractLsb' 40 6 = 0x16#6 ∧ r.w0 = BitVec.ofNat 64 ((p.stepno + 1) % 2 ^ 32)
        ∧ t.pod.nextPlinth = p.nextPlinth.filter fun q => decide (b ≤ q.cyc))
    ∧ (p.bound = none ∨ p.closed = false ∨ p.result ≠ none → (∀ b ∈ p.later, b + 4096 ≠ s.gcyc) → s.svc.viral = true → exec .applySpan s = .next s)
    ∧ (p.bound = none ∨ p.closed = false ∨ p.result ≠ none → (∀ b ∈ p.later, b + 4096 ≠ s.gcyc) → s.svc.viral = false → Memory.wf s.mem = true →
        let now := p.applies.filter fun v => decide (v.1 ≤ s.gcyc)
        ∃ t, exec .applySpan s = .next t ∧ t.core = s.core ∧ t.pod = { p with applies := p.applies.filter fun v => decide (s.gcyc < v.1) }
          ∧ (∀ b, (∀ v ∈ now, b < v.2.1 ∨ v.2.1 + v.2.2.length ≤ b) → memRead t.mem b = memRead s.mem b)
          ∧ ∀ v, now = [v] → HoldsBytes v.2.1 v.2.2 t)
    ∧ (p.bound = none → p.swap = false ∨ p.holder ≠ none → exec .boundaryResume s = .next s)
    ∧ (p.bound = none → p.swap = true → p.holder = none → (∀ m ∈ p.ctl, m.1 < s.gcyc) →
        exec .boundaryResume s = .next { s with pod := { p with bankB := !p.bankB, swap := false } })
    ∧ (∀ b, p.bound = some b → s.gcyc < b + 12288 → exec .boundaryResume s = .next s)
    ∧ (∀ b, exec (.registerWrite (.podBoundary b)) s
        = .next (if s.gcyc < b ∧ p.holder ≠ none then
            addDue b 9 0 .boundaryStart (addDue b 1 0 .boundaryStart
              { s with pod := { p with bounds := if b ∈ p.bounds then p.bounds else b :: p.bounds } })
          else s))
    ∧ (∀ b c cs, p.bound = some b → b + 12288 ≤ s.gcyc → p.nextPlinth = [] → p.later = c :: cs → ∃ t, exec .boundaryResume s = .next t ∧ t.mem = s.mem
        ∧ t.core = s.core ∧ t.pod.bound = some c ∧ t.pod.later = cs ∧ t.pod.ownErr = true ∧ (t.pod.closed = true ↔ c + 2560 ≤ s.gcyc)
        ∧ t.pod.stepno = p.stepno + 1)
    ∧ ∀ b, p.bound = some b → b + 12288 ≤ s.gcyc → p.nextPlinth = [] → p.later = [] → ∃ t, exec .boundaryResume s = .next t ∧ t.mem = s.mem ∧ t.core = s.core
        ∧ t.pod = { p with
            bound := none, bounds := p.bounds.filter (fun x => x ≠ b), opened := p.opened.filter (fun x => x ≠ b), steppers := [], closed := false, causes := p.nextCauses, nextCauses := 0
            own := 0, ownErr := false, result := none, stepno := p.stepno + 1, plinth := [], used := 0, seen := []
            bankB := if p.swap then !p.bankB else p.bankB, swap := false }
        ∧ ∀ w, w < 64 → t.window w = { s.window w with sent := [], tried := [] }
          ∧ ((s.window w).queue ≠ [] → (s.window w).hops ≠ 0 → ⟨slotFrom (s.window w) s.gcyc, 1, w + 1, .slotDepart w⟩ ∈ t.cal))
  ∧ (∀ rule old new, (rule < 2 → ruleBytes rule old new = new) ∧ ruleBytes 6 old new = (old.zip new).map (fun x => x.1 ||| x.2)
      ∧ let a := BitVec.ofNat 32 (leNat old); let b := BitVec.ofNat 32 (leNat new)
        ruleBytes 2 old new = leBytes 4 (a + b).toNat ∧ ruleBytes 4 old new = leBytes 4 (if b.toInt < a.toInt then b else a).toNat
        ∧ ruleBytes 5 old new = leBytes 4 (if a.toInt < b.toInt then b else a).toNat)
  ∧ (∀ a b : Packet, (a.sender < b.sender → entryBefore a b = true ∧ entryBefore b a = false)
      ∧ (a.sender = b.sender → a.cyc < b.cyc → entryBefore a b = true ∧ entryBefore b a = false)
      ∧ (a.sender = b.sender → a.cyc = b.cyc → a.core = b.core → a.agent = b.agent → a.seq < b.seq → b.seq < a.seq + 2 ^ 31 → b.seq < 2 ^ 32 →
          entryBefore a b = true ∧ entryBefore b a = false))
  ∧ (∀ w s, (64 ≤ w → ∀ i ∈ [Instr.slotDepart w, .retransmit w, .ackReceive w 0], exec i s = .fault .noSuchUnit)
    ∧ (w < 64 → let x := s.window w
      (x.queue = [] → exec (.slotDepart w) s = .next s)
      ∧ (∀ q qs, x.queue = q :: qs → q.cyc < s.gcyc →
        (x.hops ≠ 0 → s.svc.viral = false → s.pod.bound = none → s.gcyc < windowFree w s →
          exec (.slotDepart w) s = .next (addDue (slotFrom x (windowFree w s)) 1 (w + 1) (.slotDepart w) s))
        ∧ (x.hops ≠ 0 → s.svc.viral = false → s.pod.bound = none → windowFree w s ≤ s.gcyc →
          (flits q ≤ slotLeft x s.gcyc → free q (q.route.headD 0) s → ∃ t, exec (.slotDepart w) s = .next t ∧ t.mem = s.mem
            ∧ t.window w = { x with queue := qs, sent := x.sent ++ [q] }
            ∧ t.pod = { s.pod with out := s.pod.out ++ [(s.gcyc, q.route.headD 0, 18, { q with route := q.route.drop 1 })] })
          ∧ (slotLeft x s.gcyc < flits q → exec (.slotDepart w) s
              = .next (addDue (slotFrom x (s.gcyc + max 1 (slotLeft x s.gcyc))) 1 (w + 1) (.slotDepart w) s)))
        ∧ (x.hops = 0 → s.pod.bound = none → ∃ t, exec (.slotDepart w) s = .next t ∧ t.mem = s.mem ∧ t.window w = { x with queue := qs }
            ∧ enters q s s.pod t.pod))
      ∧ ((s.pod.bound = none ∨ s.svc.viral = true ∨ ∃ b ∈ s.pod.bound, b + 1024 ≤ s.gcyc) → exec (.retransmit w) s = .next s)
      ∧ (∀ b, s.pod.bound = some b → s.gcyc < b + 1024 → s.svc.viral = false →
        let again : Due := ⟨slotStart x (s.gcyc + 1), 1, w + 1, .retransmit w⟩
        (∀ q, x.sent.find? (fun q => q.seq ∉ x.tried) = some q → free q (q.route.headD 0) s → ∃ t, exec (.retransmit w) s = .next t ∧ t.mem = s.mem
          ∧ again ∈ t.cal ∧ t.window w = { x with tried := q.seq :: x.tried }
          ∧ t.pod = { s.pod with out := s.pod.out ++ [(s.gcyc, q.route.headD 0, 18, { q with again := true, route := q.route.drop 1 })] })
        ∧ ((∀ q ∈ x.sent, q.seq ∈ x.tried) → exec (.retransmit w) s = .next (addDue again.cyc 1 (w + 1) (.retransmit w) s)))
      ∧ ∀ n, (s.pod.closed = true → exec (.ackReceive w n) s = .next s)
        ∧ (s.pod.closed = false → exec (.ackReceive w n) s = .next (s.setWindow w { x with sent := x.sent.filter fun p => p.seq ≠ n }))))
  ∧ (∀ (m : CtlMsg) (s : State),
      let bank := if s.pod.bankB then s.pod.routeB else s.pod.routeA
      let port := ((bank.find? fun r => r.1 = m.dst).map Prod.snd).getD 0
      (m.dst = s.podIdx → exec (.controlMessage m) s = if m.win < 64 then exec (.ackReceive m.win m.seq) s else .next s)
      ∧ (m.dst ≠ s.podIdx → exec (.controlMessage m) s = .next (if s.pod.closed || s.svc.viral then s
          else { s with fresh := s.fresh + 1, pod := { s.pod with ctl := s.pod.ctl ++ [(s.gcyc + Config.ctlDelay s.fresh, port, m)] } })))
  ∧ ∀ (q : Packet) (s : State), let p := s.pod
    (∀ port, 18 ≤ port → exec (.packetForward port q) s = .fault .noSuchUnit)
    ∧ (∀ port, port < 18 → q.route = [] → exec (.packetForward port q) s = exec (.packetReceive q) s)
    ∧ (∀ port o more, port < 18 → q.route = o :: more → ∃ t, exec (.packetForward port q) s = .next t ∧ t.mem = s.mem ∧ t.windows = s.windows
        ∧ (s.svc.viral = true → t.pod = p)
        ∧ (s.svc.viral = false → free q o s → t.pod = { p with out := p.out ++ [(s.gcyc, o, port, { q with route := more, poison := q.poison || !q.hdrOk })] }))
    ∧ ∃ t, exec (.packetReceive q) s = .next t ∧ t.mem = s.mem ∧ t.windows = s.windows
      ∧ (p.closed = true → t.pod = p)
      ∧ (p.closed = false →
        let taken := 0 ∈ q.lost ∨ q.tgt = s.podIdx
        (¬ taken → t.pod = note 0x20 p)
        ∧ (taken → q.poison = true → t.pod = if q.again then note 0x04 p else p)
        ∧ (taken → q.poison = false → q.hdrOk = false ∨ q.crcOk = false ∨ q.lost ≠ [] → t.pod = p)
        ∧ (q.tgt = s.podIdx → q.poison = false → q.hdrOk = true → q.crcOk = true → q.lost = [] → s.svc.viral = false → q.sender ≠ s.podIdx →
          let port := (((if p.bankB then p.routeB else p.routeA).find? fun r => r.1 = q.sender).map Prod.snd).getD 0
          let r := { p with ctl := p.ctl ++ [(s.gcyc + Config.ctlDelay s.fresh, port, ⟨q.sender, q.win, q.seq⟩)] }
          ((q.sender, q.win, q.seq) ∈ p.seen → t.pod = r)
          ∧ ((q.sender, q.win, q.seq) ∉ p.seen → p.bound = none → enters q s { r with seen := (q.sender, q.win, q.seq) :: p.seen } t.pod))
        ∧ (q.tgt = s.podIdx → q.poison = false → q.hdrOk = true → q.crcOk = true → q.lost = [] → s.svc.viral = false → q.sender = s.podIdx →
          q.win < 64 → ∃ c, s.gcyc < c ∧ ⟨c, 1, q.win, .ackReceive q.win q.seq⟩ ∈ t.cal ∧ t.pod.ctl = p.ctl))

/-- Mailboxes and the harts that serve them: START, END and KILL, delivery and RETIRE, APOP, OPUSH, the step timer and its watchdog, system observations, MBSTAT, the harts' stores to the control page, their clock and their timers (R209, R385, R386, R388, R389, R390, R391, R392, R393).
The model's choice are the twelfths and the phase of the step timer (log entry 32), and the cycle of a delivery that an APOP makes room for
(log entry 34). -/
def Obligations.mailboxes : Prop :=
  (∀ (m : Nat) (v : Word) (s : State),
    let b := s.mailbox m
    let c := { b with pver := v.extractLsb' 48 16, retire := v.getLsbD 15 }
    let cmd := (v.extractLsb' 8 4).toNat
    let put := fun x : Mailbox => s.setMbox x
    let deliveryDue := fun t : State => addDue (s.gcyc + 1) 1 m (.actionDelivery m) t
    let observationDue := fun t : State => { t with staged := t.staged ++ [.obs m] }
    let clockDue := fun t : State => addDue (s.gcyc + 1) 0 m (.watchdogExpiry m) t
    let per := if s.svc.power < 2 ∨ (s.svc.power = 2 ∧ b.hart < 16) then (if s.svc.halved then 48 else 24) / s.hartDivider b.hart else 0
    let reached := fun u d : Nat => b.budget ≠ 0 ∧ b.budget ≤ (u + Config.hartPhase d % 12) / 12
    let timed := fun x : Mailbox => clockDue { s.setMbox { x with timer := some (per, s.fresh) } with fresh := s.fresh + 1 }
    let ended := fun x : Mailbox => { x with epi := 2, staging := false, timer := none, acts := [], ahead := false, sys := some 1, sysEver := x.ever }
    let header := fun (ever : BitVec 16) (len kind : Nat) => leBytes 8 (ever.toNat * 2 ^ 48 + b.seq.toNat * 2 ^ 32 + len * 2 ^ 16 + kind)
    (1024 ≤ m → ∀ i ∈ [Instr.mbctlStart m v, .mbctlEnd m v, .mbctlKill m v, .actionDelivery m, .watchdogExpiry m, .apop m, .opush m v,
        .systemObservationAppend m], exec i s = .fault .noSuchUnit)
    ∧ (m < 1024 →
      (∀ k i, (k, i) ∈ [(1, Instr.mbctlStart m v), (2, .mbctlEnd m v), (3, .mbctlKill m v)] → ∃ w : Word,
        exec i s = .next { s with staged := s.staged ++ [.mbctl m w] } ∧ w.extractLsb' 48 16 = v.extractLsb' 48 16 ∧ w.getLsbD 15 = v.getLsbD 15
          ∧ (w.extractLsb' 8 4).toNat = k)
      ∧ (cmd = 0 ∨ 3 < cmd → applyMbctl m v s = put c)
      ∧ (let started := { c with epi := 1, ever := c.pver, retire := false, staging := true };
        (cmd = 1 → b.epi = 1 → applyMbctl m v s = put c)
        ∧ (cmd = 1 → b.epi ≠ 1 → b.ahead = false → applyMbctl m v s = deliveryDue (put started))
        ∧ (cmd = 1 → b.epi ≠ 1 → b.ahead = true → ¬ reached per s.fresh → applyMbctl m v s = deliveryDue (timed started)))
      ∧ (cmd = 2 → b.epi = 0 → applyMbctl m v s = put c)
      ∧ (cmd = 2 → b.epi ≠ 0 → applyMbctl m v s = put { c with epi := 0, staging := false, timer := none })
      ∧ (cmd = 3 → b.epi ≠ 1 → applyMbctl m v s = put c)
      ∧ (cmd = 3 → b.epi = 1 → 4 ≤ b.obs.length → applyMbctl m v s = put (ended c))
      ∧ (cmd = 3 → b.epi = 1 → b.obs.length < 4 → ∃ t e, applyMbctl m v s = t ∧ t.mem = s.mem ∧ e.bytes.take 8 = header c.ever 0 1 ∧ e.vis = s.gcyc + 1
        ∧ t.mailbox m = { ended c with obs := c.obs ++ [e], seq := c.seq + 1, sys := none })
      ∧ ((b.acts = [] ∨ b.epi ≠ 1 ∨ b.ahead = true ∨ ∃ e ∈ b.acts.head?, s.gcyc < e.vis) → exec (.actionDelivery m) s = .next s)
      ∧ (∀ e es, b.acts = e :: es → b.epi = 1 → b.ahead = false → e.vis ≤ s.gcyc →
        let given := { b with ahead := true, aev := true }
        (b.retire = false → ¬ reached per s.fresh → exec (.actionDelivery m) s = .next (timed given))
        ∧ (b.retire = false → reached per s.fresh → exec (.actionDelivery m) s
            = .next (observationDue { s.setMbox { ended given with wdog := true } with fresh := s.fresh + 1 }))
        ∧ (b.retire = true → exec (.actionDelivery m) s
            = .next (observationDue (put { b with acts := es, epi := 3, staging := false, sys := some 2, sysEver := b.ever, aev := true }))))
      ∧ (b.timer = none → exec (.watchdogExpiry m) s = .next s)
      ∧ (∀ u d, b.timer = some (u, d) →
        (reached (u + per) d → exec (.watchdogExpiry m) s = .next (observationDue (put { ended b with wdog := true })))
        ∧ (¬ reached (u + per) d → exec (.watchdogExpiry m) s = .next (clockDue (put { b with timer := some (u + per, d) }))))
      ∧ (b.ahead = false → exec (.apop m) s = .next (put { b with lastr := 4 }))
      ∧ (b.ahead = true → exec (.apop m) s = .next (deliveryDue (put { b with acts := b.acts.drop 1, ahead := false, lastr := 0 })))
      ∧ (let len := v.toNat % 512
        let open_ := b.epi = 1 ∧ b.staging = true;
        (¬ open_ → exec (.opush m v) s = .next (put { b with lastr := 3 }))
        ∧ (open_ → 504 < len → exec (.opush m v) s = .next (put { b with lastr := 2 }))
        ∧ (open_ → len ≤ 504 → 4 ≤ b.obs.length ∨ b.sys ≠ none → exec (.opush m v) s = .next (put { b with lastr := 1 }))
        ∧ (open_ → len ≤ 504 → b.obs.length < 4 → b.sys = none → exec (.opush m v) s = .next (put { b with
            obs := b.obs ++ [⟨0, header b.ever len 0 ++ b.obswin.drop 8, s.gcyc + 1, false⟩], seq := b.seq + 1, timer := none, lastr := 0 })))
      ∧ (b.sys = none ∨ 4 ≤ b.obs.length → exec (.systemObservationAppend m) s = .next s)
      ∧ ∀ k, b.sys = some k → b.obs.length < 4 → ∃ t e, exec (.systemObservationAppend m) s = .next t ∧ t.mem = s.mem
        ∧ t.mailbox m = { b with obs := b.obs ++ [e], seq := b.seq + 1, sys := none } ∧ e.bytes.take 8 = header b.sysEver 0 k ∧ e.bytes.length = 512))
  ∧ (∀ (c : Nat) (b : Mailbox), b.lastr < 16 → b.epi < 8 → b.acts.length ≤ 4 → b.obs.length ≤ 4 → let w := mbstat c b
      w.extractLsb' 48 16 = b.ever ∧ w.extractLsb' 32 16 = b.pver ∧ (w.extractLsb' 20 4).toNat = b.lastr ∧ w.getLsbD 16 = b.ahead ∧ w.getLsbD 15 = b.retire
        ∧ (w.extractLsb' 12 3).toNat = b.epi ∧ (w.extractLsb' 4 4).toNat = (b.acts.filter fun e => decide (e.vis ≤ c)).length
        ∧ (w.extractLsb' 0 4).toNat = b.obs.length)
  ∧ ∀ (h : Nat) (s : State), (128 ≤ h → ∀ i ∈ [Instr.hartTimerInterrupt h, .registerWrite (.hartTime h)], exec i s = .fault .noSuchUnit)
    ∧ (h < 128 → exec (.hartTimerInterrupt h) s = .next (s.setHart { s.hart h with mtip := decide ((s.hart h).timecmp.toNat ≤ s.gcyc) })
      ∧ (∃ t n, exec (.registerWrite (.hartTime h)) s = .next t ∧ t.mem = s.mem ∧ (t.hart h).got = leBytes 8 n ∧ (t.hart h).seen = n ∧ (s.hart h).seen ≤ n
        ∧ s.gcyc ≤ n + 4 ∧ ((s.hart h).seen < s.gcyc → n < s.gcyc))
      ∧ (∀ pa n, 0 < n → 2 ^ 38 ≤ pa → pa < 2 ^ 38 + 2 ^ 23 → pa % n ≠ 0 → ∃ t, exec (.registerWrite (.hartLoad h pa n false)) s = .next t
        ∧ t.mem = s.mem ∧ (t.hart h).fault = true)
      ∧ ∀ m, m < 1024 →
        let store := fun (mode off : Nat) (x : Word) => exec (.registerWrite (.hartStore h mode (2 ^ 38 + 2 ^ 22 + 4096 * m + off) (leBytes 8 x.toNat) false)) s
        let b := s.mailbox m
        (∀ mode x, mode ≠ 0 → ∃ t, store mode 16 x = .next t ∧ t.mem = s.mem ∧ t.mailbox m = { b with budget := (x.extractLsb' 0 40).toNat })
        ∧ (∀ mode x, mode ≠ 0 → ∃ t, store mode 8 x = .next t ∧ t.mboxes = s.mboxes ∧ t.staged = s.staged ++ [.mbctl m x])
        ∧ (∀ mode x, mode ≠ 0 → ∃ t, store mode 24 x = .next t ∧ t.mailbox m = { b with wdog := b.wdog && !x.getLsbD 1, aev := b.aev && !x.getLsbD 0 })
        ∧ (∀ x, b.epi = 0 → ∃ t, store 3 0 x = .next t ∧ t.mailbox m = { b with hart := (x.extractLsb' 8 7).toNat, aie := x.getLsbD 1 })
        ∧ (∀ x, b.epi ≠ 0 → ∃ t, store 3 0 x = .next t ∧ t.mailbox m = b)
        ∧ ∀ off x, off ∈ [0, 8, 16, 24] → ∃ t, store 0 off x = .next t ∧ t.mboxes = s.mboxes ∧ t.staged = s.staged)

/-- A step at which one strand of the core in focus is due runs the instruction decoded from its words, and closes the cycle's issue phase after it (R37, R38, R39, R46, R63, R66, R290, R336). -/
def Obligations.step_runs_decoded : Prop :=
  (∀ (s : State) (st : StrandId), arrivalDue false s = none → calendarDue 3 s = none → firstDue s = some s.core.idx → dueStrands s = [st] →
    s.core.syncmask = 0 → deferredDue s.core s = false → canInterrupt (pruneAccesses s) = false →
    let u := turnTo st (planned 0 noPops (pruneAccesses s))
    let ext := extAt st u.str
    let ends := fun o : Out => ∀ t, o = .next t →
      (t.verdict = .issued → step s = .next (closePhase (countIssues ⟨t, [st], [], []⟩ (observe [st] t))))
      ∧ (t.verdict = .held → step s = .next (closePhase (countIssues ⟨t, [], [st], []⟩ (observe [] t))))
      ∧ ∀ e, t.verdict = .trapped e → step s = .next (closePhase (takeTrap (e, u.str.timed) (pruneAccesses s)))
    (u.str.pc / 4 < u.str.image.length → (∀ i, decode st u.word ext = .ok i → ends (exec i u))
      ∧ ∀ e, decode st u.word ext = .error e → gateStop u = none → ends (exec (.illegalInstruction u.word (ext.getD 0)) u))
    ∧ (u.str.image.length ≤ u.str.pc / 4 → gateStop u = none → ends (.next (precise 0x05 (BitVec.ofNat 64 u.str.pc) u))))
  ∧ (∀ (w e : BitVec 32) (s : State), exec (.illegalInstruction w e) s = .next (precise 0x01 (e ++ w) s))
  ∧ ∀ (s : State) (a : Arrival), arrivalDue false s = some a → step s = exec a.ev { s with inbox := s.inbox.erase a }

/-- Words written out from the encodings decode to their instructions, and reserved cells, nonzero unused fields and missing extension words are refused (R38, R39, R42, R54, R57, R58, R59, R62). -/
def Obligations.decode_words : Prop :=
  decode .A 0x20230C50 none = .ok (.mul ⟨false, 2⟩ ⟨3, 1, 2, true, true⟩)
  ∧ decode .V 0xD72411A4 none = .ok (.vfmaF32 ⟨true, 1⟩ ⟨4, 2, 6, 4, true, false⟩)
  ∧ decode .A 0x80642802 none = .ok (.ldD ⟨false, 0⟩ ⟨4, 5, false, 2⟩)
  ∧ decode .A 0x840452C8 (some 16) = .ok (.copy ⟨false, 0⟩ ⟨4, 10, 11, 1, 16⟩)
  ∧ decode .V 0x8B443260 none = .ok (.vcvt ⟨false, 0⟩ ⟨4, 6, false, 9, 8, 0⟩)
  ∧ decode .C 0x04210002 none = .ok (.loop ⟨false, 0⟩ ⟨1, 0, 2⟩)
  ∧ decode .V 0x8ACA2981 none = .ok (.vcmpF32 ⟨false, 0⟩ ⟨2, 2, 5, 6, 0, false, false, true⟩)
  ∧ decode .A 0x83063900 (some 0x160) = .ok (.atomAdd ⟨false, 0⟩ ⟨6, 7, 8, false, false, 1, 1, 2⟩)
  ∧ decode .A 0x83211060 (some 0x94) = .ok (.cas ⟨false, 0⟩ ⟨1, 2, 3, false, false, 0, 2, 1, 1⟩)
  ∧ decode .M 0x80408080 (some 0x000101A0) = .ok (.oload ⟨false, 0⟩ ⟨1, 2, 0, 1, 416⟩)
  ∧ decode .M 0x81200800 (some 64) = .ok (.mmap ⟨false, 0⟩ ⟨0, 0, 1, 0, 64⟩)
  ∧ decode .A 0x87450000 (some 8192) = .ok (.stepPod ⟨false, 0⟩ ⟨5, 0, false, 8192⟩)
  ∧ decode .V 0x8EB67578 none = .ok (.vgath ⟨false, 0⟩ ⟨22, 14, 21, 7, 0⟩)
  ∧ decode .A 0x87450000 none = .error .noExtension
  ∧ (∀ st, decode st 0x02E00000 none = .error .reservedCell)
  ∧ decode .A 0x86000001 none = .error .nonzeroField

/-- Every well-formed instruction decodes from its encoding with every operand, and a word that decodes is the encoding of what it decodes to (R37, R38, R40, R41, R42, R44, R54, R56, R57, R58, R59, R62). -/
def Obligations.round_trip : Prop :=
  (∀ i : Instr, i.wf = true → encode i ≠ [] → ∀ st, (i.space = none ∨ i.space = some st) →
    ∃ w more, encode i = w :: more ∧ decode st w more.head? = .ok i ∧ more.length = (if isLong st w then 1 else 0)
      ∧ ∀ rest, decodeBytes st ((encode i).flatMap (fun x => leBytes 4 x.toNat) ++ rest) = .ok (i, rest))
  ∧ ∀ (st : StrandId) (w e : W32) (i : Instr), decode st w (some e) = .ok i →
      i.wf = true ∧ (i.space = none ∨ i.space = some st) ∧ encode i = w :: (if isLong st w then [e] else [])

/-- Every step, and every instruction and event, keeps memory in its canonical form: addresses rise strictly and no listed byte is zero (R6, R9). -/
def Obligations.memory_stays_canonical : Prop :=
  (∀ s t : State, Memory.wf s.mem = true → step s = .next t → Memory.wf t.mem = true)
  ∧ ∀ (i : Instr) (s t : State), Memory.wf s.mem = true → exec i s = .next t → Memory.wf t.mem = true

/-- What reset leaves: GCYC 0, every CSR with a stated reset, PARTW, DOMAIN, SYNCMASK, TRAPBASE, no barrier live, tokens 0, memory in canonical form (R5, R52, R101, R176, R262, R283, R289, R295,
R337, R373, R424, R431).
The model's choice are that memory reads zero (log entries 10 and 14), that the tick comparators are 0 (log entry 10: R347 gives them no reset
value) and that the one scheduled event is the reset's own (log entries 13 and 14). -/
def Obligations.reset_state : Prop :=
  let s := State.reset
  s.gcyc = 0 ∧ s.mem = [] ∧ Memory.wf s.mem = true ∧ (∀ a, memRead s.mem a = 0)
    ∧ (∀ j, (s.arrAt j).mmode = 0) ∧ s.svc.ltol = 0
    ∧ (∀ n, let v := s.vf n
        v.slice = 0 ∧ v.weight = 1 ∧ v.scale = 0 ∧ v.toffset = 0 ∧ v.tbase = 0 ∧ gtsOf s v = 0)
    ∧ (∀ k, let c := s.coreAt k
        c.partw = 0 ∧ c.domain = 0 ∧ c.syncmask = 0 ∧ c.trapbase = 0 ∧ c.tcause = 0 ∧ c.tval = 0 ∧ c.wcwait = 0x40
          ∧ ∀ x ∈ [c.ctx, c.shadow], x.handler = .none ∧ x.tokens = Vector.replicate 16 0 ∧ x.tick = 0
            ∧ ∀ st : StrandId, let t := x.strand st; t.halted = true ∧ t.timed = false ∧ t.rotb = 0 ∧ t.deadchk = false ∧ t.xpc = 0)
    ∧ (∀ b, (s.bar b).live = false) ∧ (∀ w, (s.window w).valid = false) ∧ (∀ n, (s.ring n).head = 0 ∧ (s.ring n).tail = 0)
    ∧ s.pod.stepTol = 8 ∧ s.svc.running = false ∧ s.svc.viral = false ∧ s.svc.mr0 = 0 ∧ s.svc.mr1 = 0 ∧ s.svc.mr2 = 0 ∧ s.svc.mr3 = 0
    ∧ s.cal = [⟨0, 0, 0, .packageReset⟩]
end

