-- ==== Sys2Proof/Laws/Memory.lean ====
section
/-!
SUPPORT. Laws/Memory.lean: what memory keeps: a byte written is the byte read, every other byte reads as before, and every operation
keeps the canonical form.
-/
namespace Sys2Proof.Machine

theorem memRead_below {lo a : Nat} {m : List Host.Cell} (hw : Memory.wfFrom lo m = true) (ha : a < lo) : memRead m a = 0 := by
  cases m with
  | nil => rfl
  | cons c m =>
    obtain ⟨x, b⟩ := c
    simp only [Memory.wfFrom, Bool.and_eq_true, decide_eq_true_eq] at hw
    unfold memRead
    rw [if_neg (by omega), if_pos (by omega)]

theorem wfFrom_mono {lo lo' : Nat} {m : List Host.Cell} (hw : Memory.wfFrom lo m = true) (h : lo' ≤ lo) :
    Memory.wfFrom lo' m = true := by
  cases m with
  | nil => rfl
  | cons c m =>
    obtain ⟨x, b⟩ := c
    simp only [Memory.wfFrom, Bool.and_eq_true, decide_eq_true_eq] at hw ⊢
    exact ⟨⟨by omega, hw.1.2⟩, hw.2⟩

/-- Reading after a write of one byte. -/
theorem memRead_memWrite {m : List Host.Cell} (hw : Memory.wf m = true) (a c : Nat) (b : Byte) :
    memRead (memWrite m a b) c = if c = a then b else memRead m c := by
  unfold Memory.wf at hw
  generalize 0 = lo at hw
  induction m generalizing lo with
  | nil =>
    unfold memWrite
    by_cases hb : b = 0
    · rw [if_pos hb]; split <;> simp [memRead, hb]
    · rw [if_neg hb]; simp only [memRead]; split
      · rfl
      · split <;> rfl
  | cons x m ih =>
    obtain ⟨x, e⟩ := x
    simp only [Memory.wfFrom, Bool.and_eq_true, decide_eq_true_eq] at hw
    unfold memWrite
    by_cases h1 : a < x
    · rw [if_pos h1]
      by_cases hb : b = 0
      · rw [if_pos hb]
        split
        · next h => subst h; simp only [memRead]; rw [if_neg (by omega), if_pos h1, hb]
        · rfl
      · rw [if_neg hb, memRead]
        split
        · rfl
        · split
          · simp only [memRead]; rw [if_neg (by omega), if_pos (by omega)]
          · rfl
    · rw [if_neg h1]
      by_cases h2 : a = x
      · subst h2
        rw [if_pos rfl]
        by_cases hb : b = 0
        · rw [if_pos hb]
          split
          · next h => subst h; rw [memRead_below hw.2 (by omega), hb]
          · next h =>
            simp only [memRead]
            rw [if_neg h]
            split
            · rw [memRead_below hw.2 (by omega)]
            · rfl
        · rw [if_neg hb]
          simp only [memRead]
          split <;> rfl
      · rw [if_neg h2]
        simp only [memRead]
        split
        · rw [if_neg (by omega)]
        · split
          · rw [if_neg (by omega)]
          · exact ih _ hw.2

theorem wfFrom_memWrite {m : List Host.Cell} {lo : Nat} (hw : Memory.wfFrom lo m = true) {a : Nat} (ha : lo ≤ a) (b : Byte) :
    Memory.wfFrom lo (memWrite m a b) = true := by
  induction m generalizing lo with
  | nil =>
    unfold memWrite
    by_cases hb : b = 0
    · rw [if_pos hb]; rfl
    · rw [if_neg hb]; simp only [Memory.wfFrom, ha, decide_true, Bool.true_and, Bool.and_true, bne_iff_ne]; exact hb
  | cons x m ih =>
    obtain ⟨x, e⟩ := x
    have hw' := hw
    simp only [Memory.wfFrom, Bool.and_eq_true, decide_eq_true_eq] at hw
    unfold memWrite
    by_cases h1 : a < x
    · rw [if_pos h1]
      by_cases hb : b = 0
      · rw [if_pos hb]; exact hw'
      · rw [if_neg hb]
        simp only [Memory.wfFrom, Bool.and_eq_true, decide_eq_true_eq]
        exact ⟨⟨ha, by simpa using hb⟩, ⟨⟨by omega, hw.1.2⟩, hw.2⟩⟩
    · rw [if_neg h1]
      by_cases h2 : a = x
      · subst h2
        rw [if_pos rfl]
        by_cases hb : b = 0
        · rw [if_pos hb]; exact wfFrom_mono hw.2 (by omega)
        · rw [if_neg hb]
          simp only [Memory.wfFrom, Bool.and_eq_true, decide_eq_true_eq]
          exact ⟨⟨ha, by simpa using hb⟩, hw.2⟩
      · rw [if_neg h2]
        simp only [Memory.wfFrom, Bool.and_eq_true, decide_eq_true_eq]
        exact ⟨hw.1, ih hw.2 (by omega)⟩

/-- Writing a byte keeps the canonical form. -/
theorem wf_memWrite {m : List Host.Cell} (hw : Memory.wf m = true) (a : Nat) (b : Byte) : Memory.wf (memWrite m a b) = true :=
  wfFrom_memWrite hw (Nat.zero_le a) b

/-- Writing bytes keeps the canonical form. -/
theorem wf_memPut {m : List Host.Cell} (hw : Memory.wf m = true) (a : Nat) (bs : List Byte) : Memory.wf (memPut m a bs) = true := by
  induction bs generalizing a with
  | nil => exact hw
  | cons b bs ih => exact wf_memWrite (ih (a + 1)) a b

/-- Reading after a write of bytes: the bytes written, and every other byte as before. -/
theorem memRead_memPut {m : List Host.Cell} (hw : Memory.wf m = true) (a : Nat) (bs : List Byte) (c : Nat) :
    memRead (memPut m a bs) c = if h : a ≤ c ∧ c - a < bs.length then bs[c - a] else memRead m c := by
  induction bs generalizing a with
  | nil => simp [memPut]
  | cons b bs ih =>
    rw [memPut, memRead_memWrite (wf_memPut hw _ _), ih]
    by_cases h : c = a
    · subst h; simp
    · rw [if_neg h]
      by_cases h1 : a ≤ c ∧ c - a < (b :: bs).length
      · rw [dif_pos h1]
        rw [List.length_cons] at h1
        rw [dif_pos (by omega)]
        have : c - a = (c - (a + 1)) + 1 := by omega
        simp [this]
      · rw [dif_neg h1]
        rw [List.length_cons] at h1
        rw [dif_neg (by omega)]

/-- Dropping cells keeps the canonical form. -/
theorem wf_filter {m : List Host.Cell} (hw : Memory.wf m = true) (p : Host.Cell → Bool) : Memory.wf (m.filter p) = true := by
  unfold Memory.wf at *
  generalize 0 = lo at *
  induction m generalizing lo with
  | nil => rfl
  | cons c m ih =>
    obtain ⟨x, b⟩ := c
    simp only [Memory.wfFrom, Bool.and_eq_true, decide_eq_true_eq] at hw
    rw [List.filter_cons]
    split
    · simp only [Memory.wfFrom, Bool.and_eq_true, decide_eq_true_eq]
      exact ⟨hw.1, ih _ hw.2⟩
    · exact ih _ (wfFrom_mono hw.2 (by omega))

/-- Zeroing a range keeps the canonical form. -/
theorem wf_memZero {m : List Host.Cell} (hw : Memory.wf m = true) (lo hi : Nat) : Memory.wf (memZero m lo hi) = true :=
  wf_filter hw _

/-- Reading after a range is zeroed. -/
theorem memRead_memZero {m : List Host.Cell} (hw : Memory.wf m = true) (lo hi c : Nat) :
    memRead (memZero m lo hi) c = if lo ≤ c ∧ c < hi then 0 else memRead m c := by
  unfold memZero
  unfold Memory.wf at hw
  generalize 0 = l at hw
  induction m generalizing l with
  | nil => simp [memRead]
  | cons x m ih =>
    obtain ⟨x, b⟩ := x
    simp only [Memory.wfFrom, Bool.and_eq_true, decide_eq_true_eq] at hw
    have key : ∀ c', c' ≤ x → memRead m c' = 0 := fun c' h => memRead_below hw.2 (by omega)
    rw [List.filter_cons]
    split
    · next hk =>
      simp only [Bool.or_eq_true, decide_eq_true_eq] at hk
      simp only [memRead]
      by_cases hc : c = x
      · subst hc; rw [if_pos rfl, if_neg (by omega)]; simp
      · rw [if_neg hc]
        by_cases hl : c < x
        · rw [if_pos hl, if_neg hc, if_pos hl]; split <;> rfl
        · rw [if_neg hl, ih _ hw.2, if_neg hc, if_neg hl]
    · next hk =>
      simp only [Bool.or_eq_true, decide_eq_true_eq, not_or, Nat.not_lt, Nat.not_le] at hk
      rw [ih _ hw.2]
      by_cases hc : lo ≤ c ∧ c < hi
      · rw [if_pos hc, if_pos hc]
      · rw [if_neg hc, if_neg hc]
        simp only [memRead]
        rw [if_neg (by omega)]
        split
        · next h => rw [key c (by omega)]
        · rfl

/-- Counting bytes changes no memory. -/
theorem countBytes_mem (w : Bool) (a n : Nat) (s : State) : (countBytes w a n s).mem = s.mem := by
  have key : ∀ l u c n, (countAt l u c n s).mem = s.mem := by
    intro l u c n; unfold countAt; split <;> rfl
  unfold countBytes
  split
  · exact key ..
  · split
    · exact key ..
    · rfl

/-- The model's one operation that writes bytes keeps the canonical form. -/
theorem wf_poke {s : State} (hw : Memory.wf s.mem = true) (a : Nat) (bs : List Byte) : Memory.wf (s.poke a bs).mem = true := by
  unfold State.poke
  rw [countBytes_mem]
  exact wf_memPut hw a bs

end Sys2Proof.Machine
end

