-- ==== Sys2Proof/Laws/State.lean ====
section
/-!
SUPPORT. Laws/State.lean: one lemma per field for each named update of the state, so that no proof unfolds a record update.
-/
namespace Sys2Proof.Machine

/-! ## Strands of a context -/

@[simp] theorem Ctx.strand_setStrand (x : Ctx) (st : StrandId) (t : Strand) : (x.setStrand st t).strand st = t := by
  cases st <;> rfl
theorem Ctx.strand_setStrand_ne (x : Ctx) (a b : StrandId) (t : Strand) (h : b ≠ a) :
    (x.setStrand a t).strand b = x.strand b := by
  cases a <;> cases b <;> first | rfl | exact absurd rfl h
@[simp] theorem Ctx.setStrand_self (x : Ctx) (st : StrandId) : x.setStrand st (x.strand st) = x := by
  cases st <;> rfl
@[simp] theorem Ctx.setStrand_setStrand (x : Ctx) (st : StrandId) (t u : Strand) :
    (x.setStrand st t).setStrand st u = x.setStrand st u := by
  cases st <;> rfl
@[simp] theorem Ctx.setStrand_vregs (x : Ctx) (st : StrandId) (t : Strand) : (x.setStrand st t).vregs = x.vregs := by cases st <;> rfl
@[simp] theorem Ctx.setStrand_vdead (x : Ctx) (st : StrandId) (t : Strand) : (x.setStrand st t).vdead = x.vdead := by cases st <;> rfl
@[simp] theorem Ctx.setStrand_vupset (x : Ctx) (st : StrandId) (t : Strand) : (x.setStrand st t).vupset = x.vupset := by cases st <;> rfl
@[simp] theorem Ctx.setStrand_preds (x : Ctx) (st : StrandId) (t : Strand) : (x.setStrand st t).preds = x.preds := by cases st <;> rfl
@[simp] theorem Ctx.setStrand_pupset (x : Ctx) (st : StrandId) (t : Strand) : (x.setStrand st t).pupset = x.pupset := by cases st <;> rfl
@[simp] theorem Ctx.setStrand_tokens (x : Ctx) (st : StrandId) (t : Strand) : (x.setStrand st t).tokens = x.tokens := by cases st <;> rfl
@[simp] theorem Ctx.setStrand_acc (x : Ctx) (st : StrandId) (t : Strand) : (x.setStrand st t).acc = x.acc := by cases st <;> rfl
@[simp] theorem Ctx.setStrand_auHalt (x : Ctx) (st : StrandId) (t : Strand) : (x.setStrand st t).auHalt = x.auHalt := by cases st <;> rfl
@[simp] theorem Ctx.setStrand_waits (x : Ctx) (st : StrandId) (t : Strand) : (x.setStrand st t).waits = x.waits := by cases st <;> rfl
@[simp] theorem Ctx.setStrand_gate (x : Ctx) (st : StrandId) (t : Strand) : (x.setStrand st t).gate = x.gate := by cases st <;> rfl
@[simp] theorem Ctx.setStrand_fq (x : Ctx) (st : StrandId) (t : Strand) : (x.setStrand st t).fq = x.fq := by cases st <;> rfl
@[simp] theorem Ctx.setStrand_fqHurt (x : Ctx) (st : StrandId) (t : Strand) : (x.setStrand st t).fqHurt = x.fqHurt := by cases st <;> rfl
@[simp] theorem Ctx.setStrand_tq (x : Ctx) (st : StrandId) (t : Strand) : (x.setStrand st t).tq = x.tq := by cases st <;> rfl
@[simp] theorem Ctx.setStrand_replies (x : Ctx) (st : StrandId) (t : Strand) : (x.setStrand st t).replies = x.replies := by cases st <;> rfl
@[simp] theorem Ctx.setStrand_tick (x : Ctx) (st : StrandId) (t : Strand) : (x.setStrand st t).tick = x.tick := by cases st <;> rfl
@[simp] theorem Ctx.setStrand_rid (x : Ctx) (st : StrandId) (t : Strand) : (x.setStrand st t).rid = x.rid := by cases st <;> rfl
@[simp] theorem Ctx.setStrand_handler (x : Ctx) (st : StrandId) (t : Strand) : (x.setStrand st t).handler = x.handler := by cases st <;> rfl
@[simp] theorem Ctx.setStrand_frame (x : Ctx) (st : StrandId) (t : Strand) : (x.setStrand st t).frame = x.frame := by cases st <;> rfl
@[simp] theorem Ctx.setStrand_bcount (x : Ctx) (st : StrandId) (t : Strand) : (x.setStrand st t).bcount = x.bcount := by cases st <;> rfl
@[simp] theorem Ctx.setStrand_pendTick (x : Ctx) (st : StrandId) (t : Strand) : (x.setStrand st t).pendTick = x.pendTick := by cases st <;> rfl
@[simp] theorem Ctx.setStrand_pendSig (x : Ctx) (st : StrandId) (t : Strand) : (x.setStrand st t).pendSig = x.pendSig := by cases st <;> rfl
@[simp] theorem Ctx.setStrand_pendUrg (x : Ctx) (st : StrandId) (t : Strand) : (x.setStrand st t).pendUrg = x.pendUrg := by cases st <;> rfl
@[simp] theorem Ctx.setStrand_group (x : Ctx) (st : StrandId) (t : Strand) : (x.setStrand st t).group = x.group := by cases st <;> rfl

/-! ## The running context and the executing strand -/

@[simp] theorem State.setCtx_ctx (s : State) (x : Ctx) : (s.setCtx x).ctx = x := rfl
@[simp] theorem State.setCtx_core_ctx (s : State) (x : Ctx) : (s.setCtx x).core.ctx = x := rfl
@[simp] theorem State.core_ctx (s : State) : s.core.ctx = s.ctx := rfl
theorem State.mapCtx_eq (s : State) (f : Ctx → Ctx) : s.mapCtx f = s.setCtx (f s.ctx) := rfl
theorem State.setStr_eq (s : State) (t : Strand) : s.setStr t = s.setCtx (s.ctx.setStrand s.cur t) := rfl
@[simp] theorem State.mapCtx_ctx (s : State) (f : Ctx → Ctx) : (s.mapCtx f).ctx = f s.ctx := rfl
@[simp] theorem State.setStr_ctx (s : State) (t : Strand) : (s.setStr t).ctx = s.ctx.setStrand s.cur t := rfl
@[simp] theorem State.setStr_str (s : State) (t : Strand) : (s.setStr t).str = t := by
  simp only [State.str, State.setStr, State.mapCtx, State.setCtx, Ctx.strand_setStrand]
@[simp] theorem State.setStr_self (s : State) : s.setStr s.str = s := by
  simp only [State.str, State.setStr, State.mapCtx, State.setCtx, Ctx.setStrand_self]
@[simp] theorem State.setStr_setStr (s : State) (t u : Strand) : (s.setStr t).setStr u = s.setStr u := by
  simp only [State.setStr, State.mapCtx, State.setCtx, Ctx.setStrand_setStrand]
@[simp] theorem State.setCtx_setCtx (s : State) (x y : Ctx) : (s.setCtx x).setCtx y = s.setCtx y := rfl
@[simp] theorem State.setCtx_self (s : State) : s.setCtx s.ctx = s := rfl

/-! ## setCtx -/

@[simp] theorem State.setCtx_gcyc (s : State) (x : Ctx) : (s.setCtx x).gcyc = s.gcyc := rfl
@[simp] theorem State.setCtx_mem (s : State) (x : Ctx) : (s.setCtx x).mem = s.mem := rfl
@[simp] theorem State.setCtx_arr (s : State) (x : Ctx) : (s.setCtx x).arr = s.arr := rfl
@[simp] theorem State.setCtx_cur (s : State) (x : Ctx) : (s.setCtx x).cur = s.cur := rfl
@[simp] theorem State.setCtx_others (s : State) (x : Ctx) : (s.setCtx x).others = s.others := rfl
@[simp] theorem State.setCtx_arrs (s : State) (x : Ctx) : (s.setCtx x).arrs = s.arrs := rfl
@[simp] theorem State.setCtx_bars (s : State) (x : Ctx) : (s.setCtx x).bars = s.bars := rfl
@[simp] theorem State.setCtx_winHold (s : State) (x : Ctx) : (s.setCtx x).winHold = s.winHold := rfl
@[simp] theorem State.setCtx_vfs (s : State) (x : Ctx) : (s.setCtx x).vfs = s.vfs := rfl
@[simp] theorem State.setCtx_images (s : State) (x : Ctx) : (s.setCtx x).images = s.images := rfl
@[simp] theorem State.setCtx_launches (s : State) (x : Ctx) : (s.setCtx x).launches = s.launches := rfl
@[simp] theorem State.setCtx_nextId (s : State) (x : Ctx) : (s.setCtx x).nextId = s.nextId := rfl
@[simp] theorem State.setCtx_rr (s : State) (x : Ctx) : (s.setCtx x).rr = s.rr := rfl
@[simp] theorem State.setCtx_done (s : State) (x : Ctx) : (s.setCtx x).done = s.done := rfl
@[simp] theorem State.setCtx_windows (s : State) (x : Ctx) : (s.setCtx x).windows = s.windows := rfl
@[simp] theorem State.setCtx_pod (s : State) (x : Ctx) : (s.setCtx x).pod = s.pod := rfl
@[simp] theorem State.setCtx_mboxes (s : State) (x : Ctx) : (s.setCtx x).mboxes = s.mboxes := rfl
@[simp] theorem State.setCtx_harts (s : State) (x : Ctx) : (s.setCtx x).harts = s.harts := rfl
@[simp] theorem State.setCtx_lines (s : State) (x : Ctx) : (s.setCtx x).lines = s.lines := rfl
@[simp] theorem State.setCtx_rings (s : State) (x : Ctx) : (s.setCtx x).rings = s.rings := rfl
@[simp] theorem State.setCtx_lists (s : State) (x : Ctx) : (s.setCtx x).lists = s.lists := rfl
@[simp] theorem State.setCtx_rrPort (s : State) (x : Ctx) : (s.setCtx x).rrPort = s.rrPort := rfl
@[simp] theorem State.setCtx_keys (s : State) (x : Ctx) : (s.setCtx x).keys = s.keys := rfl
@[simp] theorem State.setCtx_sealed (s : State) (x : Ctx) : (s.setCtx x).sealed = s.sealed := rfl
@[simp] theorem State.setCtx_bad (s : State) (x : Ctx) : (s.setCtx x).bad = s.bad := rfl
@[simp] theorem State.setCtx_soft (s : State) (x : Ctx) : (s.setCtx x).soft = s.soft := rfl
@[simp] theorem State.setCtx_charge (s : State) (x : Ctx) : (s.setCtx x).charge = s.charge := rfl
@[simp] theorem State.setCtx_svc (s : State) (x : Ctx) : (s.setCtx x).svc = s.svc := rfl
@[simp] theorem State.setCtx_clusterCnt (s : State) (x : Ctx) : (s.setCtx x).clusterCnt = s.clusterCnt := rfl
@[simp] theorem State.setCtx_packageCnt (s : State) (x : Ctx) : (s.setCtx x).packageCnt = s.packageCnt := rfl
@[simp] theorem State.setCtx_snapshot (s : State) (x : Ctx) : (s.setCtx x).snapshot = s.snapshot := rfl
@[simp] theorem State.setCtx_hartDiv (s : State) (x : Ctx) : (s.setCtx x).hartDiv = s.hartDiv := rfl
@[simp] theorem State.setCtx_cal (s : State) (x : Ctx) : (s.setCtx x).cal = s.cal := rfl
@[simp] theorem State.setCtx_inbox (s : State) (x : Ctx) : (s.setCtx x).inbox = s.inbox := rfl
@[simp] theorem State.setCtx_staged (s : State) (x : Ctx) : (s.setCtx x).staged = s.staged := rfl
@[simp] theorem State.setCtx_plan (s : State) (x : Ctx) : (s.setCtx x).plan = s.plan := rfl
@[simp] theorem State.setCtx_verdict (s : State) (x : Ctx) : (s.setCtx x).verdict = s.verdict := rfl
@[simp] theorem State.setCtx_fresh (s : State) (x : Ctx) : (s.setCtx x).fresh = s.fresh := rfl
@[simp] theorem State.setCtx_tally (s : State) (x : Ctx) : (s.setCtx x).tally = s.tally := rfl
@[simp] theorem State.setCtx_core_idx (s : State) (x : Ctx) : (s.setCtx x).core.idx = s.core.idx := rfl
@[simp] theorem State.setCtx_core_shadow (s : State) (x : Ctx) : (s.setCtx x).core.shadow = s.core.shadow := rfl
@[simp] theorem State.setCtx_core_second (s : State) (x : Ctx) : (s.setCtx x).core.second = s.core.second := rfl
@[simp] theorem State.setCtx_core_otherDomain (s : State) (x : Ctx) : (s.setCtx x).core.otherDomain = s.core.otherDomain := rfl
@[simp] theorem State.setCtx_core_otherMask (s : State) (x : Ctx) : (s.setCtx x).core.otherMask = s.core.otherMask := rfl
@[simp] theorem State.setCtx_core_partw (s : State) (x : Ctx) : (s.setCtx x).core.partw = s.core.partw := rfl
@[simp] theorem State.setCtx_core_domain (s : State) (x : Ctx) : (s.setCtx x).core.domain = s.core.domain := rfl
@[simp] theorem State.setCtx_core_syncmask (s : State) (x : Ctx) : (s.setCtx x).core.syncmask = s.core.syncmask := rfl
@[simp] theorem State.setCtx_core_trapbase (s : State) (x : Ctx) : (s.setCtx x).core.trapbase = s.core.trapbase := rfl
@[simp] theorem State.setCtx_core_tcause (s : State) (x : Ctx) : (s.setCtx x).core.tcause = s.core.tcause := rfl
@[simp] theorem State.setCtx_core_tval (s : State) (x : Ctx) : (s.setCtx x).core.tval = s.core.tval := rfl
@[simp] theorem State.setCtx_core_wcwait (s : State) (x : Ctx) : (s.setCtx x).core.wcwait = s.core.wcwait := rfl
@[simp] theorem State.setCtx_core_eng (s : State) (x : Ctx) : (s.setCtx x).core.eng = s.core.eng := rfl
@[simp] theorem State.setCtx_core_seg (s : State) (x : Ctx) : (s.setCtx x).core.seg = s.core.seg := rfl
@[simp] theorem State.setCtx_core_slip (s : State) (x : Ctx) : (s.setCtx x).core.slip = s.core.slip := rfl
@[simp] theorem State.setCtx_core_otherSeg (s : State) (x : Ctx) : (s.setCtx x).core.otherSeg = s.core.otherSeg := rfl
@[simp] theorem State.setCtx_core_otherSlip (s : State) (x : Ctx) : (s.setCtx x).core.otherSlip = s.core.otherSlip := rfl
@[simp] theorem State.setCtx_core_replay (s : State) (x : Ctx) : (s.setCtx x).core.replay = s.core.replay := rfl
@[simp] theorem State.setCtx_core_deferred (s : State) (x : Ctx) : (s.setCtx x).core.deferred = s.core.deferred := rfl
@[simp] theorem State.setCtx_core_otherDeferred (s : State) (x : Ctx) : (s.setCtx x).core.otherDeferred = s.core.otherDeferred := rfl
@[simp] theorem State.setCtx_core_request (s : State) (x : Ctx) : (s.setCtx x).core.request = s.core.request := rfl
@[simp] theorem State.setCtx_core_parking (s : State) (x : Ctx) : (s.setCtx x).core.parking = s.core.parking := rfl
@[simp] theorem State.setCtx_core_stopped (s : State) (x : Ctx) : (s.setCtx x).core.stopped = s.core.stopped := rfl
@[simp] theorem State.setCtx_core_lastVf (s : State) (x : Ctx) : (s.setCtx x).core.lastVf = s.core.lastVf := rfl
@[simp] theorem State.setCtx_core_ended (s : State) (x : Ctx) : (s.setCtx x).core.ended = s.core.ended := rfl
@[simp] theorem State.setCtx_core_tlbC (s : State) (x : Ctx) : (s.setCtx x).core.tlbC = s.core.tlbC := rfl
@[simp] theorem State.setCtx_core_tlbA (s : State) (x : Ctx) : (s.setCtx x).core.tlbA = s.core.tlbA := rfl
@[simp] theorem State.setCtx_core_tlbX (s : State) (x : Ctx) : (s.setCtx x).core.tlbX = s.core.tlbX := rfl
@[simp] theorem State.setCtx_core_tlbV (s : State) (x : Ctx) : (s.setCtx x).core.tlbV = s.core.tlbV := rfl
@[simp] theorem State.setCtx_core_tlbM (s : State) (x : Ctx) : (s.setCtx x).core.tlbM = s.core.tlbM := rfl
@[simp] theorem State.setCtx_core_counters (s : State) (x : Ctx) : (s.setCtx x).core.counters = s.core.counters := rfl

/-! ## mapCtx -/

@[simp] theorem State.mapCtx_gcyc (s : State) (f : Ctx → Ctx) : (s.mapCtx f).gcyc = s.gcyc := rfl
@[simp] theorem State.mapCtx_mem (s : State) (f : Ctx → Ctx) : (s.mapCtx f).mem = s.mem := rfl
@[simp] theorem State.mapCtx_arr (s : State) (f : Ctx → Ctx) : (s.mapCtx f).arr = s.arr := rfl
@[simp] theorem State.mapCtx_cur (s : State) (f : Ctx → Ctx) : (s.mapCtx f).cur = s.cur := rfl
@[simp] theorem State.mapCtx_others (s : State) (f : Ctx → Ctx) : (s.mapCtx f).others = s.others := rfl
@[simp] theorem State.mapCtx_arrs (s : State) (f : Ctx → Ctx) : (s.mapCtx f).arrs = s.arrs := rfl
@[simp] theorem State.mapCtx_bars (s : State) (f : Ctx → Ctx) : (s.mapCtx f).bars = s.bars := rfl
@[simp] theorem State.mapCtx_winHold (s : State) (f : Ctx → Ctx) : (s.mapCtx f).winHold = s.winHold := rfl
@[simp] theorem State.mapCtx_vfs (s : State) (f : Ctx → Ctx) : (s.mapCtx f).vfs = s.vfs := rfl
@[simp] theorem State.mapCtx_images (s : State) (f : Ctx → Ctx) : (s.mapCtx f).images = s.images := rfl
@[simp] theorem State.mapCtx_launches (s : State) (f : Ctx → Ctx) : (s.mapCtx f).launches = s.launches := rfl
@[simp] theorem State.mapCtx_nextId (s : State) (f : Ctx → Ctx) : (s.mapCtx f).nextId = s.nextId := rfl
@[simp] theorem State.mapCtx_rr (s : State) (f : Ctx → Ctx) : (s.mapCtx f).rr = s.rr := rfl
@[simp] theorem State.mapCtx_done (s : State) (f : Ctx → Ctx) : (s.mapCtx f).done = s.done := rfl
@[simp] theorem State.mapCtx_windows (s : State) (f : Ctx → Ctx) : (s.mapCtx f).windows = s.windows := rfl
@[simp] theorem State.mapCtx_pod (s : State) (f : Ctx → Ctx) : (s.mapCtx f).pod = s.pod := rfl
@[simp] theorem State.mapCtx_mboxes (s : State) (f : Ctx → Ctx) : (s.mapCtx f).mboxes = s.mboxes := rfl
@[simp] theorem State.mapCtx_harts (s : State) (f : Ctx → Ctx) : (s.mapCtx f).harts = s.harts := rfl
@[simp] theorem State.mapCtx_lines (s : State) (f : Ctx → Ctx) : (s.mapCtx f).lines = s.lines := rfl
@[simp] theorem State.mapCtx_rings (s : State) (f : Ctx → Ctx) : (s.mapCtx f).rings = s.rings := rfl
@[simp] theorem State.mapCtx_lists (s : State) (f : Ctx → Ctx) : (s.mapCtx f).lists = s.lists := rfl
@[simp] theorem State.mapCtx_rrPort (s : State) (f : Ctx → Ctx) : (s.mapCtx f).rrPort = s.rrPort := rfl
@[simp] theorem State.mapCtx_keys (s : State) (f : Ctx → Ctx) : (s.mapCtx f).keys = s.keys := rfl
@[simp] theorem State.mapCtx_sealed (s : State) (f : Ctx → Ctx) : (s.mapCtx f).sealed = s.sealed := rfl
@[simp] theorem State.mapCtx_bad (s : State) (f : Ctx → Ctx) : (s.mapCtx f).bad = s.bad := rfl
@[simp] theorem State.mapCtx_soft (s : State) (f : Ctx → Ctx) : (s.mapCtx f).soft = s.soft := rfl
@[simp] theorem State.mapCtx_charge (s : State) (f : Ctx → Ctx) : (s.mapCtx f).charge = s.charge := rfl
@[simp] theorem State.mapCtx_svc (s : State) (f : Ctx → Ctx) : (s.mapCtx f).svc = s.svc := rfl
@[simp] theorem State.mapCtx_clusterCnt (s : State) (f : Ctx → Ctx) : (s.mapCtx f).clusterCnt = s.clusterCnt := rfl
@[simp] theorem State.mapCtx_packageCnt (s : State) (f : Ctx → Ctx) : (s.mapCtx f).packageCnt = s.packageCnt := rfl
@[simp] theorem State.mapCtx_snapshot (s : State) (f : Ctx → Ctx) : (s.mapCtx f).snapshot = s.snapshot := rfl
@[simp] theorem State.mapCtx_hartDiv (s : State) (f : Ctx → Ctx) : (s.mapCtx f).hartDiv = s.hartDiv := rfl
@[simp] theorem State.mapCtx_cal (s : State) (f : Ctx → Ctx) : (s.mapCtx f).cal = s.cal := rfl
@[simp] theorem State.mapCtx_inbox (s : State) (f : Ctx → Ctx) : (s.mapCtx f).inbox = s.inbox := rfl
@[simp] theorem State.mapCtx_staged (s : State) (f : Ctx → Ctx) : (s.mapCtx f).staged = s.staged := rfl
@[simp] theorem State.mapCtx_plan (s : State) (f : Ctx → Ctx) : (s.mapCtx f).plan = s.plan := rfl
@[simp] theorem State.mapCtx_verdict (s : State) (f : Ctx → Ctx) : (s.mapCtx f).verdict = s.verdict := rfl
@[simp] theorem State.mapCtx_fresh (s : State) (f : Ctx → Ctx) : (s.mapCtx f).fresh = s.fresh := rfl
@[simp] theorem State.mapCtx_tally (s : State) (f : Ctx → Ctx) : (s.mapCtx f).tally = s.tally := rfl
@[simp] theorem State.mapCtx_core_idx (s : State) (f : Ctx → Ctx) : (s.mapCtx f).core.idx = s.core.idx := rfl
@[simp] theorem State.mapCtx_core_shadow (s : State) (f : Ctx → Ctx) : (s.mapCtx f).core.shadow = s.core.shadow := rfl
@[simp] theorem State.mapCtx_core_second (s : State) (f : Ctx → Ctx) : (s.mapCtx f).core.second = s.core.second := rfl
@[simp] theorem State.mapCtx_core_otherDomain (s : State) (f : Ctx → Ctx) : (s.mapCtx f).core.otherDomain = s.core.otherDomain := rfl
@[simp] theorem State.mapCtx_core_otherMask (s : State) (f : Ctx → Ctx) : (s.mapCtx f).core.otherMask = s.core.otherMask := rfl
@[simp] theorem State.mapCtx_core_partw (s : State) (f : Ctx → Ctx) : (s.mapCtx f).core.partw = s.core.partw := rfl
@[simp] theorem State.mapCtx_core_domain (s : State) (f : Ctx → Ctx) : (s.mapCtx f).core.domain = s.core.domain := rfl
@[simp] theorem State.mapCtx_core_syncmask (s : State) (f : Ctx → Ctx) : (s.mapCtx f).core.syncmask = s.core.syncmask := rfl
@[simp] theorem State.mapCtx_core_trapbase (s : State) (f : Ctx → Ctx) : (s.mapCtx f).core.trapbase = s.core.trapbase := rfl
@[simp] theorem State.mapCtx_core_tcause (s : State) (f : Ctx → Ctx) : (s.mapCtx f).core.tcause = s.core.tcause := rfl
@[simp] theorem State.mapCtx_core_tval (s : State) (f : Ctx → Ctx) : (s.mapCtx f).core.tval = s.core.tval := rfl
@[simp] theorem State.mapCtx_core_wcwait (s : State) (f : Ctx → Ctx) : (s.mapCtx f).core.wcwait = s.core.wcwait := rfl
@[simp] theorem State.mapCtx_core_eng (s : State) (f : Ctx → Ctx) : (s.mapCtx f).core.eng = s.core.eng := rfl
@[simp] theorem State.mapCtx_core_seg (s : State) (f : Ctx → Ctx) : (s.mapCtx f).core.seg = s.core.seg := rfl
@[simp] theorem State.mapCtx_core_slip (s : State) (f : Ctx → Ctx) : (s.mapCtx f).core.slip = s.core.slip := rfl
@[simp] theorem State.mapCtx_core_otherSeg (s : State) (f : Ctx → Ctx) : (s.mapCtx f).core.otherSeg = s.core.otherSeg := rfl
@[simp] theorem State.mapCtx_core_otherSlip (s : State) (f : Ctx → Ctx) : (s.mapCtx f).core.otherSlip = s.core.otherSlip := rfl
@[simp] theorem State.mapCtx_core_replay (s : State) (f : Ctx → Ctx) : (s.mapCtx f).core.replay = s.core.replay := rfl
@[simp] theorem State.mapCtx_core_deferred (s : State) (f : Ctx → Ctx) : (s.mapCtx f).core.deferred = s.core.deferred := rfl
@[simp] theorem State.mapCtx_core_otherDeferred (s : State) (f : Ctx → Ctx) : (s.mapCtx f).core.otherDeferred = s.core.otherDeferred := rfl
@[simp] theorem State.mapCtx_core_request (s : State) (f : Ctx → Ctx) : (s.mapCtx f).core.request = s.core.request := rfl
@[simp] theorem State.mapCtx_core_parking (s : State) (f : Ctx → Ctx) : (s.mapCtx f).core.parking = s.core.parking := rfl
@[simp] theorem State.mapCtx_core_stopped (s : State) (f : Ctx → Ctx) : (s.mapCtx f).core.stopped = s.core.stopped := rfl
@[simp] theorem State.mapCtx_core_lastVf (s : State) (f : Ctx → Ctx) : (s.mapCtx f).core.lastVf = s.core.lastVf := rfl
@[simp] theorem State.mapCtx_core_ended (s : State) (f : Ctx → Ctx) : (s.mapCtx f).core.ended = s.core.ended := rfl
@[simp] theorem State.mapCtx_core_tlbC (s : State) (f : Ctx → Ctx) : (s.mapCtx f).core.tlbC = s.core.tlbC := rfl
@[simp] theorem State.mapCtx_core_tlbA (s : State) (f : Ctx → Ctx) : (s.mapCtx f).core.tlbA = s.core.tlbA := rfl
@[simp] theorem State.mapCtx_core_tlbX (s : State) (f : Ctx → Ctx) : (s.mapCtx f).core.tlbX = s.core.tlbX := rfl
@[simp] theorem State.mapCtx_core_tlbV (s : State) (f : Ctx → Ctx) : (s.mapCtx f).core.tlbV = s.core.tlbV := rfl
@[simp] theorem State.mapCtx_core_tlbM (s : State) (f : Ctx → Ctx) : (s.mapCtx f).core.tlbM = s.core.tlbM := rfl
@[simp] theorem State.mapCtx_core_counters (s : State) (f : Ctx → Ctx) : (s.mapCtx f).core.counters = s.core.counters := rfl

/-! ## setStr -/

@[simp] theorem State.setStr_gcyc (s : State) (t : Strand) : (s.setStr t).gcyc = s.gcyc := rfl
@[simp] theorem State.setStr_mem (s : State) (t : Strand) : (s.setStr t).mem = s.mem := rfl
@[simp] theorem State.setStr_arr (s : State) (t : Strand) : (s.setStr t).arr = s.arr := rfl
@[simp] theorem State.setStr_cur (s : State) (t : Strand) : (s.setStr t).cur = s.cur := rfl
@[simp] theorem State.setStr_others (s : State) (t : Strand) : (s.setStr t).others = s.others := rfl
@[simp] theorem State.setStr_arrs (s : State) (t : Strand) : (s.setStr t).arrs = s.arrs := rfl
@[simp] theorem State.setStr_bars (s : State) (t : Strand) : (s.setStr t).bars = s.bars := rfl
@[simp] theorem State.setStr_winHold (s : State) (t : Strand) : (s.setStr t).winHold = s.winHold := rfl
@[simp] theorem State.setStr_vfs (s : State) (t : Strand) : (s.setStr t).vfs = s.vfs := rfl
@[simp] theorem State.setStr_images (s : State) (t : Strand) : (s.setStr t).images = s.images := rfl
@[simp] theorem State.setStr_launches (s : State) (t : Strand) : (s.setStr t).launches = s.launches := rfl
@[simp] theorem State.setStr_nextId (s : State) (t : Strand) : (s.setStr t).nextId = s.nextId := rfl
@[simp] theorem State.setStr_rr (s : State) (t : Strand) : (s.setStr t).rr = s.rr := rfl
@[simp] theorem State.setStr_done (s : State) (t : Strand) : (s.setStr t).done = s.done := rfl
@[simp] theorem State.setStr_windows (s : State) (t : Strand) : (s.setStr t).windows = s.windows := rfl
@[simp] theorem State.setStr_pod (s : State) (t : Strand) : (s.setStr t).pod = s.pod := rfl
@[simp] theorem State.setStr_mboxes (s : State) (t : Strand) : (s.setStr t).mboxes = s.mboxes := rfl
@[simp] theorem State.setStr_harts (s : State) (t : Strand) : (s.setStr t).harts = s.harts := rfl
@[simp] theorem State.setStr_lines (s : State) (t : Strand) : (s.setStr t).lines = s.lines := rfl
@[simp] theorem State.setStr_rings (s : State) (t : Strand) : (s.setStr t).rings = s.rings := rfl
@[simp] theorem State.setStr_lists (s : State) (t : Strand) : (s.setStr t).lists = s.lists := rfl
@[simp] theorem State.setStr_rrPort (s : State) (t : Strand) : (s.setStr t).rrPort = s.rrPort := rfl
@[simp] theorem State.setStr_keys (s : State) (t : Strand) : (s.setStr t).keys = s.keys := rfl
@[simp] theorem State.setStr_sealed (s : State) (t : Strand) : (s.setStr t).sealed = s.sealed := rfl
@[simp] theorem State.setStr_bad (s : State) (t : Strand) : (s.setStr t).bad = s.bad := rfl
@[simp] theorem State.setStr_soft (s : State) (t : Strand) : (s.setStr t).soft = s.soft := rfl
@[simp] theorem State.setStr_charge (s : State) (t : Strand) : (s.setStr t).charge = s.charge := rfl
@[simp] theorem State.setStr_svc (s : State) (t : Strand) : (s.setStr t).svc = s.svc := rfl
@[simp] theorem State.setStr_clusterCnt (s : State) (t : Strand) : (s.setStr t).clusterCnt = s.clusterCnt := rfl
@[simp] theorem State.setStr_packageCnt (s : State) (t : Strand) : (s.setStr t).packageCnt = s.packageCnt := rfl
@[simp] theorem State.setStr_snapshot (s : State) (t : Strand) : (s.setStr t).snapshot = s.snapshot := rfl
@[simp] theorem State.setStr_hartDiv (s : State) (t : Strand) : (s.setStr t).hartDiv = s.hartDiv := rfl
@[simp] theorem State.setStr_cal (s : State) (t : Strand) : (s.setStr t).cal = s.cal := rfl
@[simp] theorem State.setStr_inbox (s : State) (t : Strand) : (s.setStr t).inbox = s.inbox := rfl
@[simp] theorem State.setStr_staged (s : State) (t : Strand) : (s.setStr t).staged = s.staged := rfl
@[simp] theorem State.setStr_plan (s : State) (t : Strand) : (s.setStr t).plan = s.plan := rfl
@[simp] theorem State.setStr_verdict (s : State) (t : Strand) : (s.setStr t).verdict = s.verdict := rfl
@[simp] theorem State.setStr_fresh (s : State) (t : Strand) : (s.setStr t).fresh = s.fresh := rfl
@[simp] theorem State.setStr_tally (s : State) (t : Strand) : (s.setStr t).tally = s.tally := rfl
@[simp] theorem State.setStr_core_idx (s : State) (t : Strand) : (s.setStr t).core.idx = s.core.idx := rfl
@[simp] theorem State.setStr_core_shadow (s : State) (t : Strand) : (s.setStr t).core.shadow = s.core.shadow := rfl
@[simp] theorem State.setStr_core_second (s : State) (t : Strand) : (s.setStr t).core.second = s.core.second := rfl
@[simp] theorem State.setStr_core_otherDomain (s : State) (t : Strand) : (s.setStr t).core.otherDomain = s.core.otherDomain := rfl
@[simp] theorem State.setStr_core_otherMask (s : State) (t : Strand) : (s.setStr t).core.otherMask = s.core.otherMask := rfl
@[simp] theorem State.setStr_core_partw (s : State) (t : Strand) : (s.setStr t).core.partw = s.core.partw := rfl
@[simp] theorem State.setStr_core_domain (s : State) (t : Strand) : (s.setStr t).core.domain = s.core.domain := rfl
@[simp] theorem State.setStr_core_syncmask (s : State) (t : Strand) : (s.setStr t).core.syncmask = s.core.syncmask := rfl
@[simp] theorem State.setStr_core_trapbase (s : State) (t : Strand) : (s.setStr t).core.trapbase = s.core.trapbase := rfl
@[simp] theorem State.setStr_core_tcause (s : State) (t : Strand) : (s.setStr t).core.tcause = s.core.tcause := rfl
@[simp] theorem State.setStr_core_tval (s : State) (t : Strand) : (s.setStr t).core.tval = s.core.tval := rfl
@[simp] theorem State.setStr_core_wcwait (s : State) (t : Strand) : (s.setStr t).core.wcwait = s.core.wcwait := rfl
@[simp] theorem State.setStr_core_eng (s : State) (t : Strand) : (s.setStr t).core.eng = s.core.eng := rfl
@[simp] theorem State.setStr_core_seg (s : State) (t : Strand) : (s.setStr t).core.seg = s.core.seg := rfl
@[simp] theorem State.setStr_core_slip (s : State) (t : Strand) : (s.setStr t).core.slip = s.core.slip := rfl
@[simp] theorem State.setStr_core_otherSeg (s : State) (t : Strand) : (s.setStr t).core.otherSeg = s.core.otherSeg := rfl
@[simp] theorem State.setStr_core_otherSlip (s : State) (t : Strand) : (s.setStr t).core.otherSlip = s.core.otherSlip := rfl
@[simp] theorem State.setStr_core_replay (s : State) (t : Strand) : (s.setStr t).core.replay = s.core.replay := rfl
@[simp] theorem State.setStr_core_deferred (s : State) (t : Strand) : (s.setStr t).core.deferred = s.core.deferred := rfl
@[simp] theorem State.setStr_core_otherDeferred (s : State) (t : Strand) : (s.setStr t).core.otherDeferred = s.core.otherDeferred := rfl
@[simp] theorem State.setStr_core_request (s : State) (t : Strand) : (s.setStr t).core.request = s.core.request := rfl
@[simp] theorem State.setStr_core_parking (s : State) (t : Strand) : (s.setStr t).core.parking = s.core.parking := rfl
@[simp] theorem State.setStr_core_stopped (s : State) (t : Strand) : (s.setStr t).core.stopped = s.core.stopped := rfl
@[simp] theorem State.setStr_core_lastVf (s : State) (t : Strand) : (s.setStr t).core.lastVf = s.core.lastVf := rfl
@[simp] theorem State.setStr_core_ended (s : State) (t : Strand) : (s.setStr t).core.ended = s.core.ended := rfl
@[simp] theorem State.setStr_core_tlbC (s : State) (t : Strand) : (s.setStr t).core.tlbC = s.core.tlbC := rfl
@[simp] theorem State.setStr_core_tlbA (s : State) (t : Strand) : (s.setStr t).core.tlbA = s.core.tlbA := rfl
@[simp] theorem State.setStr_core_tlbX (s : State) (t : Strand) : (s.setStr t).core.tlbX = s.core.tlbX := rfl
@[simp] theorem State.setStr_core_tlbV (s : State) (t : Strand) : (s.setStr t).core.tlbV = s.core.tlbV := rfl
@[simp] theorem State.setStr_core_tlbM (s : State) (t : Strand) : (s.setStr t).core.tlbM = s.core.tlbM := rfl
@[simp] theorem State.setStr_core_counters (s : State) (t : Strand) : (s.setStr t).core.counters = s.core.counters := rfl

/-! ## mapEng -/

@[simp] theorem State.mapEng_gcyc (s : State) (f : Engines → Engines) : (s.mapEng f).gcyc = s.gcyc := rfl
@[simp] theorem State.mapEng_mem (s : State) (f : Engines → Engines) : (s.mapEng f).mem = s.mem := rfl
@[simp] theorem State.mapEng_arr (s : State) (f : Engines → Engines) : (s.mapEng f).arr = s.arr := rfl
@[simp] theorem State.mapEng_cur (s : State) (f : Engines → Engines) : (s.mapEng f).cur = s.cur := rfl
@[simp] theorem State.mapEng_others (s : State) (f : Engines → Engines) : (s.mapEng f).others = s.others := rfl
@[simp] theorem State.mapEng_arrs (s : State) (f : Engines → Engines) : (s.mapEng f).arrs = s.arrs := rfl
@[simp] theorem State.mapEng_bars (s : State) (f : Engines → Engines) : (s.mapEng f).bars = s.bars := rfl
@[simp] theorem State.mapEng_winHold (s : State) (f : Engines → Engines) : (s.mapEng f).winHold = s.winHold := rfl
@[simp] theorem State.mapEng_vfs (s : State) (f : Engines → Engines) : (s.mapEng f).vfs = s.vfs := rfl
@[simp] theorem State.mapEng_images (s : State) (f : Engines → Engines) : (s.mapEng f).images = s.images := rfl
@[simp] theorem State.mapEng_launches (s : State) (f : Engines → Engines) : (s.mapEng f).launches = s.launches := rfl
@[simp] theorem State.mapEng_nextId (s : State) (f : Engines → Engines) : (s.mapEng f).nextId = s.nextId := rfl
@[simp] theorem State.mapEng_rr (s : State) (f : Engines → Engines) : (s.mapEng f).rr = s.rr := rfl
@[simp] theorem State.mapEng_done (s : State) (f : Engines → Engines) : (s.mapEng f).done = s.done := rfl
@[simp] theorem State.mapEng_windows (s : State) (f : Engines → Engines) : (s.mapEng f).windows = s.windows := rfl
@[simp] theorem State.mapEng_pod (s : State) (f : Engines → Engines) : (s.mapEng f).pod = s.pod := rfl
@[simp] theorem State.mapEng_mboxes (s : State) (f : Engines → Engines) : (s.mapEng f).mboxes = s.mboxes := rfl
@[simp] theorem State.mapEng_harts (s : State) (f : Engines → Engines) : (s.mapEng f).harts = s.harts := rfl
@[simp] theorem State.mapEng_lines (s : State) (f : Engines → Engines) : (s.mapEng f).lines = s.lines := rfl
@[simp] theorem State.mapEng_rings (s : State) (f : Engines → Engines) : (s.mapEng f).rings = s.rings := rfl
@[simp] theorem State.mapEng_lists (s : State) (f : Engines → Engines) : (s.mapEng f).lists = s.lists := rfl
@[simp] theorem State.mapEng_rrPort (s : State) (f : Engines → Engines) : (s.mapEng f).rrPort = s.rrPort := rfl
@[simp] theorem State.mapEng_keys (s : State) (f : Engines → Engines) : (s.mapEng f).keys = s.keys := rfl
@[simp] theorem State.mapEng_sealed (s : State) (f : Engines → Engines) : (s.mapEng f).sealed = s.sealed := rfl
@[simp] theorem State.mapEng_bad (s : State) (f : Engines → Engines) : (s.mapEng f).bad = s.bad := rfl
@[simp] theorem State.mapEng_soft (s : State) (f : Engines → Engines) : (s.mapEng f).soft = s.soft := rfl
@[simp] theorem State.mapEng_charge (s : State) (f : Engines → Engines) : (s.mapEng f).charge = s.charge := rfl
@[simp] theorem State.mapEng_svc (s : State) (f : Engines → Engines) : (s.mapEng f).svc = s.svc := rfl
@[simp] theorem State.mapEng_clusterCnt (s : State) (f : Engines → Engines) : (s.mapEng f).clusterCnt = s.clusterCnt := rfl
@[simp] theorem State.mapEng_packageCnt (s : State) (f : Engines → Engines) : (s.mapEng f).packageCnt = s.packageCnt := rfl
@[simp] theorem State.mapEng_snapshot (s : State) (f : Engines → Engines) : (s.mapEng f).snapshot = s.snapshot := rfl
@[simp] theorem State.mapEng_hartDiv (s : State) (f : Engines → Engines) : (s.mapEng f).hartDiv = s.hartDiv := rfl
@[simp] theorem State.mapEng_cal (s : State) (f : Engines → Engines) : (s.mapEng f).cal = s.cal := rfl
@[simp] theorem State.mapEng_inbox (s : State) (f : Engines → Engines) : (s.mapEng f).inbox = s.inbox := rfl
@[simp] theorem State.mapEng_staged (s : State) (f : Engines → Engines) : (s.mapEng f).staged = s.staged := rfl
@[simp] theorem State.mapEng_plan (s : State) (f : Engines → Engines) : (s.mapEng f).plan = s.plan := rfl
@[simp] theorem State.mapEng_verdict (s : State) (f : Engines → Engines) : (s.mapEng f).verdict = s.verdict := rfl
@[simp] theorem State.mapEng_fresh (s : State) (f : Engines → Engines) : (s.mapEng f).fresh = s.fresh := rfl
@[simp] theorem State.mapEng_tally (s : State) (f : Engines → Engines) : (s.mapEng f).tally = s.tally := rfl
@[simp] theorem State.mapEng_core_idx (s : State) (f : Engines → Engines) : (s.mapEng f).core.idx = s.core.idx := rfl
@[simp] theorem State.mapEng_core_shadow (s : State) (f : Engines → Engines) : (s.mapEng f).core.shadow = s.core.shadow := rfl
@[simp] theorem State.mapEng_core_second (s : State) (f : Engines → Engines) : (s.mapEng f).core.second = s.core.second := rfl
@[simp] theorem State.mapEng_core_otherDomain (s : State) (f : Engines → Engines) : (s.mapEng f).core.otherDomain = s.core.otherDomain := rfl
@[simp] theorem State.mapEng_core_otherMask (s : State) (f : Engines → Engines) : (s.mapEng f).core.otherMask = s.core.otherMask := rfl
@[simp] theorem State.mapEng_core_partw (s : State) (f : Engines → Engines) : (s.mapEng f).core.partw = s.core.partw := rfl
@[simp] theorem State.mapEng_core_domain (s : State) (f : Engines → Engines) : (s.mapEng f).core.domain = s.core.domain := rfl
@[simp] theorem State.mapEng_core_syncmask (s : State) (f : Engines → Engines) : (s.mapEng f).core.syncmask = s.core.syncmask := rfl
@[simp] theorem State.mapEng_core_trapbase (s : State) (f : Engines → Engines) : (s.mapEng f).core.trapbase = s.core.trapbase := rfl
@[simp] theorem State.mapEng_core_tcause (s : State) (f : Engines → Engines) : (s.mapEng f).core.tcause = s.core.tcause := rfl
@[simp] theorem State.mapEng_core_tval (s : State) (f : Engines → Engines) : (s.mapEng f).core.tval = s.core.tval := rfl
@[simp] theorem State.mapEng_core_wcwait (s : State) (f : Engines → Engines) : (s.mapEng f).core.wcwait = s.core.wcwait := rfl
@[simp] theorem State.mapEng_core_seg (s : State) (f : Engines → Engines) : (s.mapEng f).core.seg = s.core.seg := rfl
@[simp] theorem State.mapEng_core_slip (s : State) (f : Engines → Engines) : (s.mapEng f).core.slip = s.core.slip := rfl
@[simp] theorem State.mapEng_core_otherSeg (s : State) (f : Engines → Engines) : (s.mapEng f).core.otherSeg = s.core.otherSeg := rfl
@[simp] theorem State.mapEng_core_otherSlip (s : State) (f : Engines → Engines) : (s.mapEng f).core.otherSlip = s.core.otherSlip := rfl
@[simp] theorem State.mapEng_core_replay (s : State) (f : Engines → Engines) : (s.mapEng f).core.replay = s.core.replay := rfl
@[simp] theorem State.mapEng_core_deferred (s : State) (f : Engines → Engines) : (s.mapEng f).core.deferred = s.core.deferred := rfl
@[simp] theorem State.mapEng_core_otherDeferred (s : State) (f : Engines → Engines) : (s.mapEng f).core.otherDeferred = s.core.otherDeferred := rfl
@[simp] theorem State.mapEng_core_request (s : State) (f : Engines → Engines) : (s.mapEng f).core.request = s.core.request := rfl
@[simp] theorem State.mapEng_core_parking (s : State) (f : Engines → Engines) : (s.mapEng f).core.parking = s.core.parking := rfl
@[simp] theorem State.mapEng_core_stopped (s : State) (f : Engines → Engines) : (s.mapEng f).core.stopped = s.core.stopped := rfl
@[simp] theorem State.mapEng_core_lastVf (s : State) (f : Engines → Engines) : (s.mapEng f).core.lastVf = s.core.lastVf := rfl
@[simp] theorem State.mapEng_core_ended (s : State) (f : Engines → Engines) : (s.mapEng f).core.ended = s.core.ended := rfl
@[simp] theorem State.mapEng_core_tlbC (s : State) (f : Engines → Engines) : (s.mapEng f).core.tlbC = s.core.tlbC := rfl
@[simp] theorem State.mapEng_core_tlbA (s : State) (f : Engines → Engines) : (s.mapEng f).core.tlbA = s.core.tlbA := rfl
@[simp] theorem State.mapEng_core_tlbX (s : State) (f : Engines → Engines) : (s.mapEng f).core.tlbX = s.core.tlbX := rfl
@[simp] theorem State.mapEng_core_tlbV (s : State) (f : Engines → Engines) : (s.mapEng f).core.tlbV = s.core.tlbV := rfl
@[simp] theorem State.mapEng_core_tlbM (s : State) (f : Engines → Engines) : (s.mapEng f).core.tlbM = s.core.tlbM := rfl
@[simp] theorem State.mapEng_core_counters (s : State) (f : Engines → Engines) : (s.mapEng f).core.counters = s.core.counters := rfl
@[simp] theorem State.mapEng_core_eng (s : State) (f : Engines → Engines) : (s.mapEng f).core.eng = f s.core.eng := rfl
@[simp] theorem State.mapEng_ctx (s : State) (f : Engines → Engines) : (s.mapEng f).ctx = s.ctx := rfl
@[simp] theorem State.mapEng_str (s : State) (f : Engines → Engines) : (s.mapEng f).str = s.str := rfl

/-! ## mapArr -/

@[simp] theorem State.mapArr_gcyc (s : State) (f : MArray → MArray) : (s.mapArr f).gcyc = s.gcyc := rfl
@[simp] theorem State.mapArr_mem (s : State) (f : MArray → MArray) : (s.mapArr f).mem = s.mem := rfl
@[simp] theorem State.mapArr_core (s : State) (f : MArray → MArray) : (s.mapArr f).core = s.core := rfl
@[simp] theorem State.mapArr_cur (s : State) (f : MArray → MArray) : (s.mapArr f).cur = s.cur := rfl
@[simp] theorem State.mapArr_others (s : State) (f : MArray → MArray) : (s.mapArr f).others = s.others := rfl
@[simp] theorem State.mapArr_arrs (s : State) (f : MArray → MArray) : (s.mapArr f).arrs = s.arrs := rfl
@[simp] theorem State.mapArr_bars (s : State) (f : MArray → MArray) : (s.mapArr f).bars = s.bars := rfl
@[simp] theorem State.mapArr_winHold (s : State) (f : MArray → MArray) : (s.mapArr f).winHold = s.winHold := rfl
@[simp] theorem State.mapArr_vfs (s : State) (f : MArray → MArray) : (s.mapArr f).vfs = s.vfs := rfl
@[simp] theorem State.mapArr_images (s : State) (f : MArray → MArray) : (s.mapArr f).images = s.images := rfl
@[simp] theorem State.mapArr_launches (s : State) (f : MArray → MArray) : (s.mapArr f).launches = s.launches := rfl
@[simp] theorem State.mapArr_nextId (s : State) (f : MArray → MArray) : (s.mapArr f).nextId = s.nextId := rfl
@[simp] theorem State.mapArr_rr (s : State) (f : MArray → MArray) : (s.mapArr f).rr = s.rr := rfl
@[simp] theorem State.mapArr_done (s : State) (f : MArray → MArray) : (s.mapArr f).done = s.done := rfl
@[simp] theorem State.mapArr_windows (s : State) (f : MArray → MArray) : (s.mapArr f).windows = s.windows := rfl
@[simp] theorem State.mapArr_pod (s : State) (f : MArray → MArray) : (s.mapArr f).pod = s.pod := rfl
@[simp] theorem State.mapArr_mboxes (s : State) (f : MArray → MArray) : (s.mapArr f).mboxes = s.mboxes := rfl
@[simp] theorem State.mapArr_harts (s : State) (f : MArray → MArray) : (s.mapArr f).harts = s.harts := rfl
@[simp] theorem State.mapArr_lines (s : State) (f : MArray → MArray) : (s.mapArr f).lines = s.lines := rfl
@[simp] theorem State.mapArr_rings (s : State) (f : MArray → MArray) : (s.mapArr f).rings = s.rings := rfl
@[simp] theorem State.mapArr_lists (s : State) (f : MArray → MArray) : (s.mapArr f).lists = s.lists := rfl
@[simp] theorem State.mapArr_rrPort (s : State) (f : MArray → MArray) : (s.mapArr f).rrPort = s.rrPort := rfl
@[simp] theorem State.mapArr_keys (s : State) (f : MArray → MArray) : (s.mapArr f).keys = s.keys := rfl
@[simp] theorem State.mapArr_sealed (s : State) (f : MArray → MArray) : (s.mapArr f).sealed = s.sealed := rfl
@[simp] theorem State.mapArr_bad (s : State) (f : MArray → MArray) : (s.mapArr f).bad = s.bad := rfl
@[simp] theorem State.mapArr_soft (s : State) (f : MArray → MArray) : (s.mapArr f).soft = s.soft := rfl
@[simp] theorem State.mapArr_charge (s : State) (f : MArray → MArray) : (s.mapArr f).charge = s.charge := rfl
@[simp] theorem State.mapArr_svc (s : State) (f : MArray → MArray) : (s.mapArr f).svc = s.svc := rfl
@[simp] theorem State.mapArr_clusterCnt (s : State) (f : MArray → MArray) : (s.mapArr f).clusterCnt = s.clusterCnt := rfl
@[simp] theorem State.mapArr_packageCnt (s : State) (f : MArray → MArray) : (s.mapArr f).packageCnt = s.packageCnt := rfl
@[simp] theorem State.mapArr_snapshot (s : State) (f : MArray → MArray) : (s.mapArr f).snapshot = s.snapshot := rfl
@[simp] theorem State.mapArr_hartDiv (s : State) (f : MArray → MArray) : (s.mapArr f).hartDiv = s.hartDiv := rfl
@[simp] theorem State.mapArr_cal (s : State) (f : MArray → MArray) : (s.mapArr f).cal = s.cal := rfl
@[simp] theorem State.mapArr_inbox (s : State) (f : MArray → MArray) : (s.mapArr f).inbox = s.inbox := rfl
@[simp] theorem State.mapArr_staged (s : State) (f : MArray → MArray) : (s.mapArr f).staged = s.staged := rfl
@[simp] theorem State.mapArr_plan (s : State) (f : MArray → MArray) : (s.mapArr f).plan = s.plan := rfl
@[simp] theorem State.mapArr_verdict (s : State) (f : MArray → MArray) : (s.mapArr f).verdict = s.verdict := rfl
@[simp] theorem State.mapArr_fresh (s : State) (f : MArray → MArray) : (s.mapArr f).fresh = s.fresh := rfl
@[simp] theorem State.mapArr_tally (s : State) (f : MArray → MArray) : (s.mapArr f).tally = s.tally := rfl
@[simp] theorem State.mapArr_arr (s : State) (f : MArray → MArray) : (s.mapArr f).arr = f s.arr := rfl
@[simp] theorem State.mapArr_ctx (s : State) (f : MArray → MArray) : (s.mapArr f).ctx = s.ctx := rfl
@[simp] theorem State.mapArr_str (s : State) (f : MArray → MArray) : (s.mapArr f).str = s.str := rfl

/-! ## addDue -/

@[simp] theorem addDue_gcyc (s : State) (c r k : Nat) (w : Wake) : (addDue c r k w s).gcyc = s.gcyc := rfl
@[simp] theorem addDue_mem (s : State) (c r k : Nat) (w : Wake) : (addDue c r k w s).mem = s.mem := rfl
@[simp] theorem addDue_core (s : State) (c r k : Nat) (w : Wake) : (addDue c r k w s).core = s.core := rfl
@[simp] theorem addDue_arr (s : State) (c r k : Nat) (w : Wake) : (addDue c r k w s).arr = s.arr := rfl
@[simp] theorem addDue_cur (s : State) (c r k : Nat) (w : Wake) : (addDue c r k w s).cur = s.cur := rfl
@[simp] theorem addDue_others (s : State) (c r k : Nat) (w : Wake) : (addDue c r k w s).others = s.others := rfl
@[simp] theorem addDue_arrs (s : State) (c r k : Nat) (w : Wake) : (addDue c r k w s).arrs = s.arrs := rfl
@[simp] theorem addDue_bars (s : State) (c r k : Nat) (w : Wake) : (addDue c r k w s).bars = s.bars := rfl
@[simp] theorem addDue_winHold (s : State) (c r k : Nat) (w : Wake) : (addDue c r k w s).winHold = s.winHold := rfl
@[simp] theorem addDue_vfs (s : State) (c r k : Nat) (w : Wake) : (addDue c r k w s).vfs = s.vfs := rfl
@[simp] theorem addDue_images (s : State) (c r k : Nat) (w : Wake) : (addDue c r k w s).images = s.images := rfl
@[simp] theorem addDue_launches (s : State) (c r k : Nat) (w : Wake) : (addDue c r k w s).launches = s.launches := rfl
@[simp] theorem addDue_nextId (s : State) (c r k : Nat) (w : Wake) : (addDue c r k w s).nextId = s.nextId := rfl
@[simp] theorem addDue_rr (s : State) (c r k : Nat) (w : Wake) : (addDue c r k w s).rr = s.rr := rfl
@[simp] theorem addDue_done (s : State) (c r k : Nat) (w : Wake) : (addDue c r k w s).done = s.done := rfl
@[simp] theorem addDue_windows (s : State) (c r k : Nat) (w : Wake) : (addDue c r k w s).windows = s.windows := rfl
@[simp] theorem addDue_pod (s : State) (c r k : Nat) (w : Wake) : (addDue c r k w s).pod = s.pod := rfl
@[simp] theorem addDue_mboxes (s : State) (c r k : Nat) (w : Wake) : (addDue c r k w s).mboxes = s.mboxes := rfl
@[simp] theorem addDue_harts (s : State) (c r k : Nat) (w : Wake) : (addDue c r k w s).harts = s.harts := rfl
@[simp] theorem addDue_lines (s : State) (c r k : Nat) (w : Wake) : (addDue c r k w s).lines = s.lines := rfl
@[simp] theorem addDue_rings (s : State) (c r k : Nat) (w : Wake) : (addDue c r k w s).rings = s.rings := rfl
@[simp] theorem addDue_lists (s : State) (c r k : Nat) (w : Wake) : (addDue c r k w s).lists = s.lists := rfl
@[simp] theorem addDue_rrPort (s : State) (c r k : Nat) (w : Wake) : (addDue c r k w s).rrPort = s.rrPort := rfl
@[simp] theorem addDue_keys (s : State) (c r k : Nat) (w : Wake) : (addDue c r k w s).keys = s.keys := rfl
@[simp] theorem addDue_sealed (s : State) (c r k : Nat) (w : Wake) : (addDue c r k w s).sealed = s.sealed := rfl
@[simp] theorem addDue_bad (s : State) (c r k : Nat) (w : Wake) : (addDue c r k w s).bad = s.bad := rfl
@[simp] theorem addDue_soft (s : State) (c r k : Nat) (w : Wake) : (addDue c r k w s).soft = s.soft := rfl
@[simp] theorem addDue_charge (s : State) (c r k : Nat) (w : Wake) : (addDue c r k w s).charge = s.charge := rfl
@[simp] theorem addDue_svc (s : State) (c r k : Nat) (w : Wake) : (addDue c r k w s).svc = s.svc := rfl
@[simp] theorem addDue_clusterCnt (s : State) (c r k : Nat) (w : Wake) : (addDue c r k w s).clusterCnt = s.clusterCnt := rfl
@[simp] theorem addDue_packageCnt (s : State) (c r k : Nat) (w : Wake) : (addDue c r k w s).packageCnt = s.packageCnt := rfl
@[simp] theorem addDue_snapshot (s : State) (c r k : Nat) (w : Wake) : (addDue c r k w s).snapshot = s.snapshot := rfl
@[simp] theorem addDue_hartDiv (s : State) (c r k : Nat) (w : Wake) : (addDue c r k w s).hartDiv = s.hartDiv := rfl
@[simp] theorem addDue_inbox (s : State) (c r k : Nat) (w : Wake) : (addDue c r k w s).inbox = s.inbox := rfl
@[simp] theorem addDue_staged (s : State) (c r k : Nat) (w : Wake) : (addDue c r k w s).staged = s.staged := rfl
@[simp] theorem addDue_plan (s : State) (c r k : Nat) (w : Wake) : (addDue c r k w s).plan = s.plan := rfl
@[simp] theorem addDue_verdict (s : State) (c r k : Nat) (w : Wake) : (addDue c r k w s).verdict = s.verdict := rfl
@[simp] theorem addDue_fresh (s : State) (c r k : Nat) (w : Wake) : (addDue c r k w s).fresh = s.fresh := rfl
@[simp] theorem addDue_tally (s : State) (c r k : Nat) (w : Wake) : (addDue c r k w s).tally = s.tally := rfl
@[simp] theorem addDue_ctx (s : State) (c r k : Nat) (w : Wake) : (addDue c r k w s).ctx = s.ctx := rfl
@[simp] theorem addDue_str (s : State) (c r k : Nat) (w : Wake) : (addDue c r k w s).str = s.str := rfl

/-! ## stage -/

@[simp] theorem stage_gcyc (s : State) (u : Staged) : (stage u s).gcyc = s.gcyc := rfl
@[simp] theorem stage_mem (s : State) (u : Staged) : (stage u s).mem = s.mem := rfl
@[simp] theorem stage_core (s : State) (u : Staged) : (stage u s).core = s.core := rfl
@[simp] theorem stage_arr (s : State) (u : Staged) : (stage u s).arr = s.arr := rfl
@[simp] theorem stage_cur (s : State) (u : Staged) : (stage u s).cur = s.cur := rfl
@[simp] theorem stage_others (s : State) (u : Staged) : (stage u s).others = s.others := rfl
@[simp] theorem stage_arrs (s : State) (u : Staged) : (stage u s).arrs = s.arrs := rfl
@[simp] theorem stage_bars (s : State) (u : Staged) : (stage u s).bars = s.bars := rfl
@[simp] theorem stage_winHold (s : State) (u : Staged) : (stage u s).winHold = s.winHold := rfl
@[simp] theorem stage_vfs (s : State) (u : Staged) : (stage u s).vfs = s.vfs := rfl
@[simp] theorem stage_images (s : State) (u : Staged) : (stage u s).images = s.images := rfl
@[simp] theorem stage_launches (s : State) (u : Staged) : (stage u s).launches = s.launches := rfl
@[simp] theorem stage_nextId (s : State) (u : Staged) : (stage u s).nextId = s.nextId := rfl
@[simp] theorem stage_rr (s : State) (u : Staged) : (stage u s).rr = s.rr := rfl
@[simp] theorem stage_done (s : State) (u : Staged) : (stage u s).done = s.done := rfl
@[simp] theorem stage_windows (s : State) (u : Staged) : (stage u s).windows = s.windows := rfl
@[simp] theorem stage_pod (s : State) (u : Staged) : (stage u s).pod = s.pod := rfl
@[simp] theorem stage_mboxes (s : State) (u : Staged) : (stage u s).mboxes = s.mboxes := rfl
@[simp] theorem stage_harts (s : State) (u : Staged) : (stage u s).harts = s.harts := rfl
@[simp] theorem stage_lines (s : State) (u : Staged) : (stage u s).lines = s.lines := rfl
@[simp] theorem stage_rings (s : State) (u : Staged) : (stage u s).rings = s.rings := rfl
@[simp] theorem stage_lists (s : State) (u : Staged) : (stage u s).lists = s.lists := rfl
@[simp] theorem stage_rrPort (s : State) (u : Staged) : (stage u s).rrPort = s.rrPort := rfl
@[simp] theorem stage_keys (s : State) (u : Staged) : (stage u s).keys = s.keys := rfl
@[simp] theorem stage_sealed (s : State) (u : Staged) : (stage u s).sealed = s.sealed := rfl
@[simp] theorem stage_bad (s : State) (u : Staged) : (stage u s).bad = s.bad := rfl
@[simp] theorem stage_soft (s : State) (u : Staged) : (stage u s).soft = s.soft := rfl
@[simp] theorem stage_charge (s : State) (u : Staged) : (stage u s).charge = s.charge := rfl
@[simp] theorem stage_svc (s : State) (u : Staged) : (stage u s).svc = s.svc := rfl
@[simp] theorem stage_clusterCnt (s : State) (u : Staged) : (stage u s).clusterCnt = s.clusterCnt := rfl
@[simp] theorem stage_packageCnt (s : State) (u : Staged) : (stage u s).packageCnt = s.packageCnt := rfl
@[simp] theorem stage_snapshot (s : State) (u : Staged) : (stage u s).snapshot = s.snapshot := rfl
@[simp] theorem stage_hartDiv (s : State) (u : Staged) : (stage u s).hartDiv = s.hartDiv := rfl
@[simp] theorem stage_cal (s : State) (u : Staged) : (stage u s).cal = s.cal := rfl
@[simp] theorem stage_inbox (s : State) (u : Staged) : (stage u s).inbox = s.inbox := rfl
@[simp] theorem stage_plan (s : State) (u : Staged) : (stage u s).plan = s.plan := rfl
@[simp] theorem stage_verdict (s : State) (u : Staged) : (stage u s).verdict = s.verdict := rfl
@[simp] theorem stage_fresh (s : State) (u : Staged) : (stage u s).fresh = s.fresh := rfl
@[simp] theorem stage_tally (s : State) (u : Staged) : (stage u s).tally = s.tally := rfl
@[simp] theorem stage_ctx (s : State) (u : Staged) : (stage u s).ctx = s.ctx := rfl
@[simp] theorem stage_str (s : State) (u : Staged) : (stage u s).str = s.str := rfl
@[simp] theorem stage_staged (s : State) (u : Staged) : (stage u s).staged = s.staged ++ [u] := rfl
@[simp] theorem addDue_cal (s : State) (c r k : Nat) (w : Wake) : (addDue c r k w s).cal = insDue ⟨c, r, k, w⟩ s.cal := rfl

/-- What is scheduled stays scheduled, and the new entry is there. -/
theorem mem_insDue (d x : Due) (l : List Due) : x ∈ insDue d l ↔ x = d ∨ x ∈ l := by
  induction l with
  | nil => simp [insDue]
  | cons e es ih =>
    simp only [insDue]
    split
    · next h => subst h; simp
    · split
      · simp
      · simp only [List.mem_cons, ih, or_left_comm]

end Sys2Proof.Machine
end

