-- ==== Sys2Proof/Laws/Issue.lean ====
section
/-!
SUPPORT. Laws/Issue.lean: what the shared operations of an issue do: an instruction that is ready has its own checks only, reads the
state as it is, and goes on at the next word.
-/
namespace Sys2Proof.Machine

/-! ## Nothing stands in the way -/

theorem Ungated.gateStop {s : State} (h : Ungated s) : gateStop s = none := by
  unfold Machine.gateStop
  by_cases hc : s.cur = .A
  · obtain ⟨ha, hw⟩ := h hc
    have h1 : s.ctx.gate.all.any s.pendingId = false := by
      rw [List.any_eq_false]; intro id hid; simp [ha id hid]
    have h2 : s.core.eng.wc.any (WcEntry.before s.ctx.gate.wc) = false := by
      rw [List.any_eq_false]; intro e he; simp [hw e he]
    simp [h1, h2]
  · simp [hc]

theorem InSync.syncStop {h : Hdr} {s : State} (hi : InSync h s) : syncStop h s = none := by
  unfold Machine.syncStop
  by_cases h1 : h.s = true
  · by_cases h2 : s.core.syncmask.getLsbD s.cur.num = true
    · simp [hi h1 h2]
    · simp [h2]
  · simp [h1]

theorem Readable.noPending {us : List Use} {s : State} (h : Readable us s) :
    (us.any fun u => s.ctx.isPending s.cur u) = false := by
  rw [List.any_eq_false]; intro u hu; simp [(h u hu).1]

theorem Readable.deadStop {us : List Use} {s : State} (h : Readable us s) : deadStop us s = none := by
  unfold Machine.deadStop
  have : us.find? (fun u => s.ctx.isDead s.cur u) = none := by
    rw [List.find?_eq_none]; intro u hu; simp [(h u hu).2.1]
  split <;> simp [this]

theorem Readable.upsetStop {us : List Use} {s : State} (h : Readable us s) : upsetStop us s = none := by
  unfold Machine.upsetStop
  rw [List.find?_eq_none.mpr fun u hu => by cases hm : u.moves <;> simp [(h u hu).2.2, hm]]

theorem stageLoop_eq {l : Loop} {s : State} (h : l.stages = 0 ∨ l.first ≠ s.str.pc) : stageLoop l s = s := by
  unfold stageLoop
  rcases h with h | h <;> simp [h]

theorem Unstaged.stagePreds {s : State} (h : Unstaged s) : stagePreds s = s := by
  unfold Machine.stagePreds
  split
  · next hc =>
    have : ∀ ls : List Loop, (∀ l ∈ ls, l.stages = 0 ∨ l.first ≠ s.str.pc) → ls.foldr stageLoop s = s := by
      intro ls
      induction ls with
      | nil => intro _; rfl
      | cons l ls ih =>
        intro hl
        rw [List.foldr_cons, ih fun x hx => hl x (List.mem_cons_of_mem _ hx)]
        exact stageLoop_eq (hl l List.mem_cons_self)
    exact this _ (h hc)
  · rfl

theorem refreshDead_live {u : Use} {s : State} (h : s.ctx.isDead s.cur u = false) : refreshDead u s = s := by
  unfold refreshDead; rw [h]; rfl

/-- An instruction that is ready reads the state as it is. -/
theorem readied_eq {us : List Use} {s : State} (hr : Readable us s) (hu : Unstaged s) : readied us s = s := by
  unfold readied
  rw [hu.stagePreds]
  induction us with
  | nil => rfl
  | cons u us ih =>
    rw [List.foldl_cons, refreshDead_live (hr u List.mem_cons_self).2.1]
    exact ih fun x hx => hr x (List.mem_cons_of_mem _ hx)

/-- What stops an instruction that is ready: its own checks, then the latches. -/
theorem Ready.stops {h : Hdr} {long : Bool} {us : List Use} {s : State} (hr : Ready h long us s) (n : Need)
    (check : State → Option Stop) :
    stops h us n check s = match check s with | some x => some x | none => latchStop n s := by
  unfold Machine.stops
  simp only [hr.ungated.gateStop, hr.inSync.syncStop, hr.readable.noPending, hr.unstaged.stagePreds, hr.readable.upsetStop,
    hr.readable.deadStop,
    readied_eq hr.readable hr.unstaged, Bool.false_eq_true, if_false]
  all_goals cases check s <;> rfl

theorem latchStop_noNeed (s : State) : latchStop noNeed s = none := by
  simp [latchStop, noNeed]

theorem foldl_regs (fs : List Flight) (n : Nat) :
    fs.foldl (fun k f => k + f.regs.length) n = n + (fs.map fun f => f.regs.length).sum := by
  induction fs generalizing n with
  | nil => simp
  | cons f fs ih => simp only [List.foldl_cons, ih, List.map_cons, List.sum_cons]; omega

theorem LatchFree.latchStop {k : Nat} {s : State} (h : LatchFree k s) : latchStop ⟨true, k⟩ s = none := by
  obtain ⟨h8, hv⟩ := h
  unfold Machine.latchStop
  simp only [foldl_regs, Nat.zero_add]
  unfold flyingV at hv
  split
  · next hc =>
    simp only [Bool.true_and, Bool.or_eq_true, decide_eq_true_eq, Bool.and_eq_true] at hc
    rcases hc with hc | ⟨⟨hc, hk⟩, hc'⟩
    · omega
    · have := hv hc hk; omega
  · rfl

/-! ## The reads -/

theorem setStr_mapCtx_vdead (s : State) (t : Strand) (v : BitVec 32) :
    (s.mapCtx fun x => { x with vdead := v }).setStr t = (s.setStr t).mapCtx fun x => { x with vdead := v } := by
  simp only [State.setStr, State.mapCtx, State.setCtx]
  cases s.cur <;> rfl

theorem mapCtx_vdead_str (s : State) (v : BitVec 32) : (s.mapCtx fun x => { x with vdead := v }).str = s.str := by
  simp only [State.str, State.mapCtx, State.setCtx]
  cases s.cur <;> rfl

/-- A state in which only deaths have changed. -/
def withDeaths (s : State) (d v : BitVec 32) : State :=
  (s.setStr { s.str with dead := d }).mapCtx fun x => { x with vdead := v }

theorem withDeaths_self (s : State) : withDeaths s s.str.dead s.ctx.vdead = s := by
  unfold withDeaths
  rw [show ({ s.str with dead := s.str.dead } : Strand) = s.str from rfl, State.setStr_self]
  rfl

@[simp] theorem withDeaths_str (s : State) (d v : BitVec 32) : (withDeaths s d v).str = { s.str with dead := d } := by
  unfold withDeaths; rw [mapCtx_vdead_str, State.setStr_str]

@[simp] theorem withDeaths_vdead (s : State) (d v : BitVec 32) : (withDeaths s d v).ctx.vdead = v := rfl

theorem withDeaths_withDeaths (s : State) (d v d' v' : BitVec 32) : withDeaths (withDeaths s d v) d' v' = withDeaths s d' v' := by
  rw [withDeaths, withDeaths_str, withDeaths, setStr_mapCtx_vdead, State.setStr_setStr]
  rfl

theorem one_shift_get (n : Nat) (m : Nat) (h : m < 32) : ((1 : BitVec 32) <<< n).getLsbD m = decide (n = m) := by
  rw [BitVec.getLsbD_shiftLeft]
  by_cases h1 : n = m
  · subst h1; simp [h]
  · simp [h1]; omega

theorem kill_withDeaths (u : Use) (s : State) (d v : BitVec 32) : ∃ d' v',
    kill u (withDeaths s d v) = withDeaths s d' v'
      ∧ (∀ n : BitVec 5, d'.getLsbD n.toNat = (d.getLsbD n.toNat || killsS [u] n))
      ∧ ∀ p : Fin 32, v'.getLsbD p.val = (v.getLsbD p.val || killsV [u] s.ctx.v.rotb p) := by
  have hrot : (withDeaths s d v).ctx.v.rotb = s.ctx.v.rotb := by
    unfold withDeaths State.setStr State.mapCtx State.setCtx State.ctx State.str
    cases s.cur <;> rfl
  unfold kill
  by_cases hl : u.last = true
  · rw [if_pos hl]
    cases hk : u.kind with
    | scalar =>
      by_cases h0 : u.reg = 0
      · refine ⟨d, v, by simp [h0], fun n => ?_, fun p => by simp [killsV, hk]⟩
        have hz : killsS [u] n = false := by
          simp only [killsS, List.any_cons, List.any_nil, Bool.or_false]
          by_cases hn : n = 0
          · simp [hn]
          · have : ¬ u.reg = n := fun e => hn (e.symm.trans h0)
            simp [this]
        rw [hz, Bool.or_false]
      · refine ⟨d ||| ((1 : BitVec 32) <<< u.reg.toNat), v, ?_, fun n => ?_, fun p => by simp [killsV, hk]⟩
        · simp only [h0, if_false]
          rw [withDeaths_str, withDeaths, setStr_mapCtx_vdead, State.setStr_setStr]; rfl
        · rw [BitVec.getLsbD_or, one_shift_get _ _ n.isLt]
          congr 1
          simp only [killsS, List.any_cons, List.any_nil, hk, hl, Bool.or_false, Bool.and_true, decide_true, Bool.true_and]
          by_cases hn : u.reg = n
          · subst hn; simpa using h0
          · have : ¬ u.reg.toNat = n.toNat := fun e => hn (BitVec.eq_of_toNat_eq e)
            simp [hn, this]
    | vector =>
      refine ⟨d, v ||| ((1 : BitVec 32) <<< (physV s.ctx.v.rotb u.reg).val), ?_, fun n => by simp [killsS, hk], fun p => ?_⟩
      · simp only [hrot, withDeaths_vdead]
        rfl
      · rw [BitVec.getLsbD_or, one_shift_get _ _ p.isLt]
        congr 1
        simp [killsV, hk, hl, Fin.ext_iff]
    | pred => exact ⟨d, v, rfl, fun n => by simp [killsS, hk], fun p => by simp [killsV, hk]⟩
  · refine ⟨d, v, by rw [if_neg hl], fun n => by simp [killsS, hl], fun p => by simp [killsV, hl]⟩

theorem kills_withDeaths (us : List Use) (s : State) (d v : BitVec 32) : ∃ d' v',
    us.foldl (fun s u => kill u s) (withDeaths s d v) = withDeaths s d' v'
      ∧ (∀ n : BitVec 5, d'.getLsbD n.toNat = (d.getLsbD n.toNat || killsS us n))
      ∧ ∀ p : Fin 32, v'.getLsbD p.val = (v.getLsbD p.val || killsV us s.ctx.v.rotb p) := by
  induction us generalizing d v with
  | nil => exact ⟨d, v, rfl, fun n => by simp [killsS], fun p => by simp [killsV]⟩
  | cons u us ih =>
    obtain ⟨d1, v1, h1, hd1, hv1⟩ := kill_withDeaths u s d v
    obtain ⟨d2, v2, h2, hd2, hv2⟩ := ih d1 v1
    refine ⟨d2, v2, by rw [List.foldl_cons, h1, h2], fun n => ?_, fun p => ?_⟩
    · rw [hd2, hd1, Bool.or_assoc]
      congr 1
      simp only [killsS, List.any_cons, List.any_nil, Bool.or_false]
      cases decide (n ≠ 0) <;> simp
    · rw [hv2, hv1, Bool.or_assoc]
      congr 1
      simp [killsV]

/-- What an instruction that is ready finds: only the deaths of its last uses, and no wait being served. -/
theorem prepare_eq {us : List Use} {s : State} (hr : Readable us s) (hu : Unstaged s) : ∃ d v,
    prepare us s = (s.setStr { s.str with dead := d, waitg := none }).mapCtx (fun x => { x with vdead := v })
      ∧ (∀ n : BitVec 5, d.getLsbD n.toNat = (s.str.dead.getLsbD n.toNat || killsS us n))
      ∧ ∀ p : Fin 32, v.getLsbD p.val = (s.ctx.vdead.getLsbD p.val || killsV us s.ctx.v.rotb p) := by
  obtain ⟨d, v, h, hd, hv⟩ := kills_withDeaths us s s.str.dead s.ctx.vdead
  refine ⟨d, v, ?_, hd, hv⟩
  rw [withDeaths_self] at h
  unfold prepare
  simp only [readied_eq hr hu, h, withDeaths_str]
  rw [withDeaths, setStr_mapCtx_vdead, State.setStr_setStr]

/-! ## Going on -/

theorem loopEnds_straight {first last : Nat} {ls : List Loop} {lc : Vector (BitVec 32) 4}
    (h : ∀ l ∈ ls, l.last < first ∨ last < l.last) : loopEnds first last ls lc = (none, ls, lc) := by
  induction ls with
  | nil => rfl
  | cons l ls ih =>
    unfold loopEnds
    have hb : (decide (first ≤ l.last) && decide (l.last ≤ last)) = false := by
      have := h l List.mem_cons_self
      rw [Bool.and_eq_false_iff, decide_eq_false_iff_not, decide_eq_false_iff_not]
      omega
    simp only [hb, ih fun x hx => h x (List.mem_cons_of_mem _ hx), Bool.false_eq_true, if_false]

theorem endRots_straight {first last : Nat} {ls : List Loop} (h : ∀ l ∈ ls, l.last < first ∨ last < l.last) :
    endRots first last ls = 0 := by
  unfold endRots
  rw [List.length_eq_zero_iff, List.filter_eq_nil_iff]
  intro l hl
  have := h l hl
  simp only [Bool.and_eq_true, decide_eq_true_eq]
  omega

/-- An effect that neither transfers nor waits goes on at the next word where no loop ends. -/
theorem retire_straight {h : Hdr} {long : Bool} {pc : Nat} {u : State}
    (hs : ∀ l ∈ u.str.loops, l.last < pc ∨ (if long then pc + 4 else pc) < l.last) (n : Nat) :
    retire h long pc (after u n) =
      { u.setStr { u.str with
          pc := pc + (if long then 8 else 4), next := u.gcyc + 1 + h.i.toNat + n, held := false } with verdict := .issued } := by
  have he : loopEnds pc (if long then pc + 4 else pc) u.str.loops u.str.lc = (none, u.str.loops, u.str.lc) := loopEnds_straight hs
  simp only [retire, after, he, endRots_straight hs, stageRots, Option.getD_none]
  have : (if long then pc + 4 else pc) + 4 = pc + (if long then 8 else 4) := by cases long <;> rfl
  rw [this]

theorem retire_plain {h : Hdr} {long : Bool} {s u : State} (hs : Straight long s) (hl : u.str.loops = s.str.loops) :
    retire h long s.str.pc (plain u) =
      { u.setStr { u.str with
          pc := s.str.pc + (if long then 8 else 4), next := u.gcyc + 1 + h.i.toNat, held := false } with verdict := .issued } :=
  retire_straight (by rw [hl]; exact hs) 0

/-- An instruction that is ready and passes its own checks takes effect. -/
theorem issue_next {h : Hdr} {long : Bool} {us : List Use} {n : Need} {check : State → Option Stop} {eff : State → Eff} {s : State}
    (hr : Ready h long us s) (hc : check s = none) (hn : latchStop n s = none) :
    issue h long us n check eff s = .next (retire h long s.str.pc (eff (prepare us s))) := by
  unfold issue
  simp only [hr.stops, hc, hn]

/-- One whose own check raises an exception takes it. -/
theorem issue_trap {h : Hdr} {long : Bool} {us : List Use} {n : Need} {check : State → Option Stop} {eff : State → Eff} {s : State}
    {code : BitVec 6} {tval : Word} (hr : Ready h long us s) (hc : check s = some (.trap code tval)) :
    issue h long us n check eff s = .next (precise code tval s) := by
  unfold issue
  simp only [hr.stops, hc]

end Sys2Proof.Machine
end

