-- ==== Sys2Proof/Laws/Results.lean ====
section
/-!
SUPPORT. Laws/Results.lean: how an instruction's result reaches its register: at once (putS), or in flight (fly).
-/
namespace Sys2Proof.Machine

/-! ## What an instruction reads after its last uses -/

section
variable {us : List Use} {s : State} (hr : Readable us s) (hu : Unstaged s)
include hr hu

theorem prepare_regs : (prepare us s).str.regs = s.str.regs := by
  obtain ⟨d, v, h, -, -⟩ := prepare_eq hr hu
  rw [h, mapCtx_vdead_str, State.setStr_str]

theorem prepare_rs (n : BitVec 5) : (prepare us s).rs n = s.rs n := by
  unfold State.rs Strand.get; rw [prepare_regs hr hu]

theorem prepare_flights : (prepare us s).str.flights = s.str.flights := by
  obtain ⟨d, v, h, -, -⟩ := prepare_eq hr hu
  rw [h, mapCtx_vdead_str, State.setStr_str]

theorem prepare_strand_eq : ∃ d, (prepare us s).str = { s.str with dead := d, waitg := none } := by
  obtain ⟨d, v, h, -, -⟩ := prepare_eq hr hu
  exact ⟨d, by rw [h, mapCtx_vdead_str, State.setStr_str]⟩

theorem prepare_ctx_vregs : (prepare us s).ctx.vregs = s.ctx.vregs := by
  obtain ⟨d, v, h, -, -⟩ := prepare_eq hr hu
  rw [h, State.mapCtx_ctx, State.setStr_ctx]; simp

theorem prepare_ctx_preds : (prepare us s).ctx.preds = s.ctx.preds := by
  obtain ⟨d, v, h, -, -⟩ := prepare_eq hr hu
  rw [h, State.mapCtx_ctx, State.setStr_ctx]; simp

theorem prepare_rotb : (prepare us s).ctx.v.rotb = s.ctx.v.rotb := by
  obtain ⟨d, v, h, -, -⟩ := prepare_eq hr hu
  rw [h]
  simp only [State.mapCtx_ctx, State.setStr_ctx, State.str]
  cases s.cur <;> rfl

theorem prepare_rv (n : BitVec 5) : (prepare us s).rv n = s.rv n := by
  have h1 := prepare_rotb hr hu
  have h2 := prepare_ctx_vregs hr hu
  simp only [State.rv, Ctx.getV, State.core_ctx, h1, h2]

theorem prepare_rp (n : BitVec 3) : (prepare us s).rp n = s.rp n := by
  have h2 := prepare_ctx_preds hr hu
  simp only [State.rp, Ctx.getP, State.core_ctx, h2]

/-- The rest of the package is untouched. -/
theorem prepare_rest : ∃ x, prepare us s = s.setCtx x ∧ x.preds = s.ctx.preds ∧ x.tokens = s.ctx.tokens ∧ x.fq = s.ctx.fq
    ∧ x.tq = s.ctx.tq ∧ x.acc = s.ctx.acc ∧ x.gate = s.ctx.gate ∧ x.group = s.ctx.group := by
  obtain ⟨d, v, h, -, -⟩ := prepare_eq hr hu
  exact ⟨_, h, by simp, by simp, by simp, by simp, by simp, by simp, by simp⟩

theorem prepare_gcyc : (prepare us s).gcyc = s.gcyc := by
  obtain ⟨x, h, -⟩ := prepare_rest hr hu; rw [h]; rfl

theorem prepare_mem : (prepare us s).mem = s.mem := by
  obtain ⟨x, h, -⟩ := prepare_rest hr hu; rw [h]; rfl

theorem prepare_cur : (prepare us s).cur = s.cur := by
  obtain ⟨x, h, -⟩ := prepare_rest hr hu; rw [h]; rfl

end

/-! ## The issue of a strand's result -/

theorem setStr_cal (s : State) (t : Strand) (c : List Due) :
    ({ s with cal := c } : State).setStr t = { s.setStr t with cal := c } := rfl

theorem str_cal (s : State) (c : List Due) : ({ s with cal := c } : State).str = s.str := rfl

theorem get_of_regs {t u : Strand} (h : t.regs = u.regs) (n : BitVec 5) : t.get n = u.get n := by
  unfold Strand.get; rw [h]

theorem Strand.get_put (t : Strand) (d n : BitVec 5) (v : Word) :
    (t.put d v).get n = if n = d ∧ d ≠ 0 then v else t.get n := by
  unfold Strand.put
  by_cases hd : d = 0
  · rw [if_pos hd, if_neg (show ¬ (n = d ∧ d ≠ 0) from fun h => h.2 hd)]
  · rw [if_neg hd]
    unfold Strand.get
    by_cases hn : n = d
    · rw [if_pos (show n = d ∧ d ≠ 0 from ⟨hn, hd⟩), if_neg (show ¬ n = 0 from hn ▸ hd)]
      subst hn; simp
    · have : d.toNat ≠ n.toNat := fun e => hn (BitVec.eq_of_toNat_eq e.symm)
      rw [if_neg (show ¬ (n = d ∧ d ≠ 0) from fun h => hn h.1)]
      by_cases h0 : n = 0
      · rw [if_pos h0, if_pos h0]
      · rw [if_neg h0, if_neg h0]; exact Vector.getElem_set_ne d.isLt n.isLt this

/-- What retiring leaves when the effect changed the strand's scalars, deaths and flights, and scheduled something. -/
theorem retire_strand {h : Hdr} {long : Bool} {us : List Use} {s : State} (hr : Ready h long us s) (regs : Vector Word 32)
    (clear mark : BitVec 32 → BitVec 32) (fl : List Flight) (cal : List Due) :
    ∃ t, retire h long s.str.pc (plain
        { (prepare us s).setStr { (prepare us s).str with
            regs := regs, dead := clear (prepare us s).str.dead, upset := mark (prepare us s).str.upset, flights := fl } with
          cal := cal }) = t
      ∧ Issued h long s t ∧ t.str.regs = regs ∧ t.str.flights = fl ∧ t.cal = cal ∧ OnlyStrand s t ∧ t.mem = s.mem
      ∧ t.str.dead = clear (prepare us s).str.dead ∧ t.ctx.vdead = (prepare us s).ctx.vdead ∧ t.str.upset = mark s.str.upset := by
  obtain ⟨d, v, hp, -, -⟩ := prepare_eq hr.readable hr.unstaged
  have hps : (prepare us s).str = { s.str with dead := d, waitg := none } := by
    rw [hp, mapCtx_vdead_str, State.setStr_str]
  have hu : { (prepare us s).setStr { (prepare us s).str with
        regs := regs, dead := clear (prepare us s).str.dead, upset := mark (prepare us s).str.upset, flights := fl } with cal := cal }
      = { (s.setStr { s.str with regs := regs, dead := clear d, upset := mark s.str.upset, flights := fl, waitg := none }).mapCtx
          (fun x => { x with vdead := v }) with cal := cal } := by
    rw [hps, hp, setStr_mapCtx_vdead, State.setStr_setStr]
  have hpv : (prepare us s).ctx.vdead = v := by rw [hp]; rfl
  refine ⟨_, rfl, ?_⟩
  rw [hu, retire_plain hr.straight (by rw [str_cal, mapCtx_vdead_str, State.setStr_str]), hpv, hps]
  simp only [str_cal, mapCtx_vdead_str, State.setStr_str]
  rw [setStr_cal, setStr_mapCtx_vdead, State.setStr_setStr]
  have key : ∀ (x : State) (t : Strand) (w : BitVec 32) (c : List Due) (y : Verdict),
      ({ ((x.setStr t).mapCtx fun z => { z with vdead := w }) with cal := c, verdict := y } : State).str = t := by
    intro x t w c y
    show (((x.setStr t).mapCtx fun z => { z with vdead := w })).str = t
    rw [mapCtx_vdead_str, State.setStr_str]
  refine ⟨⟨rfl, ?_, ?_, ?_, ?_⟩, ?_, ?_, rfl, ?_, rfl, ?_, rfl, ?_⟩
  all_goals first
    | (rw [OnlyStrand]; simp only [key]; rfl)
    | (simp only [key]; rfl)
    | simp only [key]

theorem deaths_none {us : List Use} {s t : State} (hr : Readable us s) (hu : Unstaged s)
    (hd : t.str.dead = (prepare us s).str.dead) (hv : t.ctx.vdead = (prepare us s).ctx.vdead) : Deaths us none s t := by
  obtain ⟨d, v, hp, h1, h2⟩ := prepare_eq hr hu
  rw [hp] at hd hv
  rw [mapCtx_vdead_str, State.setStr_str] at hd
  refine ⟨fun n => ?_, fun p => ?_⟩
  · simp [hd, h1]
  · rw [hv]; exact h2 p

/-- An instruction whose effect is to write one scalar at once. -/
theorem issue_putS {h : Hdr} {long : Bool} {us : List Use} {n : Need} {check : State → Option Stop} {d : BitVec 5}
    {v : State → Word} {s : State} (hr : Ready h long us s) (hc : check s = none) (hn : latchStop n s = none)
    (hv : v (prepare us s) = v s) :
    ∃ t, issue h long us n check (fun s => plain (putS d (v s) s)) s = .next t ∧ Wrote h long us d (v s) s t := by
  rw [issue_next hr hc hn]
  have hg := prepare_gcyc hr.readable hr.unstaged
  have hf := prepare_flights hr.readable hr.unstaged
  let fs := s.str.flights.map (Flight.under s.gcyc d)
  have hfs : (prepare us s).str.flights.map (Flight.under (prepare us s).gcyc d) = fs := by rw [hf, hg]
  have hput : putS d (v (prepare us s)) (prepare us s) = { (prepare us s).setStr { (prepare us s).str with
        regs := (({ (prepare us s).str with flights := fs } : Strand).put d (v s)).regs
        dead := (if d = 0 then id else fun x => x &&& ~~~((1 : BitVec 32) <<< d.toNat)) (prepare us s).str.dead
        upset := (if d = 0 then id else fun x => x &&& ~~~((1 : BitVec 32) <<< d.toNat)) (prepare us s).str.upset, flights := fs } with
      cal := s.cal } := by
    have hcal : (prepare us s).cal = s.cal := by
      obtain ⟨x, h, -⟩ := prepare_rest hr.readable hr.unstaged; rw [h]; rfl
    rw [hv]; unfold putS
    simp only [hfs]
    unfold Strand.put
    split <;> (rw [← hcal]; rfl)
  obtain ⟨t, ht, h1, h2, h3, h4, h5, h6, h7, h8, h9⟩ := retire_strand hr
    (({ (prepare us s).str with flights := fs } : Strand).put d (v s)).regs
    (if d = 0 then id else fun x => x &&& ~~~((1 : BitVec 32) <<< d.toNat))
    (if d = 0 then id else fun x => x &&& ~~~((1 : BitVec 32) <<< d.toNat)) fs s.cal
  have hget : ∀ m, t.str.get m = if m = d ∧ d ≠ 0 then v s else s.str.get m := by
    intro m
    rw [get_of_regs h2, Strand.get_put]
    have : ({ (prepare us s).str with flights := fs } : Strand).get m = s.str.get m :=
      get_of_regs (by exact prepare_regs hr.readable hr.unstaged) m
    rw [this]
  refine ⟨t, by rw [hput, ht], h1, fun hd => by rw [hget, if_pos ⟨rfl, hd⟩], ?_,
    fun m hm => by rw [hget, if_neg fun h => hm h.1], ?_, by rw [h9]; split <;> rfl, h3, h5, h4,
    fun a => by rw [h6]⟩
  · unfold Strand.get; simp
  · obtain ⟨dd, vv, hp, hd1, hd2⟩ := prepare_eq hr.readable hr.unstaged
    have hps : (prepare us s).str.dead = dd := by rw [hp, mapCtx_vdead_str, State.setStr_str]
    refine ⟨fun m => ?_, fun p => ?_⟩
    · rw [h7, hps]
      by_cases hd : d = 0
      · subst hd
        have : ¬ (some (0 : BitVec 5) = some m ∧ m ≠ 0) := by rintro ⟨h, h'⟩; exact h' (by simpa using h.symm)
        simp only [if_true, id, hd1, if_neg this]
      · simp only [hd, if_false]
        rw [BitVec.getLsbD_and, BitVec.getLsbD_not, one_shift_get _ _ m.isLt]
        by_cases hm : d = m
        · subst hm
          rw [if_pos ⟨rfl, hd⟩]; simp
        · have hne : d.toNat ≠ m.toNat := fun e => hm (BitVec.eq_of_toNat_eq e)
          have : ¬ (some d = some m ∧ m ≠ 0) := by rintro ⟨h, -⟩; exact hm (by simpa using h)
          rw [if_neg this, ← hd1]
          simp [hne, m.isLt]
    · rw [h8, hp]; exact hd2 p

/-- An instruction whose effect is to put results in flight. -/
theorem issue_fly {h : Hdr} {us : List Use} {n : Need} {check : State → Option Stop} {kind : RegKind} {lat : Nat}
    {regs : State → List Landing} {s : State} (hr : Ready h false us s) (hc : check s = none) (hn : latchStop n s = none)
    (hv : regs (prepare us s) = regs s) :
    ∃ t, issue h false us n check (fun s => plain (fly kind (regs s) lat s)) s = .next t
      ∧ Flies h false us kind lat (regs s) s t := by
  rw [issue_next hr hc hn]
  obtain ⟨x, hx, -⟩ := prepare_rest hr.readable hr.unstaged
  have hg := prepare_gcyc hr.readable hr.unstaged
  have hf := prepare_flights hr.readable hr.unstaged
  have hcal : (prepare us s).cal = s.cal := by rw [hx]; rfl
  have hidx : (prepare us s).core.idx = s.core.idx := by rw [hx]; rfl
  let fs := s.str.flights ++ [⟨kind, regs s, some (s.gcyc + lat - 1), s.gcyc, true, false, false, none, 0, none⟩]
  let cal := insDue ⟨s.gcyc + lat - 1, 8, s.core.idx, .resultLanding s.core.idx⟩ s.cal
  have hfly : fly kind (regs (prepare us s)) lat (prepare us s) = { (prepare us s).setStr { (prepare us s).str with
        regs := (prepare us s).str.regs, dead := id (prepare us s).str.dead, upset := id (prepare us s).str.upset, flights := fs } with
      cal := cal } := by
    rw [hv]
    simp only [fly, addDue, hg, hf, hidx, State.setStr_cal, hcal]
    rfl
  obtain ⟨t, ht, h1, h2, h3, h4, h5, h6, h7, h8, h9⟩ := retire_strand hr (prepare us s).str.regs id id fs cal
  refine ⟨t, by rw [hfly, ht], h1, by rw [h2, prepare_regs hr.readable hr.unstaged], h9, deaths_none hr.readable hr.unstaged h7 h8, h3, h5,
    ?_, fun x hx => ?_, fun a => by rw [h6]⟩
  · rw [h4]; exact (mem_insDue _ _ _).2 (.inl rfl)
  · rw [h4]; exact (mem_insDue _ _ _).2 (.inr hx)

/-- An instruction with one scalar result of latency 1. -/
theorem issueS_now {h : Hdr} {us : List Use} {d : BitVec 5} {v : State → Word} {s : State} (hr : Ready h false us s)
    (hv : v (prepare us s) = v s) : ∃ t, issueS h us 1 d v s = .next t ∧ Wrote h false us d (v s) s t := by
  have : (fun s => plain (result 1 d (v s) s)) = fun s => plain (putS d (v s) s) := by funext s; simp [result]
  unfold issueS
  simp only [this]
  exact issue_putS hr rfl (latchStop_noNeed s) hv

/-- An instruction with one scalar result of a longer latency. -/
theorem issueS_later {h : Hdr} {us : List Use} {lat : Nat} {d : BitVec 5} {v : State → Word} {s : State} (hl : 1 < lat)
    (hr : Ready h false us s) (hf : LatchFree 0 s) (hv : v (prepare us s) = v s) :
    ∃ t, issueS h us lat d v s = .next t ∧ Flies h false us .scalar lat [scalarResult d (v s)] s t := by
  have hle : ¬ lat ≤ 1 := by omega
  have : (fun s => plain (result lat d (v s) s)) = fun s => plain (fly .scalar [scalarResult d (v s)] lat s) := by
    funext s; simp [result, hle, scalarResult]
  unfold issueS
  simp only [this, hle, if_false]
  exact issue_fly (regs := fun s => [scalarResult d (v s)]) hr rfl hf.latchStop (by rw [hv])

/-! ## Effects of other kinds -/

/-- A state in which only deaths have changed and no wait is being served. -/
def withUses (s : State) (d v : BitVec 32) : State :=
  (s.setStr { s.str with dead := d, waitg := none }).mapCtx fun x => { x with vdead := v }

@[simp] theorem withUses_str (s : State) (d v : BitVec 32) : (withUses s d v).str = { s.str with dead := d, waitg := none } := by
  unfold withUses; rw [mapCtx_vdead_str, State.setStr_str]

@[simp] theorem withUses_vdead (s : State) (d v : BitVec 32) : (withUses s d v).ctx.vdead = v := rfl

/-- A change of the strand that leaves deaths and waits alone commutes with the reads of an issue. -/
theorem setStr_withUses (s : State) (d v : BitVec 32) (g : Strand → Strand)
    (hg : ∀ t, g { t with dead := d, waitg := none } = { g t with dead := d, waitg := none }) :
    (withUses s d v).setStr (g (withUses s d v).str) = withUses (s.setStr (g s.str)) d v := by
  rw [withUses_str, hg]
  simp only [withUses, setStr_mapCtx_vdead, State.setStr_setStr, State.setStr_str]

/-- So does a change of the context that leaves strands and deaths alone. -/
theorem mapCtx_withUses (s : State) (d v : BitVec 32) (g : Ctx → Ctx)
    (hg : ∀ x st t, g { x.setStrand st t with vdead := v } = { (g x).setStrand st t with vdead := v })
    (hs : ∀ x st, (g x).strand st = x.strand st) : (withUses s d v).mapCtx g = withUses (s.mapCtx g) d v := by
  have h1 : (s.mapCtx g).str = s.str := hs _ _
  rw [withUses, withUses, h1]
  exact congrArg (fun c => s.setCtx c) (hg s.core.ctx s.cur _)

/-- An instruction whose effect beside its issue is w: what `issue` leaves. -/
theorem issue_went {h : Hdr} {long : Bool} {us : List Use} {n : Need} {check : State → Option Stop} {eff : State → Eff}
    {s w : State} {pc next : Nat} (hr : Ready h long us s) (hc : check s = none) (hn : latchStop n s = none)
    (hw : ∀ d v, retire h long s.str.pc (eff (withUses s d v)) =
      { (withUses w d v).setStr { (withUses w d v).str with pc := pc, next := next, held := false } with verdict := .issued }) :
    ∃ t, issue h long us n check eff s = .next t ∧ Went us pc next w s t ∧ t.str.waitg = none := by
  obtain ⟨d, v, hp, hd, hv⟩ := prepare_eq hr.readable hr.unstaged
  rw [issue_next hr hc hn, hp]
  refine ⟨_, rfl, ?_⟩
  have := hw d v
  unfold withUses at this
  rw [this]
  simp only [mapCtx_vdead_str, State.setStr_str]
  rw [setStr_mapCtx_vdead, State.setStr_setStr]
  have key : ∀ (x : State) (t : Strand) (w : BitVec 32) (y : Verdict),
      ({ ((x.setStr t).mapCtx fun z => { z with vdead := w }) with verdict := y } : State).str = t := by
    intro x t w y
    show (((x.setStr t).mapCtx fun z => { z with vdead := w })).str = t
    rw [mapCtx_vdead_str, State.setStr_str]
  refine ⟨⟨rfl, ?_, ?_, ?_, ⟨fun m => ?_, fun p => hv p⟩, ?_⟩, ?_⟩
  · simp only [key]
  · simp only [key]
  · simp only [key]
  · simp only [key, reduceCtorEq, false_and, if_false]; exact hd m
  · simp only [key]; rfl
  · simp only [key]

@[simp] theorem withUses_gcyc (s : State) (d v : BitVec 32) : (withUses s d v).gcyc = s.gcyc := rfl

/-- One that goes on at the next word, `k` cycles later than its idle count asks. -/
theorem issue_after {h : Hdr} {long : Bool} {us : List Use} {n : Need} {check : State → Option Stop} {eff : State → Eff}
    {s w : State} {k : Nat} (hr : Ready h long us s) (hc : check s = none) (hn : latchStop n s = none)
    (hl : ∀ l ∈ w.str.loops, l.last < s.str.pc ∨ (if long then s.str.pc + 4 else s.str.pc) < l.last)
    (hg : w.gcyc = s.gcyc) (he : ∀ d v, eff (withUses s d v) = after (withUses w d v) k) :
    ∃ t, issue h long us n check eff s = .next t
      ∧ Went us (s.str.pc + (if long then 8 else 4)) (s.gcyc + 1 + h.i.toNat + k) w s t ∧ t.str.waitg = none :=
  issue_went hr hc hn fun d v => by
    rw [he, retire_straight (by rw [withUses_str]; exact hl), withUses_gcyc, hg]

/-- One that goes on at the next word. -/
theorem issue_acts {h : Hdr} {long : Bool} {us : List Use} {n : Need} {check : State → Option Stop} {eff : State → Eff}
    {s w : State} (hr : Ready h long us s) (hc : check s = none) (hn : latchStop n s = none)
    (hl : w.str.loops = s.str.loops) (hg : w.gcyc = s.gcyc) (he : ∀ d v, eff (withUses s d v) = plain (withUses w d v)) :
    ∃ t, issue h long us n check eff s = .next t
      ∧ Went us (s.str.pc + (if long then 8 else 4)) (s.gcyc + 1 + h.i.toNat) w s t ∧ t.str.waitg = none :=
  issue_after (k := 0) hr hc hn (by rw [hl]; exact hr.straight) hg he

/-- One that transfers. -/
theorem issue_jumps {h : Hdr} {us : List Use} {n : Need} {check : State → Option Stop} {eff : State → Eff}
    {s w : State} {g : Nat} (hr : Ready h false us s) (hc : check s = none) (hn : latchStop n s = none)
    (hl : w.str.loops = s.str.loops) (hg : w.gcyc = s.gcyc) (he : ∀ d v, eff (withUses s d v) = jump (withUses w d v) g) :
    ∃ t, issue h false us n check eff s = .next t ∧ t.str.waitg = none
      ∧ Went us g (s.gcyc + 1 + h.i.toNat)
          (w.setStr { w.str with loops := loopsAt g s.str.loops }) s t := by
  obtain ⟨t, h1, h2, h3⟩ := issue_went (eff := eff) (pc := g) (next := s.gcyc + 1 + h.i.toNat)
    (w := w.setStr { w.str with loops := loopsAt g s.str.loops }) hr hc hn fun d v => by
      rw [he]
      have h0 : endRots s.str.pc (if false = true then s.str.pc + 4 else s.str.pc) s.str.loops = 0 := endRots_straight hr.straight
      simp only [loopsAt, retire, jump, withUses_str, withUses_gcyc, State.setStr_gcyc, hg, hl, h0, stageRots, State.setStr_str, Nat.add_zero]
      simp only [withUses, State.setStr_str, State.setStr_setStr, setStr_mapCtx_vdead]
  exact ⟨t, h1, h3, h2⟩

/-! ## A scalar written beside another effect -/

theorem putS_withUses (w : State) (dd vv : BitVec 32) (d : BitVec 5) (v : Word) : ∃ u : Strand,
    putS d v (withUses w dd vv) = (w.setStr u).mapCtx (fun x => { x with vdead := vv })
      ∧ u = { w.str with regs := u.regs, dead := u.dead, upset := u.upset, flights := u.flights, waitg := none }
      ∧ (u.upset = if d = 0 then w.str.upset else w.str.upset &&& ~~~((1 : BitVec 32) <<< d.toNat))
      ∧ u.flights = w.str.flights.map (Flight.under w.gcyc d)
      ∧ (∀ n, u.get n = if n = d ∧ d ≠ 0 then v else w.str.get n)
      ∧ ∀ m : BitVec 5, u.dead.getLsbD m.toNat = if some d = some m ∧ m ≠ 0 then false else dd.getLsbD m.toNat := by
  let fs := w.str.flights.map (Flight.under w.gcyc d)
  let t : Strand := { w.str with dead := dd, waitg := none, flights := fs }
  have hfs : (withUses w dd vv).str.flights.map (Flight.under (withUses w dd vv).gcyc d) = fs := by
    rw [withUses_str, withUses_gcyc]
  refine ⟨t.put d v, ?_, ?_, ?_, ?_, fun n => ?_, fun m => ?_⟩
  · unfold putS
    dsimp only
    rw [hfs, withUses_str, withUses, setStr_mapCtx_vdead, State.setStr_setStr]
  · unfold Strand.put; split <;> rfl
  · unfold Strand.put; split <;> rfl
  · unfold Strand.put; split <;> rfl
  · rw [Strand.get_put]; rfl
  · unfold Strand.put
    by_cases hd : d = 0
    · rw [if_pos hd, if_neg]
      rintro ⟨h, h'⟩; exact h' ((Option.some.inj h).symm.trans hd)
    · rw [if_neg hd]
      show (dd &&& ~~~((1 : BitVec 32) <<< d.toNat)).getLsbD m.toNat = _
      rw [BitVec.getLsbD_and, BitVec.getLsbD_not, one_shift_get _ _ m.isLt]
      by_cases hm : d = m
      · subst hm; rw [if_pos ⟨rfl, hd⟩]; simp
      · have hne : d.toNat ≠ m.toNat := fun e => hm (BitVec.eq_of_toNat_eq e)
        rw [if_neg (show ¬ (some d = some m ∧ m ≠ 0) from fun h => hm (Option.some.inj h.1))]
        simp [hne, m.isLt]

/-- An effect w beside a scalar result of latency 1, whatever follows it. -/
theorem issue_scalars {h : Hdr} {long : Bool} {us : List Use} {n : Need} {check : State → Option Stop} {eff : State → Eff}
    {s w : State} {d : BitVec 5} {v : Word} {pc : Nat} {ls : List Loop}
    (hr : Ready h long us s) (hc : check s = none) (hn : latchStop n s = none)
    (he : ∀ d0 v0, retire h long s.str.pc (eff (withUses s d0 v0)) =
      { (putS d v (withUses w d0 v0)).setStr { (putS d v (withUses w d0 v0)).str with
        pc := pc, loops := ls, next := s.gcyc + 1 + h.i.toNat, held := false } with verdict := .issued })
    (hg : w.gcyc = s.gcyc) (hmem : w.mem = s.mem) (hregs : w.str.regs = s.str.regs) (hmk : w.str.upset = s.str.upset)
    (hfl : w.str.flights = s.str.flights) :
    ∃ t, issue h long us n check eff s = .next t ∧ t.verdict = .issued ∧ t.str.pc = pc ∧ t.str.next = s.gcyc + 1 + h.i.toNat
      ∧ t.str.held = false ∧ t.str.loops = ls ∧ Scalars us d v w s t := by
  obtain ⟨dd, vv, hp, hd, hv⟩ := prepare_eq hr.readable hr.unstaged
  rw [issue_next hr hc hn, hp]
  refine ⟨_, rfl, ?_⟩
  have hh := he dd vv
  obtain ⟨u, h1, h2, h6, h3, h4, h5⟩ := putS_withUses w dd vv d v
  rw [h1] at hh
  unfold withUses at hh
  rw [hh]
  simp only [mapCtx_vdead_str, State.setStr_str]
  rw [setStr_mapCtx_vdead, State.setStr_setStr]
  have key : ∀ (x : State) (t : Strand) (w : BitVec 32) (y : Verdict),
      ({ ((x.setStr t).mapCtx fun z => { z with vdead := w }) with verdict := y } : State).str = t := by
    intro x t w y
    show (((x.setStr t).mapCtx fun z => { z with vdead := w })).str = t
    rw [mapCtx_vdead_str, State.setStr_str]
  have hwg : ∀ m, w.str.get m = s.str.get m := fun m => get_of_regs hregs m
  have hget : ∀ (a b : Nat) (l : List Loop) m, ({ u with pc := a, loops := l, next := b, held := false } : Strand).get m = u.get m :=
    fun a b l m => get_of_regs (by rfl) m
  refine ⟨trivial, ?_, ?_, ?_, ?_, ⟨?_, ?_, ?_, ⟨fun m => ?_, fun p => hv p⟩, ?_, ?_, ?_, rfl, ?_⟩⟩
  · simp only [key]
  · simp only [key]
  · simp only [key]
  · simp only [key]
  · intro hd0; simp only [key, hget]; rw [h4, if_pos ⟨rfl, hd0⟩]
  · simp only [key]; unfold Strand.get; simp
  · intro m hm; simp only [key, hget]; rw [h4, if_neg (show ¬ (m = d ∧ d ≠ 0) from fun h => hm h.1), hwg]
  · simp only [key]; rw [h5, hd]
  · simp only [key]; rw [h6, hmk]
  · simp only [key]; rw [h3, hfl, hg]
  · rw [OnlyStrand]; simp only [key]; rw [h2]; rfl
  · intro a; show memRead w.mem a = _; rw [hmem]

end Sys2Proof.Machine
end

