-- ==== Sys2Proof/Laws/Access.lean ====
section
/-!
SUPPORT. Laws/Access.lean: what an access does when it issues: one that is admitted has no check that stops it, and one that no earlier
access precedes enters the queue with its perform cycle, its result in flight.
-/
namespace Sys2Proof.Machine

/-- An empty queue holds no store to join. -/
theorem merge_none (q : Req) (a : Access) (s : State) (h : s.ctx.acc = []) : mergeInto q a s = none := by
  unfold mergeInto
  split
  · rfl
  · rw [h]; rfl

/-- A range without an uncorrectable word has none under any of its bytes. -/
theorem badAt_byte {s : State} {a n b : Nat} (h : s.badAt a n = false) (h1 : a ≤ b) (h2 : b < a + n) : s.badAt b 1 = false := by
  unfold State.badAt at *
  rw [List.any_eq_false] at *
  intro w hw
  have := h w hw
  simp only [touchesWord, Bool.and_eq_true, decide_eq_true_eq, not_and] at *
  omega

/-- Outside GLOBAL space, bytes that no earlier store supplies are read without a fault where no word of theirs is uncorrectable. -/
theorem readFault_near {g : Bool} {rs : List (Nat × Nat × Word)} {s : State} (hg : g = false)
    (h : ∀ x ∈ ownBytes [] rs, s.badAt x.1 1 = false) : readFault g [] rs s = none := by
  have : ((ownBytes [] rs).any fun x => s.badAt x.1 1) = false := by rw [List.any_eq_false]; intro x hx; simp [h x hx]
  unfold readFault
  simp [hg, this]

/-- An admitted access of an idle unit passes its checks. -/
theorem check_none {q : Req} {s : State} (hq : QuietUnit s) (h0 : q.space ≠ 0) (hA : Admitted q s) : accessCheck q s = none := by
  have hg : (q.access s).global = false := by
    unfold Access.global Req.access; simpa [Req.space] using h0
  have hacq : acquireWaits ((q.access s).scope s.core.idx) s = false := by unfold acquireWaits; rw [hq.acquired]; rfl
  have hrel : releaseWaits q s = false := by
    unfold releaseWaits
    cases hr : q.rel
    · rfl
    · obtain ⟨h1, h2⟩ := hA.release hr
      by_cases h3 : q.scope = 2
      · have : (s.core.eng.wc.any fun e => e.hasA) = false := by rw [List.any_eq_false]; intro e he; simp [h2 h3 e he]
        simp [h1, this]
      · simp [h1, h3]
  have hfs : q.ptrs.filterMap (fun p => stepFault q.reach q.align q.len s.str.timed p s) = [] := by
    rw [List.filterMap_eq_nil_iff]
    intro p hp
    unfold stepFault
    rw [if_neg (by simp [hA.canon p hp]), if_neg (by simp [hA.aligned p hp])]
    rw [if_neg, if_neg, hA.admits p hp]
    · dsimp only
      rw [if_neg]
      cases ht : s.str.timed
      · simp
      · obtain ⟨a, b⟩ := hA.near ht p hp
        simp [a]
        intro c; exact Classical.byContradiction fun d => b ⟨c, d⟩
    · cases hz : spaceSize p s with
      | none => simp
      | some z => have := hA.inSpace p hp z hz; simp; omega
    · intro hc
      simp only [Bool.and_eq_true, Bool.or_eq_true, decide_eq_true_eq] at hc
      have := hA.typed p hp hc.1.1.1 hc.1.2
      rcases hc.2 with h | h
      · exact h this.1
      · exact h this.2
  unfold accessCheck
  simp only [hacq, hrel, Bool.or_self, Bool.false_eq_true, if_false, hfs, worstFault, hg]
  have hread : issueFault (q.access s) (if q.space < 4 then (q.access s).pieces.map fun x => (x.1, x.2, (0 : Word)) else []) s = none := by
    have hk' : (q.access s).kind = q.kind := rfl
    unfold issueFault
    rw [hk']
    cases hk : q.kind.isStore
    · have hf : ∀ x, forwarded s (s.ctx.acc.filter (Access.pendingAt s.gcyc)) x = [] := by intro x; rw [hq.empty]; rfl
      simp only [Bool.false_eq_true, if_false, hf]
      refine readFault_near hg fun x hx => ?_
      by_cases h4 : q.space < 4
      · rw [if_pos h4] at hx
        simp only [ownBytes, List.any_nil, Bool.not_false, Req.access, h0, if_false, List.map_map,
          List.mem_flatMap, List.mem_filter, List.mem_map, Function.comp, List.mem_range] at hx
        obtain ⟨r, ⟨p, hp, rfl⟩, ⟨j, hj, rfl⟩, -⟩ := hx
        exact badAt_byte (hA.good hk h4 p hp) (by simp) (by simpa using hj)
      · rw [if_neg h4] at hx; cases hx
    · rfl
  have hword : (decide (q.space = 6) && !q.kind.isStore && s.badAt (barAddr (barKey (ptrIdx q.first) (ptrOff q.first / 8))) 8) = false := by
    by_cases h6 : q.space = 6
    · cases hk : q.kind.isStore
      · simp [hA.word hk h6]
      · simp
    · simp [h6]
  rw [hword, hread]
  simp only [Bool.false_eq_true, if_false]
  split
  · next w hw =>
    obtain ⟨h1, h2⟩ := hA.posts w hw
    have h3 : allowanceCovers w (List.replicate q.ptrs.length q.len) s = true := by rw [← List.map_const']; exact h1
    simp [h1, h2, h3, queueLength, hq.empty]
  · rw [merge_none q _ s hq.empty]
    simp [queueLength, hq.empty, moved]


/-- No result bears a new identifier. -/
theorem mapFlights_new (id : Nat) (g : Flight → Flight) (fs : List Flight) (h : ∀ f ∈ fs, f.access ≠ some id) :
    fs.map (fun x => if x.access = some id then g x else x) = fs := by
  conv => rhs; rw [← List.map_id fs]
  exact List.map_congr_left fun f hf => by rw [if_neg (h f hf)]; rfl

/-- A change of the results of a new identifier reaches those just added. -/
theorem mapFlight_last {id : Nat} {g : Flight → Flight} {s : State} {fs l : List Flight}
    (h1 : ¬ Bears id { s.core.ctx with a := { s.core.ctx.a with flights := fs } }) (h2 : ¬ Bears id s.core.shadow)
    (hf : s.core.ctx.a.flights = fs ++ l) (h0 : ∀ f ∈ l, f.access = some id) :
    mapFlight id g s = s.mapCtx fun x => { x with a := { x.a with flights := fs ++ l.map g } } := by
  have key : ∀ x : Ctx, ¬ Bears id x → (∀ f ∈ x.a.flights, f.access ≠ some id) ∧ (∀ f ∈ x.v.flights, f.access ≠ some id)
      ∧ ∀ fr, x.frame = some fr → (∀ f ∈ fr.sa.st.flights, f.access ≠ some id) ∧ ∀ f ∈ fr.sv.st.flights, f.access ≠ some id := by
    intro x hx
    refine ⟨fun f h e => hx ⟨f, .inl (List.mem_append_left _ h), e⟩, fun f h e => hx ⟨f, .inl (List.mem_append_right _ h), e⟩,
      fun fr hfr => ⟨fun f h e => hx ⟨f, .inr ⟨fr, hfr, List.mem_append_left _ h⟩, e⟩,
        fun f h e => hx ⟨f, .inr ⟨fr, hfr, List.mem_append_right _ h⟩, e⟩⟩⟩
  obtain ⟨a1, a2, a3⟩ := key _ h1
  obtain ⟨b1, b2, b3⟩ := key _ h2
  have fr : ∀ (o : Option Frame), (∀ fr, o = some fr → (∀ f ∈ fr.sa.st.flights, f.access ≠ some id) ∧ ∀ f ∈ fr.sv.st.flights, f.access ≠ some id) →
      o.map (fun fr => { fr with
        sa := { fr.sa with st := { fr.sa.st with flights := fr.sa.st.flights.map fun x => if x.access = some id then g x else x } }
        sv := { fr.sv with st := { fr.sv.st with flights := fr.sv.st.flights.map fun x => if x.access = some id then g x else x } } }) = o := by
    intro o ho
    cases o with
    | none => rfl
    | some fr =>
      obtain ⟨c1, c2⟩ := ho fr rfl
      simp only [Option.map_some]
      rw [mapFlights_new id g _ c1, mapFlights_new id g _ c2]
  unfold mapFlight
  dsimp only
  rw [hf, List.map_append, mapFlights_new id g fs a1, mapFlights_new id g _ a2, fr _ a3, mapFlights_new id g _ b1, mapFlights_new id g _ b2,
    fr _ b3]
  have : l.map (fun x => if x.access = some id then g x else x) = l.map g := List.map_congr_left fun f hf => by rw [if_pos (h0 f hf)]
  rw [this]
  rfl

/-- What an access does to strand A's unit. -/
theorem accessEff_first {q : Req} {s : State} (hq : QuietUnit s) (h0 : q.space ≠ 0) (hd : q.kind.isStore = true → q.dest = none) :
    let a := q.access s
    let p := s.gcyc + a.nat
    ∃ cal, accessEff q s = { s.mapCtx (fun x => { x with
        a := { x.a with flights := x.a.flights ++ resultOf q s.nextId (some (s.gcyc + a.lat - 1)) s.gcyc false }
        acc := [{ a with p := some p }]
        gate := { x.gate with acq := if q.acq then [(s.nextId, BitVec.ofNat 2 q.scope)] else [] } }) with
          nextId := s.nextId + 1, cal := cal }
      ∧ ⟨p, performRank a, 2 * s.core.idx, .accessPerform s.core.idx s.nextId⟩ ∈ cal ∧ ∀ d ∈ s.cal, d ∈ cal := by
  intro a p
  have hg : (q.access s).global = false := by
    unfold Access.global Req.access; simpa [Req.space] using h0
  have hgq : ∀ s', (q.access s').global = false := by
    intro s'; unfold Access.global Req.access; simpa [Req.space] using h0
  have hst : s.str = s.core.ctx.a := by unfold State.str; rw [hq.onA]; rfl
  have hset : ∀ t, s.setStr t = s.mapCtx fun x => { x with a := t } := by intro t; unfold State.setStr; rw [hq.onA]; rfl
  let s1 : State := { s.mapCtx (fun x => { x with
      a := { x.a with flights := x.a.flights ++ resultOf q s.nextId none s.gcyc false }, acc := [q.access s] }) with nextId := s.nextId + 1 }
  have e1 : enterAccess q s = planAccess s.nextId s1 := by
    unfold enterAccess
    have hacc : s.core.ctx.acc = [] := hq.empty
    have hrun : s.core.ctx.auHalt = false := hq.runs
    cases hdest : q.dest with
    | none =>
      have : ({ s with nextId := s.nextId + 1 } : State).mapCtx (fun x => { x with acc := x.acc ++ [q.access s] }) = s1 := by
        simp only [s1, State.mapCtx, State.setCtx, hacc, List.nil_append, resultOf, hdest, List.append_nil]
      simp only [this, hg]
      have hr : s1.ctx.auHalt = false := hrun
      simp only [hr, Bool.false_eq_true, if_false, Bool.not_false, if_true]
      rfl
    | some kr =>
      obtain ⟨k, r⟩ := kr
      dsimp only
      have : flyFrom (q.access s).id k [⟨r, 0, BitVec.allOnes 4096⟩] none (q.access s).global
          (({ s with nextId := s.nextId + 1 } : State).mapCtx (fun x => { x with acc := x.acc ++ [q.access s] })) (q.access s).global = s1 := by
        unfold flyFrom
        simp only [hg, s1, State.str, State.setStr, State.mapCtx, State.setCtx, hq.onA, Ctx.strand, Ctx.setStrand, hacc, List.nil_append, resultOf, hdest]
        rfl
      rw [this, hg]
      have hr : s1.ctx.auHalt = false := hrun
      simp only [hr, Bool.false_eq_true, if_false, Bool.not_false, if_true]
      rfl
  have hac : s1.access s.nextId = some (q.access s) := by
    show List.find? _ [q.access s] = _
    simp [Req.access]
  have hear : earlierOf s.nextId s1 = [] := by
    show List.filter _ (List.takeWhile _ [q.access s]) = _
    simp [Req.access]
  have hmp : ∀ (P : Nat), mapAccess s.nextId (fun a => { a with p := some P, fwd := if (a.kind.isStore || a.isAtomic) = true then [] else [] }) s1 =
      s1.mapCtx fun x => { x with acc := [{ q.access s with p := some P }] } := by
    intro P
    show s1.setCtx _ = s1.setCtx _
    have : (s1.core.ctx.acc) = [q.access s] := rfl
    simp only [this, List.map_cons, List.map_nil, Req.access, if_true, ite_self]
  unfold accessEff
  rw [merge_none q _ s hq.empty]
  dsimp only
  rw [e1]
  unfold planAccess
  rw [hac]
  dsimp only
  rw [hear, hg]
  simp only [Bool.false_eq_true, if_false, moved, List.foldl_nil, forwarded, Bool.or_false]
  rw [hmp]
  have hk : (q.access s).kind = q.kind := rfl
  have hb : ¬ Bears s.nextId { s1.core.ctx with a := { s1.core.ctx.a with flights := s.core.ctx.a.flights } } := fun ⟨f, h1, h2⟩ => hq.newId.1 ⟨f, h1, h2⟩
  have hbs : ¬ Bears s.nextId s1.core.shadow := hq.newId.2
  let s2 : State := s1.mapCtx fun x => { x with acc := [{ q.access s with p := some p }] }
  have acq0 : s.core.ctx.gate.acq = [] := hq.acquired
  have hpend : ∀ l, (s.ctx.gate.acq.filter l) = [] := by intro l; rw [hq.acquired]; rfl
  have haq : ∀ (l : Nat × BitVec 2 → Bool), (s2.core.ctx.gate.acq.filter l) = [] := by intro l; show (s.core.ctx.gate.acq.filter l) = []; exact hpend l
  by_cases hs : q.kind.isStore = true
  · refine ⟨insDue ⟨p, 9, s.core.idx, .groupEnd s.core.idx⟩ (insDue ⟨p, performRank (q.access s), 2 * s.core.idx, .accessPerform s.core.idx s.nextId⟩ s.cal), ?_, ?_, ?_⟩
    · have h1 : (q.access s).kind.isStore = true := hs
      simp only [h1, if_true]
      show State.setCtx _ _ = _
      have : (s2.core.ctx.gate.acq.filter fun g : Nat × BitVec 2 => ({ s2 with cal := insDue ⟨p, 9, s.core.idx, .groupEnd s.core.idx⟩ (insDue ⟨p, performRank (q.access s), 2 * s.core.idx, .accessPerform s.core.idx s.nextId⟩ s.cal) } : State).pendingId g.1) = [] := haq _
      have hrs : ∀ l c, resultOf q s.nextId l c false = [] := by intro l c; unfold resultOf; rw [hd hs]
      have hrs2 : resultOf q s.nextId none s.gcyc false = resultOf q s.nextId (some (s.gcyc + a.lat - 1)) s.gcyc false := by rw [hrs, hrs]
      simp only [addDue, State.mapCtx, State.setCtx, acq0, List.filter_nil, List.nil_append, hrs2, s1]
      rfl
    · rw [mem_insDue, mem_insDue]; exact .inr (.inl rfl)
    · intro d hd; rw [mem_insDue, mem_insDue]; exact .inr (.inr hd)
  · have h1 : (q.access s).kind.isStore = false := Bool.eq_false_iff.2 hs
    let s3 : State := addDue p 9 s.core.idx (.groupEnd s.core.idx) (addDue p (performRank (q.access s)) (2 * s.core.idx) (.accessPerform s.core.idx s.nextId) s2)
    have hm := mapFlight_last (id := s.nextId) (g := fun f => { f with lands := some (p + (q.access s).lat - (q.access s).nat - 1), pend := f.pend })
      (s := s3) (fs := s.core.ctx.a.flights) (l := resultOf q s.nextId none s.gcyc false)
      (fun ⟨f, h1, h2⟩ => hq.newId.1 ⟨f, h1, h2⟩) hq.newId.2 rfl (by
        intro f hf; unfold resultOf at hf; split at hf
        · simp at hf; rw [hf]
        · cases hf)
    refine ⟨insDue ⟨p + (q.access s).lat - (q.access s).nat - 1, 8, s.core.idx, .resultLanding s.core.idx⟩ (insDue ⟨p, 9, s.core.idx, .groupEnd s.core.idx⟩ (insDue ⟨p, performRank (q.access s), 2 * s.core.idx, .accessPerform s.core.idx s.nextId⟩ s.cal)), ?_, ?_, ?_⟩
    · simp only [h1, Bool.false_eq_true, if_false]
      have e2 : s2 = s1.mapCtx fun x => { x with acc := [{ q.access s with p := some p }] } := rfl
      have hl : (resultOf q s.nextId none s.gcyc false).map (fun f => { f with lands := some (p + (q.access s).lat - (q.access s).nat - 1), pend := f.pend })
         = resultOf q s.nextId (some (s.gcyc + a.lat - 1)) s.gcyc false := by
        have : p + (q.access s).lat - (q.access s).nat - 1 = s.gcyc + a.lat - 1 := by show s.gcyc + a.nat + a.lat - a.nat - 1 = _; omega
        rw [this]
        unfold resultOf; split <;> rfl
      rw [hl] at hm
      let F : State → State := fun X => X.mapCtx fun x => { x with gate := { x.gate with acq := (x.gate.acq.filter fun g => X.pendingId g.1) ++ (if q.acq then [(s.nextId, BitVec.ofNat 2 q.scope)] else []) } }
      show F (addDue (p + (q.access s).lat - (q.access s).nat - 1) 8 s.core.idx (.resultLanding s.core.idx) (mapFlight s.nextId (fun f => { f with lands := some (p + (q.access s).lat - (q.access s).nat - 1), pend := f.pend }) s3)) = _
      rw [hm]
      simp only [F, addDue, State.mapCtx, State.setCtx, acq0, List.filter_nil, List.nil_append, s1, s2, s3]
      rfl
    · rw [mem_insDue, mem_insDue, mem_insDue]; exact .inr (.inr (.inl rfl))
    · intro d hd; rw [mem_insDue, mem_insDue, mem_insDue]; exact .inr (.inr (.inr hd))

end Sys2Proof.Machine
end

