-- ==== Sys2Proof/Tests/Slice0.lean ====
section
/-!
SUPPORT. Tests/Slice0.lean: tests and witnesses. Every instruction's word, built from the field table of the manual, decodes to it; the
worked words, numbers and blocks of the manual come out as printed; each check of WellFormed refuses a term; and for every statement of
Obligations.lean that has hypotheses, a state and operands that meet them together.
-/
open Sys2Proof Sys2Proof.Machine

namespace Sys2Proof.Tests
set_option maxRecDepth 100000

/-! ## States for the tests -/

/-- Right after reset, with strand `st` of core 0 running and in focus. -/
def atReset (st : StrandId) : State :=
  let s : State := { State.reset with cur := st }
  s.setStr { s.str with halted := false }

/-- With scalars of the strand set. -/
def withRegs (rs : List (BitVec 5 × Word)) (s : State) : State := s.setStr (rs.foldl (fun t r => t.put r.1 r.2) s.str)

/-- With an image for the strand, at byte offset `pc`. -/
def withImage (ws : List W32) (pc : Nat) (s : State) : State := s.setStr { s.str with image := ws, pc := pc }

/-- In timed mode. -/
def inTime (s : State) : State := s.setStr { s.str with timed := true }

/-- At a cycle. -/
def atCycle (c : Nat) (s : State) : State := { s with gcyc := c }

/-- With hardware loops active. -/
def withLoops (ls : List Loop) (s : State) : State := s.setStr { s.str with loops := ls }

/-- With results in flight for the strand. -/
def withFlights (fs : List Flight) (s : State) : State := s.setStr { s.str with flights := fs }

/-- With a launch group on the core. -/
def withGroup (s : State) : State := s.mapCtx fun x => { x with group := some ⟨7, 0, 0, 0, 0, 0, none⟩ }

/-- `Ready`, decided. -/
def readyB (h : Hdr) (long : Bool) (us : List Use) (s : State) : Bool :=
  (s.cur != .A || (s.ctx.gate.all.all (fun id => !s.pendingId id) && s.core.eng.wc.all fun e => !e.before s.ctx.gate.wc))
    && (!h.s || !s.core.syncmask.getLsbD s.cur.num || !s.plan.apart.getLsbD s.cur.num)
    && us.all (fun u => !s.ctx.isPending s.cur u && !s.ctx.isDead s.cur u && (u.moves || !s.ctx.isUpset s.cur u))
    && s.str.loops.all (fun l => decide (l.last < s.str.pc) || decide ((if long then s.str.pc + 4 else s.str.pc) < l.last))
    && (s.cur != .V || s.str.loops.all fun l => decide (l.stages = 0) || decide (l.first ≠ s.str.pc))

theorem ready {h : Hdr} {long : Bool} {us : List Use} {s : State} (c : readyB h long us s = true) : Ready h long us s := by
  simp only [readyB, Bool.and_eq_true, Bool.or_eq_true, List.all_eq_true, bne_iff_ne, decide_eq_true_eq, Bool.not_eq_true'] at c
  obtain ⟨⟨⟨⟨g, y⟩, r⟩, l⟩, u⟩ := c
  refine ⟨fun a => ?_, fun a b => ?_, fun u m => ⟨(r u m).1.1, (r u m).1.2, fun n => (r u m).2.resolve_left (by simp [n])⟩, fun x m => l x m, fun v x m => ?_⟩
  · obtain g | ⟨g, w⟩ := g
    · exact absurd a g
    · exact ⟨g, w⟩
  · obtain (y | y) | y := y
    · simp [y] at a
    · simp [y] at b
    · exact y
  · obtain u | u := u
    · exact absurd v u
    · exact u x m

theorem ungated {s : State} (c : readyB ⟨false, 0⟩ false [] s = true) : Ungated s := (ready c).ungated

theorem inImage {g : Int} {s : State} (c : decide (0 ≤ g ∧ g < 4 * s.str.image.length) = true) : InImage g s := of_decide_eq_true (p := 0 ≤ g ∧ g < 4 * s.str.image.length) c
theorem notInImage {g : Int} {s : State} (c : decide (0 ≤ g ∧ g < 4 * s.str.image.length) = false) : ¬ InImage g s := of_decide_eq_false (p := 0 ≤ g ∧ g < 4 * s.str.image.length) c

theorem latchFree {s : State} {k : Nat} (f : s.str.flights = []) (hk : k ≤ 16) : LatchFree k s :=
  ⟨by simp [f], fun _ _ => by simp [flyingV, f]; exact hk⟩

/-- The plain header: S = 0, I = 0. -/
def h0 : Hdr := ⟨false, 0⟩
/-- `QuietUnit`, decided, where no result is in flight. -/
def quietB (s : State) : Bool :=
  s.cur == .A && s.ctx.acc.isEmpty && !s.ctx.auHalt && s.ctx.gate.acq.isEmpty
    && [s.core.ctx, s.core.shadow].all fun x => x.a.flights.isEmpty && x.v.flights.isEmpty && x.frame.isNone

theorem not_bears {n : Nat} {x : Ctx} (f : x.a.flights = []) (g : x.v.flights = []) (i : x.frame = none) : ¬ Bears n x := by
  simp [Bears, f, g, i]

theorem quiet {s : State} (c : quietB s = true) : QuietUnit s := by
  simp only [quietB, List.all_cons, List.all_nil, Bool.and_true, Bool.and_eq_true, beq_iff_eq, List.isEmpty_iff, Bool.not_eq_true',
    Option.isNone_iff_eq_none] at c
  obtain ⟨⟨⟨⟨a, b⟩, d⟩, e⟩, ⟨⟨f, g⟩, i⟩, ⟨j, k⟩, l⟩ := c
  exact ⟨a, b, d, e, not_bears f g i, not_bears j k l⟩

/-- `Admitted`, decided, for a request that releases nothing. -/
def admittedB (q : Req) (s : State) : Bool :=
  q.ptrs.all (fun p => canonical p && ptrOff p % q.align == 0
      && (ptrSpace p != 5 || !(s.window (ptrWin p)).typed || (ptrOff p % 4 == 0 && q.len % 4 == 0))
      && (match spaceSize p s with | some z => decide (ptrOff p + q.len ≤ z) | none => true)
      && (admission q.reach q.len p s).isNone
      && (!s.str.timed || (ptrSpace p != 0 && !(ptrSpace p == 3 && ptrClu p != s.core.idx / 8)))
      && (q.kind.isStore || decide (4 ≤ q.space) || !s.badAt (placeOf p s) q.len))
    && (q.kind.isStore || q.space != 6 || !s.badAt (barAddr (barKey (ptrIdx q.first) (ptrOff q.first / 8))) 8)
    && (match q.kind with | .post w => allowanceCovers w (q.ptrs.map fun _ => q.len) s && windowRoom w q.ptrs.length s | _ => true)
    && !q.rel

theorem admitted {q : Req} {s : State} (c : admittedB q s = true) : Admitted q s := by
  simp only [admittedB, Bool.and_eq_true, List.all_eq_true, Bool.not_eq_true', Bool.or_eq_true, beq_iff_eq, bne_iff_ne, decide_eq_true_eq,
    Option.isNone_iff_eq_none] at c
  obtain ⟨⟨⟨a, g⟩, b⟩, r⟩ := c
  refine ⟨fun p m => (a p m).1.1.1.1.1.1, fun p m => (a p m).1.1.1.1.1.2, fun p m e f => ?_, fun p m z e => ?_, fun p m => (a p m).1.1.2,
    fun t p m => ?_, fun k l p m => ?_, fun k l => ?_, fun w e => ?_, fun e => ?_⟩
  · have := (a p m).1.1.1.1.2; simp_all
  · have := (a p m).1.1.1.2; simpa [e] using this
  · have := (a p m).1.2
    simp only [t, Bool.true_eq_false, false_or] at this
    exact ⟨this.1, fun ⟨u, v⟩ => by have := this.2; simp [u, v] at this⟩
  · have := (a p m).2
    rcases this with (h | h) | h
    · simp [h] at k
    · omega
    · exact h
  · rcases g with (h | h) | h
    · simp [h] at k
    · exact absurd l h
    · exact h
  · simpa [e] using b
  · simp [r] at e

/-- A LOCAL pointer of core 0, and a GLOBAL one. -/
def localAt (off : Nat) : Word := BitVec.ofNat 64 (2 ^ 61 + off)

/-- A store of 8 bytes that strand A has issued. -/
def aStore (p : Option Nat) : Access :=
  { (plainReq .store .store 8 8 (localAt 64) [1, 2, 3, 4, 5, 6, 7, 8] none).access (atReset .A) with id := 5, p := p }

/-- With the record of VF 0 changed. -/
def withVf (f : Vf → Vf) (s : State) : State := s.setVf 0 (f (s.vf 0))
/-! ## Decoding, a word for every instruction -/

theorem test_decode_scalar_1 :
    [decode .C 0x40149870 none,
     decode .C 0x1014D471 none,
     decode .C 0x40149AC2 none,
     decode .C 0x50142BD3 none,
     decode .C 0x6014D474 none,
     decode .C 0x70145C75 none,
     decode .C 0x50145BD6 none,
     decode .C 0x70145C77 none,
     decode .C 0x10142FC8 none,
     decode .C 0x20145ED9 none,
     decode .C 0x50149FCA none,
     decode .C 0x401458DB none,
     decode .C 0x50146ADC none,
     decode .C 0x0014D2DD none,
     decode .C 0x70149ADE none,
     decode .C 0x3014D7DF none,
     decode .C 0x10346BD0 none,
     decode .C 0x00342931 none,
     decode .C 0x00346FD2 none,
     decode .C 0x10349933 none,
     decode .C 0x4034D064 none,
     decode .C 0x503458C5 none,
     decode .C 0x10542800 none,
     decode .C 0x60546C01 none,
     decode .C 0x5074D520 none,
     decode .C 0x207498C1 none] =
    [.ok (.add ⟨true, 0⟩ ⟨0x14#5, 0x13#5, 3#5, false, true⟩),
     .ok (.sub ⟨false, 1⟩ ⟨0x14#5, 0x1a#5, 3#5, true, true⟩),
     .ok (.and ⟨true, 0⟩ ⟨0x14#5, 0x13#5, 0x16#5, false, false⟩),
     .ok (.or ⟨true, 1⟩ ⟨0x14#5, 5#5, 0x1e#5, false, true⟩),
     .ok (.xor ⟨true, 2⟩ ⟨0x14#5, 0x1a#5, 3#5, true, true⟩),
     .ok (.shl ⟨true, 3⟩ ⟨0x14#5, 0xb#5, 3#5, true, true⟩),
     .ok (.shr ⟨true, 1⟩ ⟨0x14#5, 0xb#5, 0x1e#5, false, true⟩),
     .ok (.sar ⟨true, 3⟩ ⟨0x14#5, 0xb#5, 3#5, true, true⟩),
     .ok (.min ⟨false, 1⟩ ⟨0x14#5, 5#5, 0x1e#5, true, false⟩),
     .ok (.max ⟨false, 2⟩ ⟨0x14#5, 0xb#5, 0x16#5, true, true⟩),
     .ok (.minn ⟨true, 1⟩ ⟨0x14#5, 0x13#5, 0x1e#5, true, false⟩),
     .ok (.maxn ⟨true, 0⟩ ⟨0x14#5, 0xb#5, 6#5, false, true⟩),
     .ok (.slt ⟨true, 1⟩ ⟨0x14#5, 0xd#5, 0x16#5, false, true⟩),
     .ok (.sltn ⟨false, 0⟩ ⟨0x14#5, 0x1a#5, 0x16#5, false, true⟩),
     .ok (.seq ⟨true, 3⟩ ⟨0x14#5, 0x13#5, 0x16#5, false, true⟩),
     .ok (.sel ⟨false, 3⟩ ⟨0x14#5, 0x1a#5, 0x1e#5, true, true⟩),
     .ok (.mul ⟨false, 1⟩ ⟨0x14#5, 0xd#5, 0x1e#5, false, true⟩),
     .ok (.mulh ⟨false, 0⟩ ⟨0x14#5, 5#5, 9#5, false, true⟩),
     .ok (.mulhn ⟨false, 0⟩ ⟨0x14#5, 0xd#5, 0x1e#5, true, true⟩),
     .ok (.div ⟨false, 1⟩ ⟨0x14#5, 0x13#5, 9#5, false, true⟩),
     .ok (.divn ⟨true, 0⟩ ⟨0x14#5, 0x1a#5, 3#5, false, false⟩),
     .ok (.rem ⟨true, 1⟩ ⟨0x14#5, 0xb#5, 6#5, false, false⟩),
     .ok (.clz ⟨false, 1⟩ ⟨0x14#5, 5#5, false⟩),
     .ok (.popc ⟨true, 2⟩ ⟨0x14#5, 0xd#5, true⟩),
     .ok (.lea ⟨true, 1⟩ ⟨0x14#5, 0x1a#5, 9#5, true, false⟩),
     .ok (.pmake ⟨false, 2⟩ ⟨0x14#5, 0x13#5, 6#5, false, false⟩)] := rfl

theorem test_decode_scalar_2 :
    [decode .C 0x40745802 none,
     decode .C 0x60745803 none,
     decode .C 0x41149D7A none,
     decode .C 0x11345F6F none,
     decode .C 0x21542B99 none,
     decode .C 0x3174D197 none,
     decode .C 0x41949C25 none,
     decode .C 0x41B42C25 none,
     decode .C 0x41D42825 none,
     decode .C 0x01F42C9A none,
     decode .C 0x32145D15 none,
     decode .C 0x02340000 (some 0xDFD43F37),
     decode .C 0x52540000 (some 0x2607679D)] =
    [.ok (.pspace ⟨true, 0⟩ ⟨0x14#5, 0xb#5, false⟩),
     .ok (.prank ⟨true, 2⟩ ⟨0x14#5, 0xb#5, false⟩),
     .ok (.addi ⟨true, 0⟩ ⟨0x14#5, 0x13#5, true, 0x17a#10⟩),
     .ok (.andi ⟨false, 1⟩ ⟨0x14#5, 0xb#5, true, 0x36f#10⟩),
     .ok (.ori ⟨false, 2⟩ ⟨0x14#5, 5#5, false, 0x399#10⟩),
     .ok (.xori ⟨false, 3⟩ ⟨0x14#5, 0x1a#5, false, 0x197#10⟩),
     .ok (.shli ⟨true, 0⟩ ⟨0x14#5, 0x13#5, true, 0x25#10⟩),
     .ok (.shri ⟨true, 0⟩ ⟨0x14#5, 5#5, true, 0x25#10⟩),
     .ok (.sari ⟨true, 0⟩ ⟨0x14#5, 5#5, false, 0x25#10⟩),
     .ok (.slti ⟨false, 0⟩ ⟨0x14#5, 5#5, true, 0x9a#10⟩),
     .ok (.li ⟨false, 3⟩ ⟨0x14#5, 0x5d15#16⟩),
     .ok (.lih ⟨false, 0⟩ ⟨0x14#5, 0xdfd43f37#32⟩),
     .ok (.lil ⟨true, 1⟩ ⟨0x14#5, 0x2607679d#32⟩)] := rfl

theorem test_decode_branches :
    [decode .C 0x330DF2E9 none,
     decode .C 0x4333B3D7 none,
     decode .C 0x434B1DFF none,
     decode .C 0x53733421 none,
     decode .C 0x739A492C none,
     decode .C 0x33A5F262 none,
     decode .C 0x33C2E98E none,
     decode .C 0x13F484B5 none,
     decode .C 0x44146CE4 none,
     decode .C 0x343482A3 none,
     decode .C 0x2454F7E1 none,
     decode .C 0x0460C000 none] =
    [.ok (.beq ⟨false, 3⟩ ⟨0xd#5, 0x1e#5, 0x2e9#11⟩),
     .ok (.bne ⟨true, 0⟩ ⟨0x13#5, 0x16#5, 0x3d7#11⟩),
     .ok (.blt ⟨true, 0⟩ ⟨0xb#5, 3#5, 0x5ff#11⟩),
     .ok (.bge ⟨true, 1⟩ ⟨0x13#5, 6#5, 0x421#11⟩),
     .ok (.bltn ⟨true, 3⟩ ⟨0x1a#5, 9#5, 0x12c#11⟩),
     .ok (.bgen ⟨false, 3⟩ ⟨5#5, 0x1e#5, 0x262#11⟩),
     .ok (.jmp ⟨false, 3⟩ ⟨0x2e98e#21⟩),
     .ok (.jal ⟨false, 1⟩ ⟨0x14#5, 0x84b5#16⟩),
     .ok (.jr ⟨true, 0⟩ ⟨0x14#5, 0xd#5, true, 0xe4#10⟩),
     .ok (.loop ⟨false, 3⟩ ⟨0x14#5, 2#2, 0x2a3#11⟩),
     .ok (.loops ⟨false, 2⟩ ⟨0x14#5, 3#2, 6#3, 0x7e1#11⟩),
     .ok (.lbrk ⟨false, 0⟩ ⟨3#2⟩)] := rfl

theorem test_decode_timing_and_system :
    [decode .C 0x5514BD68 none,
     decode .C 0x05200000 (some 0x8483F8B8),
     decode .C 0x65400000 (some 0x076B3E36),
     decode .C 0x356878E4 (some 0x42594052),
     decode .C 0x65800000 none,
     decode .C 0x15A00000 none,
     decode .C 0x25C00000 none,
     decode .C 0x3600000F none,
     decode .C 0x46200001 none,
     decode .C 0x46540006 none,
     decode .C 0x66600003 none,
     decode .C 0x66940006 none,
     decode .C 0x06A00003 none,
     decode .C 0x36D40003 none,
     decode .C 0x47140012 none,
     decode .C 0x67340021 none,
     decode .C 0x77540021 none,
     decode .C 0x27740021 none,
     decode .C 0x5780BE4C none,
     decode .C 0x27A00000 none,
     decode .C 0x77C00000 none] =
    [.ok (.wait ⟨true, 1⟩ ⟨0x14#5, 0xbd68#16⟩),
     .ok (.waitg ⟨false, 0⟩ ⟨0x8483f8b8#32⟩),
     .ok (.align ⟨true, 2⟩ ⟨0x76b3e36#32⟩),
     .ok (.segb ⟨false, 3⟩ ⟨8#5, 0x78e4#16, 0x42594052#32⟩),
     .ok (.sege ⟨true, 2⟩),
     .ok (.tsm ⟨false, 1⟩),
     .ok (.opb ⟨false, 2⟩),
     .ok (.tks ⟨false, 3⟩ ⟨0xf#4⟩),
     .ok (.tkw ⟨true, 0⟩ ⟨1#4⟩),
     .ok (.bini ⟨true, 0⟩ ⟨0x14#5, 6#6⟩),
     .ok (.barv ⟨true, 2⟩ ⟨3#6⟩),
     .ok (.bexp ⟨true, 2⟩ ⟨0x14#5, 6#6⟩),
     .ok (.bwt ⟨false, 0⟩ ⟨3#6⟩),
     .ok (.bph ⟨false, 3⟩ ⟨0x14#5, 3#6⟩),
     .ok (.csrr ⟨true, 0⟩ ⟨0x14#5, 0x12#12⟩),
     .ok (.csrw ⟨true, 2⟩ ⟨0x14#5, 0x21#12⟩),
     .ok (.csrs ⟨true, 3⟩ ⟨0x14#5, 0x21#12⟩),
     .ok (.csrc ⟨false, 2⟩ ⟨0x14#5, 0x21#12⟩),
     .ok (.trap ⟨true, 1⟩ ⟨0xbe4c#16⟩),
     .ok (.rett ⟨false, 2⟩),
     .ok (.halt ⟨true, 3⟩)] := rfl

theorem test_decode_control :
    [decode .C 0xC000D6D0 (some 0x256BADF9),
     decode .C 0xA0340000 none,
     decode .C 0xA0400000 none,
     decode .C 0x80600000 none,
     decode .C 0x80800000 none,
     decode .C 0xF0A02FD1 none] =
    [.ok (.fmt ⟨true, 0⟩ ⟨0x1a#5, 0x16#5, true, true, 0x256badf9#32⟩),
     .ok (.fmtq ⟨false, 2⟩ ⟨0x14#5⟩),
     .ok (.ctxsw ⟨false, 2⟩),
     .ok (.yield ⟨false, 0⟩),
     .ok (.sleep ⟨false, 0⟩),
     .ok (.pert ⟨true, 3⟩ ⟨5#5, 0x1e#5, true, true, 1#2⟩)] := rfl

theorem test_decode_access :
    [decode .A 0xF0145F7E none,
     decode .A 0xD0345A01 none,
     decode .A 0xE0546A2D none,
     decode .A 0xC0742EF5 none,
     decode .A 0xD094D79D none,
     decode .A 0xB0B4D220 none,
     decode .A 0xE0D42DC2 none,
     decode .A 0xA1142F32 none,
     decode .A 0xC1349EE6 none,
     decode .A 0xC1546E12 none,
     decode .A 0x91742E3D none,
     decode .A 0xC2146B16 none,
     decode .A 0xD234D30A none,
     decode .A 0x82549D31 none,
     decode .A 0x9274D7C1 none,
     decode .A 0xB2946C01 none] =
    [.ok (.ldB ⟨true, 3⟩ ⟨0x14#5, 0xb#5, true, 0x37e#10⟩),
     .ok (.ldH ⟨true, 1⟩ ⟨0x14#5, 0xb#5, false, 0x201#10⟩),
     .ok (.ldW ⟨true, 2⟩ ⟨0x14#5, 0xd#5, false, 0x22d#10⟩),
     .ok (.ldD ⟨true, 0⟩ ⟨0x14#5, 5#5, true, 0x2f5#10⟩),
     .ok (.ldBn ⟨true, 1⟩ ⟨0x14#5, 0x1a#5, true, 0x39d#10⟩),
     .ok (.ldHn ⟨false, 3⟩ ⟨0x14#5, 0x1a#5, false, 0x220#10⟩),
     .ok (.ldWn ⟨true, 2⟩ ⟨0x14#5, 5#5, true, 0x1c2#10⟩),
     .ok (.stB ⟨false, 2⟩ ⟨0x14#5, 5#5, true, 0x332#10⟩),
     .ok (.stH ⟨true, 0⟩ ⟨0x14#5, 0x13#5, true, 0x2e6#10⟩),
     .ok (.stW ⟨true, 0⟩ ⟨0x14#5, 0xd#5, true, 0x212#10⟩),
     .ok (.stD ⟨false, 1⟩ ⟨0x14#5, 5#5, true, 0x23d#10⟩),
     .ok (.vld ⟨true, 0⟩ ⟨0x14#5, 0xd#5, false, 0x316#10⟩),
     .ok (.vst ⟨true, 1⟩ ⟨0x14#5, 0x1a#5, false, 0x30a#10⟩),
     .ok (.vlds ⟨false, 0⟩ ⟨0x14#5, 0x13#5, 9#5, true, true, 1#2⟩),
     .ok (.vsts ⟨false, 1⟩ ⟨0x14#5, 0x1a#5, 0x1e#5, true, false, 1#2⟩),
     .ok (.vldb ⟨false, 3⟩ ⟨0x14#5, 0xd#5, true, 1#2⟩)] := rfl

theorem test_decode_atomics_engines :
    [decode .A 0x83149860 (some 0x00000190),
     decode .A 0x93142CC0 (some 0x00000151),
     decode .A 0xA31468D0 (some 0x00000162),
     decode .A 0xF3142EC0 (some 0x00000173),
     decode .A 0x83149BC0 (some 0x00000194),
     decode .A 0xC3146870 (some 0x000001A5),
     decode .A 0x93146FC0 (some 0x00000156),
     decode .A 0xB3145860 (some 0x00000197),
     decode .A 0x83146CC0 (some 0x000001A8),
     decode .A 0xF334D3D0 (some 0x00000194),
     decode .A 0xF3400007 none,
     decode .A 0xC3600000 none,
     decode .A 0xC4142A68 (some 0x1570266B),
     decode .A 0x84342A68 (some 0xDCDED204),
     decode .A 0xC4546FA8 (some 0x6AF25748),
     decode .A 0x9514D000 (some 0x0B0F873B),
     decode .A 0x85342C00 none,
     decode .A 0xC5545800 none,
     decode .A 0xA5606C00 none,
     decode .A 0x96149FC0 none,
     decode .A 0xF6342920 none,
     decode .A 0xE654D400 none,
     decode .A 0xD7005C00 none,
     decode .A 0xE7009801 none,
     decode .A 0xA7209BD0 none,
     decode .A 0xC7546800 (some 0xD510BB04)] =
    [.ok (.atomAdd ⟨false, 0⟩ ⟨0x14#5, 0x13#5, 3#5, false, false, 1#2, 2#2, 1#2⟩),
     .ok (.atomAnd ⟨false, 1⟩ ⟨0x14#5, 5#5, 6#5, true, false, 1#2, 1#2, 1#2⟩),
     .ok (.atomOr ⟨false, 2⟩ ⟨0x14#5, 0xd#5, 6#5, false, true, 1#2, 1#2, 2#2⟩),
     .ok (.atomXor ⟨true, 3⟩ ⟨0x14#5, 5#5, 0x16#5, true, false, 1#2, 1#2, 3#2⟩),
     .ok (.atomMin ⟨false, 0⟩ ⟨0x14#5, 0x13#5, 0x1e#5, false, false, 1#2, 2#2, 1#2⟩),
     .ok (.atomMax ⟨true, 0⟩ ⟨0x14#5, 0xd#5, 3#5, false, true, 1#2, 2#2, 2#2⟩),
     .ok (.atomMinn ⟨false, 1⟩ ⟨0x14#5, 0xd#5, 0x1e#5, true, false, 1#2, 1#2, 1#2⟩),
     .ok (.atomMaxn ⟨false, 3⟩ ⟨0x14#5, 0xb#5, 3#5, false, false, 1#2, 2#2, 1#2⟩),
     .ok (.atomSwap ⟨false, 0⟩ ⟨0x14#5, 0xd#5, 6#5, true, false, 1#2, 2#2, 2#2⟩),
     .ok (.cas ⟨true, 3⟩ ⟨0x14#5, 0x1a#5, 0x1e#5, false, true, 1#2, 2#2, 1#2, 1#2⟩),
     .ok (.fence ⟨true, 3⟩ ⟨3#2, 1#2⟩),
     .ok (.mark ⟨true, 0⟩),
     .ok (.copy ⟨true, 0⟩ ⟨0x14#5, 5#5, 9#5, 5#3, 0x1570266b#32⟩),
     .ok (.copyt ⟨false, 0⟩ ⟨0x14#5, 5#5, 9#5, 5#3, 0xdcded204#32⟩),
     .ok (.copyk ⟨true, 0⟩ ⟨0x14#5, 0xd#5, 0x1e#5, 5#3, 0x6af25748#32⟩),
     .ok (.strmOpen ⟨false, 1⟩ ⟨0x14#5, 0x1a#5, false, 0xb0f873b#32⟩),
     .ok (.strmChk ⟨false, 0⟩ ⟨0x14#5, 5#5, true⟩),
     .ok (.strmStat ⟨true, 0⟩ ⟨0x14#5, 0xb#5, false⟩),
     .ok (.strmClose ⟨false, 2⟩ ⟨0xd#5, true⟩),
     .ok (.mbxs ⟨false, 1⟩ ⟨0x14#5, 0x13#5, 0x1e#5, true, false⟩),
     .ok (.mbxr ⟨true, 3⟩ ⟨0x14#5, 5#5, 9#5, false, false⟩),
     .ok (.mbxq ⟨true, 2⟩ ⟨0x14#5, 0x1a#5, true⟩),
     .ok (.tlbiPage ⟨true, 1⟩ ⟨0xb#5, true⟩),
     .ok (.tlbiVf ⟨true, 2⟩ ⟨0x13#5⟩),
     .ok (.pref ⟨false, 2⟩ ⟨0x13#5, 0x1e#5, false, true⟩),
     .ok (.stepPod ⟨true, 0⟩ ⟨0x14#5, 0xd#5, false, 0xd510bb04#32⟩)] := rfl

theorem test_decode_lanes_arith :
    [decode .V 0xA0145D9D none,
     decode .V 0xC0346D89 none,
     decode .V 0xB054D272 none,
     decode .V 0xC0B45A58 none,
     decode .V 0xD0D4D24A none,
     decode .V 0x81146988 none,
     decode .V 0xE13459B4 none,
     decode .V 0xC1545DB0 none,
     decode .V 0xE1B458F6 none,
     decode .V 0x81D4D59E none,
     decode .V 0xD214D18F none,
     decode .V 0xA2349F8F none,
     decode .V 0xB2542FB7 none,
     decode .V 0x82B428CC none,
     decode .V 0x92D49F8C none,
     decode .V 0xA3145D99 none,
     decode .V 0xF334D78E none,
     decode .V 0x935468DB none,
     decode .V 0xE3B49D98 none,
     decode .V 0x93D42FB4 none,
     decode .V 0xC4146A76 none,
     decode .V 0x84342D89 none,
     decode .V 0xA4545D9E none,
     decode .V 0xD4B42F8A none,
     decode .V 0xD4D42A5A none] =
    [.ok (.vaddI8 ⟨false, 2⟩ ⟨0x14#5, 0xb#5, 0x16#5, 3#3, true, false, true⟩),
     .ok (.vaddI16 ⟨true, 0⟩ ⟨0x14#5, 0xd#5, 0x16#5, 1#3, false, false, true⟩),
     .ok (.vaddI32 ⟨false, 3⟩ ⟨0x14#5, 0x1a#5, 9#5, 6#3, false, true, false⟩),
     .ok (.vaddBf16 ⟨true, 0⟩ ⟨0x14#5, 0xb#5, 9#5, 3#3, false, false⟩),
     .ok (.vaddF32 ⟨true, 1⟩ ⟨0x14#5, 0x1a#5, 9#5, 1#3, false, true⟩),
     .ok (.vsubI8 ⟨false, 0⟩ ⟨0x14#5, 0xd#5, 6#5, 1#3, false, false, false⟩),
     .ok (.vsubI16 ⟨true, 2⟩ ⟨0x14#5, 0xb#5, 6#5, 6#3, true, false, false⟩),
     .ok (.vsubI32 ⟨true, 0⟩ ⟨0x14#5, 0xb#5, 0x16#5, 6#3, false, false, false⟩),
     .ok (.vsubBf16 ⟨true, 2⟩ ⟨0x14#5, 0xb#5, 3#5, 6#3, true, true⟩),
     .ok (.vsubF32 ⟨false, 0⟩ ⟨0x14#5, 0x1a#5, 0x16#5, 3#3, true, true⟩),
     .ok (.vmulI8 ⟨true, 1⟩ ⟨0x14#5, 0x1a#5, 6#5, 1#3, true, true, true⟩),
     .ok (.vmulI16 ⟨false, 2⟩ ⟨0x14#5, 0x13#5, 0x1e#5, 1#3, true, true, true⟩),
     .ok (.vmulI32 ⟨false, 3⟩ ⟨0x14#5, 5#5, 0x1e#5, 6#3, true, true, true⟩),
     .ok (.vmulBf16 ⟨false, 0⟩ ⟨0x14#5, 5#5, 3#5, 1#3, true, false⟩),
     .ok (.vmulF32 ⟨false, 1⟩ ⟨0x14#5, 0x13#5, 0x1e#5, 1#3, true, false⟩),
     .ok (.vminI8 ⟨false, 2⟩ ⟨0x14#5, 0xb#5, 0x16#5, 3#3, false, false, true⟩),
     .ok (.vminI16 ⟨true, 3⟩ ⟨0x14#5, 0x1a#5, 0x1e#5, 1#3, true, true, false⟩),
     .ok (.vminI32 ⟨false, 1⟩ ⟨0x14#5, 0xd#5, 3#5, 3#3, false, true, true⟩),
     .ok (.vminBf16 ⟨true, 2⟩ ⟨0x14#5, 0x13#5, 0x16#5, 3#3, false, false⟩),
     .ok (.vminF32 ⟨false, 1⟩ ⟨0x14#5, 5#5, 0x1e#5, 6#3, true, false⟩),
     .ok (.vmaxI8 ⟨true, 0⟩ ⟨0x14#5, 0xd#5, 9#5, 6#3, true, true, false⟩),
     .ok (.vmaxI16 ⟨false, 0⟩ ⟨0x14#5, 5#5, 0x16#5, 1#3, false, false, true⟩),
     .ok (.vmaxI32 ⟨false, 2⟩ ⟨0x14#5, 0xb#5, 0x16#5, 3#3, true, true, false⟩),
     .ok (.vmaxBf16 ⟨true, 1⟩ ⟨0x14#5, 5#5, 0x1e#5, 1#3, false, true⟩),
     .ok (.vmaxF32 ⟨true, 1⟩ ⟨0x14#5, 5#5, 9#5, 3#3, false, true⟩)] := rfl

theorem test_decode_lanes_float :
    [decode .V 0xB5149818 none,
     decode .V 0xB534580C none,
     decode .V 0xE5546819 none,
     decode .V 0xA5B4680C none,
     decode .V 0xD5D49818 none,
     decode .V 0xF6149830 none,
     decode .V 0xC6349818 none,
     decode .V 0xD654281C none,
     decode .V 0x86B45830 none,
     decode .V 0x96D46818 none,
     decode .V 0xF714D0DC none,
     decode .V 0xB7142A4B none,
     decode .V 0xA734599A none,
     decode .V 0xF7346D8F none,
     decode .V 0xB754D78C none,
     decode .V 0xE7749DB4 none,
     decode .V 0x979498F0 none,
     decode .V 0xD7B46A77 none,
     decode .V 0xE7D45A5E none,
     decode .V 0xC7F458CF none] =
    [.ok (.vabsI8 ⟨false, 3⟩ ⟨0x14#5, 0x13#5, 3#3, false, false⟩),
     .ok (.vabsI16 ⟨false, 3⟩ ⟨0x14#5, 0xb#5, 1#3, true, false⟩),
     .ok (.vabsI32 ⟨true, 2⟩ ⟨0x14#5, 0xd#5, 3#3, false, true⟩),
     .ok (.vabsBf16 ⟨false, 2⟩ ⟨0x14#5, 0xd#5, 1#3, true⟩),
     .ok (.vabsF32 ⟨true, 1⟩ ⟨0x14#5, 0x13#5, 3#3, false⟩),
     .ok (.vnegI8 ⟨true, 3⟩ ⟨0x14#5, 0x13#5, 6#3, false, false⟩),
     .ok (.vnegI16 ⟨true, 0⟩ ⟨0x14#5, 0x13#5, 3#3, false, false⟩),
     .ok (.vnegI32 ⟨true, 1⟩ ⟨0x14#5, 5#5, 3#3, true, false⟩),
     .ok (.vnegBf16 ⟨false, 0⟩ ⟨0x14#5, 0xb#5, 6#3, false⟩),
     .ok (.vnegF32 ⟨false, 1⟩ ⟨0x14#5, 0xd#5, 3#3, false⟩),
     .ok (.vfmaBf16 ⟨true, 3⟩ ⟨0x14#5, 0x1a#5, 3#5, 3#3, true, false⟩),
     .ok (.vnfmaBf16 ⟨false, 3⟩ ⟨0x14#5, 5#5, 9#5, 1#3, false, true⟩),
     .ok (.vfmaF32 ⟨false, 2⟩ ⟨0x14#5, 0xb#5, 6#5, 3#3, false, true⟩),
     .ok (.vnfmaF32 ⟨true, 3⟩ ⟨0x14#5, 0xd#5, 0x16#5, 1#3, true, true⟩),
     .ok (.vfmsBf16 ⟨false, 3⟩ ⟨0x14#5, 0x1a#5, 0x1e#5, 1#3, true, false⟩),
     .ok (.vfmsF32 ⟨true, 2⟩ ⟨0x14#5, 0x13#5, 0x16#5, 6#3, true, false⟩),
     .ok (.vwmulI8 ⟨false, 1⟩ ⟨0x14#5, 0x13#5, 3#5, 6#3, false, false, false⟩),
     .ok (.vwmulI16 ⟨true, 1⟩ ⟨0x14#5, 0xd#5, 9#5, 6#3, true, true, true⟩),
     .ok (.vwmulBf16 ⟨true, 2⟩ ⟨0x14#5, 0xb#5, 9#5, 3#3, true, true⟩),
     .ok (.vdot4I8 ⟨true, 0⟩ ⟨0x14#5, 0xb#5, 3#5, 1#3, true, true, true⟩)] := rfl

theorem test_decode_lanes_bits :
    [decode .V 0xC8149A58 none,
     decode .V 0x8834299C none,
     decode .V 0xD8546F8C none,
     decode .V 0x98749DB4 none,
     decode .V 0xD8942D9E none,
     decode .V 0xE8B4D7B6 none,
     decode .V 0x88D46808 none,
     decode .V 0xD8F4981C none,
     decode .V 0xB914298A none,
     decode .V 0xB9349F98 none,
     decode .V 0xF954D59A none,
     decode .V 0xC9745FB2 none,
     decode .V 0xA99498F4 none,
     decode .V 0xC9B45F8E none,
     decode .V 0xC9D46FB2 none,
     decode .V 0x89F42A76 none,
     decode .V 0xDA145F8A none,
     decode .V 0xDA37699D none,
     decode .V 0xFA5668C9 none,
     decode .V 0x9A695D98 none,
     decode .V 0xAA95998D none,
     decode .V 0x8AA95A48 none,
     decode .V 0xFAD5D5B2 none,
     decode .V 0xFAF42F8C none,
     decode .V 0xCB14D19A none,
     decode .V 0xDB349A72 none] =
    [.ok (.vandI8 ⟨true, 0⟩ ⟨0x14#5, 0x13#5, 9#5, 3#3, false, false⟩),
     .ok (.vandI32 ⟨false, 0⟩ ⟨0x14#5, 5#5, 6#5, 3#3, true, false⟩),
     .ok (.vorI8 ⟨true, 1⟩ ⟨0x14#5, 0xd#5, 0x1e#5, 1#3, true, false⟩),
     .ok (.vorI32 ⟨false, 1⟩ ⟨0x14#5, 0x13#5, 0x16#5, 6#3, true, false⟩),
     .ok (.vxorI8 ⟨true, 1⟩ ⟨0x14#5, 5#5, 0x16#5, 3#3, true, true⟩),
     .ok (.vxorI32 ⟨true, 2⟩ ⟨0x14#5, 0x1a#5, 0x1e#5, 6#3, true, true⟩),
     .ok (.vnotI8 ⟨false, 0⟩ ⟨0x14#5, 0xd#5, 1#3, false⟩),
     .ok (.vnotI32 ⟨true, 1⟩ ⟨0x14#5, 0x13#5, 3#3, true⟩),
     .ok (.vshlI8 ⟨false, 3⟩ ⟨0x14#5, 5#5, 6#5, 1#3, false, true⟩),
     .ok (.vshlI16 ⟨false, 3⟩ ⟨0x14#5, 0x13#5, 0x1e#5, 3#3, false, false⟩),
     .ok (.vshlI32 ⟨true, 3⟩ ⟨0x14#5, 0x1a#5, 0x16#5, 3#3, false, true⟩),
     .ok (.vshrI8 ⟨true, 0⟩ ⟨0x14#5, 0xb#5, 0x1e#5, 6#3, false, true⟩),
     .ok (.vshrI16 ⟨false, 2⟩ ⟨0x14#5, 0x13#5, 3#5, 6#3, true, false⟩),
     .ok (.vshrI32 ⟨true, 0⟩ ⟨0x14#5, 0xb#5, 0x1e#5, 1#3, true, true⟩),
     .ok (.vsarI8 ⟨true, 0⟩ ⟨0x14#5, 0xd#5, 0x1e#5, 6#3, false, true⟩),
     .ok (.vsarI16 ⟨false, 0⟩ ⟨0x14#5, 5#5, 9#5, 6#3, true, true⟩),
     .ok (.vsarI32 ⟨true, 1⟩ ⟨0x14#5, 0xb#5, 0x1e#5, 1#3, false, true⟩),
     .ok (.vcmpI8 ⟨true, 1⟩ ⟨5#3, 3#2, 0xd#5, 6#5, 3#3, true, false, true⟩),
     .ok (.vcmpI16 ⟨true, 3⟩ ⟨5#3, 2#2, 0xd#5, 3#5, 1#3, false, false, true⟩),
     .ok (.vcmpI32 ⟨false, 1⟩ ⟨2#3, 1#2, 0xb#5, 0x16#5, 3#3, false, false, false⟩),
     .ok (.vcmpF8 ⟨false, 2⟩ ⟨5#3, 1#2, 0x13#5, 6#5, 1#3, true, false, true⟩),
     .ok (.vcmpBf16 ⟨false, 0⟩ ⟨2#3, 1#2, 0xb#5, 9#5, 1#3, false, false, false⟩),
     .ok (.vcmpF32 ⟨true, 3⟩ ⟨5#3, 1#2, 0x1a#5, 0x16#5, 6#3, false, true, false⟩),
     .ok (.vselI8 ⟨true, 3⟩ ⟨0x14#5, 5#5, 0x1e#5, 1#3, true, false⟩),
     .ok (.vselI16 ⟨true, 0⟩ ⟨0x14#5, 0x1a#5, 6#5, 3#3, false, true⟩),
     .ok (.vselI32 ⟨true, 1⟩ ⟨0x14#5, 0x13#5, 9#5, 6#3, false, true⟩)] := rfl

theorem test_decode_lanes_reduce :
    [decode .V 0xCB546261 none,
     decode .V 0xFB74D030 none,
     decode .V 0xEB94981C none,
     decode .V 0xCBB42808 none,
     decode .V 0xDBD4980C none,
     decode .V 0x8BF4981C none,
     decode .V 0xBC149808 none,
     decode .V 0x8C346834 none,
     decode .V 0xDC546834 none,
     decode .V 0xDC745834 none,
     decode .V 0xCC94980D none,
     decode .V 0xCCB42830 none,
     decode .V 0xFCD4D008 none,
     decode .V 0xACF46818 none] =
    [.ok (.vcvt ⟨true, 0⟩ ⟨0x14#5, 0xc#5, false, 9#4, 8#4, 1#2⟩),
     .ok (.vexp2 ⟨true, 3⟩ ⟨0x14#5, 0x1a#5, 6#3, false⟩),
     .ok (.vlog2 ⟨true, 2⟩ ⟨0x14#5, 0x13#5, 3#3, true⟩),
     .ok (.vrcp ⟨true, 0⟩ ⟨0x14#5, 5#5, 1#3, false⟩),
     .ok (.vrsq ⟨true, 1⟩ ⟨0x14#5, 0x13#5, 1#3, true⟩),
     .ok (.vtanh ⟨false, 0⟩ ⟨0x14#5, 0x13#5, 3#3, true⟩),
     .ok (.vredsI32 ⟨false, 3⟩ ⟨0x14#5, 0x13#5, 1#3, false⟩),
     .ok (.vredsF32 ⟨false, 0⟩ ⟨0x14#5, 0xd#5, 6#3, true⟩),
     .ok (.vredmI16 ⟨true, 1⟩ ⟨0x14#5, 0xd#5, 6#3, true, false⟩),
     .ok (.vredmI32 ⟨true, 1⟩ ⟨0x14#5, 0xb#5, 6#3, true, false⟩),
     .ok (.vredmBf16 ⟨true, 0⟩ ⟨0x14#5, 0x13#5, 1#3, true, true⟩),
     .ok (.vredmF32 ⟨true, 0⟩ ⟨0x14#5, 5#5, 6#3, false, false⟩),
     .ok (.vscanI32 ⟨true, 3⟩ ⟨0x14#5, 0x1a#5, 1#3, false⟩),
     .ok (.vscanF32 ⟨false, 2⟩ ⟨0x14#5, 0xd#5, 3#3, false⟩)] := rfl

theorem test_decode_lanes_move :
    [decode .V 0xFD14D0CC none,
     decode .V 0xED349D9C none,
     decode .V 0x8D54998E none,
     decode .V 0xBD745F8A none,
     decode .V 0xDD94D0F0 none,
     decode .V 0x8DB4980C none,
     decode .V 0xEDD4D018 none,
     decode .V 0xBDF42808 none,
     decode .V 0x8E140008 none,
     decode .V 0xFE349980 none,
     decode .V 0xEE545F86 none,
     decode .V 0x8E746A40 none,
     decode .V 0xDE800000 none,
     decode .V 0xEEB4699D none,
     decode .V 0xCED4599D none,
     decode .V 0xAEF45A4D none,
     decode .V 0xFFF45FB5 none,
     decode .V 0xFF0228C0 none,
     decode .V 0x8F2219C0 none,
     decode .V 0xBF453880 none,
     decode .V 0xDF620800 none,
     decode .V 0xEF943830 none,
     decode .V 0xCFB41030 none,
     decode .V 0x9FC52800 none] =
    [.ok (.vpermI8 ⟨true, 3⟩ ⟨0x14#5, 0x1a#5, 3#5, 1#3, true, false⟩),
     .ok (.vpermI16 ⟨true, 2⟩ ⟨0x14#5, 0x13#5, 0x16#5, 3#3, true, false⟩),
     .ok (.vpermI32 ⟨false, 0⟩ ⟨0x14#5, 0x13#5, 6#5, 1#3, true, true⟩),
     .ok (.vslideI8 ⟨false, 3⟩ ⟨0x14#5, 0xb#5, 0x1e#5, 1#3, false, true⟩),
     .ok (.vslideI32 ⟨true, 1⟩ ⟨0x14#5, 0x1a#5, 3#5, 6#3, false, false⟩),
     .ok (.vbcastI8 ⟨false, 0⟩ ⟨0x14#5, 0x13#5, 1#3, true⟩),
     .ok (.vbcastI16 ⟨true, 2⟩ ⟨0x14#5, 0x1a#5, 3#3, false⟩),
     .ok (.vbcastI32 ⟨false, 3⟩ ⟨0x14#5, 5#5, 1#3, false⟩),
     .ok (.vidx ⟨false, 0⟩ ⟨0x14#5, 1#3⟩),
     .ok (.vmovsv ⟨true, 3⟩ ⟨0x14#5, 0x13#5, 6#5, false, false⟩),
     .ok (.vmovvs ⟨true, 2⟩ ⟨0x14#5, 0xb#5, 0x1e#5, true, true⟩),
     .ok (.vrb ⟨false, 0⟩ ⟨0x14#5, 0xd#5, 9#5⟩),
     .ok (.rot ⟨true, 1⟩),
     .ok (.vgath ⟨true, 2⟩ ⟨0x14#5, 0xd#5, 6#5, 3#3, 5#3⟩),
     .ok (.vscat ⟨true, 0⟩ ⟨0x14#5, 0xb#5, 6#5, 3#3, 5#3⟩),
     .ok (.vscataF32 ⟨false, 2⟩ ⟨0x14#5, 0xb#5, 9#5, 1#3, 5#3⟩),
     .ok (.vscataI32 ⟨true, 3⟩ ⟨0x14#5, 0xb#5, 0x1e#5, 6#3, 5#3⟩),
     .ok (.pand ⟨true, 3⟩ ⟨2#3, 5#3, 3#3⟩),
     .ok (.por ⟨false, 0⟩ ⟨2#3, 3#3, 7#3⟩),
     .ok (.pxor ⟨false, 3⟩ ⟨5#3, 7#3, 2#3⟩),
     .ok (.pnot ⟨true, 1⟩ ⟨2#3, 1#3⟩),
     .ok (.pcnt ⟨true, 2⟩ ⟨0x14#5, 7#3, 6#3⟩),
     .ok (.pff ⟨true, 0⟩ ⟨0x14#5, 2#3, 6#3⟩),
     .ok (.pset ⟨false, 1⟩ ⟨5#3, 5#5, false⟩)] := rfl

theorem test_decode_matrix :
    [decode .M 0xA0048000 none,
     decode .M 0xC0228000 none,
     decode .M 0xC04187E8 (some 0x4142012C),
     decode .M 0xE0650768 (some 0x3414C2DC),
     decode .M 0xB10B5028 (some 0x5F2EE40D),
     decode .M 0xD1298828 (some 0xCB978BE3),
     decode .M 0xD14B0828 (some 0xCBBC6C94),
     decode .M 0xE1680528 none,
     decode .M 0xA1880000 none,
     decode .M 0xD2000340 none,
     decode .M 0xA2280340 none,
     decode .M 0x92400005 none] =
    [.ok (.oclaim ⟨false, 2⟩ ⟨9#4⟩),
     .ok (.orel ⟨true, 0⟩ ⟨5#4⟩),
     .ok (.oload ⟨true, 0⟩ ⟨3#4, 0x1f#5, 5#3, 0x4142#16, 0x12c#10⟩),
     .ok (.oloadS ⟨true, 2⟩ ⟨0xa#4, 0x1d#5, 5#3, 0x3414c2dc#32⟩),
     .ok (.mma ⟨false, 3⟩ ⟨1#2, 6#4, 0xa#4, 5#3, 0x5f2ee40d#32⟩),
     .ok (.mmap ⟨true, 1⟩ ⟨1#2, 3#4, 1#4, 5#3, 0xcb978be3#32⟩),
     .ok (.mmapt ⟨true, 1⟩ ⟨1#2, 6#4, 1#4, 5#3, 0xcbbc6c94#32⟩),
     .ok (.mdrain ⟨true, 2⟩ ⟨1#2, 0x14#5, 5#3⟩),
     .ok (.mzero ⟨false, 2⟩ ⟨1#2⟩),
     .ok (.mstat ⟨true, 1⟩ ⟨0xd#5⟩),
     .ok (.mres ⟨false, 2⟩ ⟨1#2, 0xd#5⟩),
     .ok (.mmode ⟨false, 1⟩ ⟨5#3⟩)] := rfl
/-! ## Whole words that the manual's worked programs print -/

/-- Words of scalar instructions, each with the instruction that the manual prints beside it. -/
theorem test_words_scalar :
    [decode .C 0x20230C50 none, decode .C 0x00021060 none, decode .C 0x01031801 none, decode .C 0x006720D0 none, decode .C 0x02010004 none,
      decode .C 0x02450000 (some 0x5A3C9E1B), decode .C 0x02250000 (some 0x9B1D4E57), decode .C 0x0500002E none, decode .C 0x05C00000 none,
      decode .C 0x07C00000 none, decode .C 0x070C0012 none, decode .C 0x04210002 none]
      = [.ok (.mul ⟨false, 2⟩ ⟨3, 1, 2, true, true⟩), .ok (.add h0 ⟨2, 2, 3, false, false⟩), .ok (.addi h0 ⟨3, 3, false, 1⟩),
        .ok (.lea h0 ⟨7, 4, 6, false, true⟩), .ok (.li h0 ⟨1, 4⟩), .ok (.lil h0 ⟨5, 0x5A3C9E1B⟩), .ok (.lih h0 ⟨5, 0x9B1D4E57⟩), .ok (.wait h0 ⟨0, 46⟩),
        .ok (.opb h0), .ok (.halt h0), .ok (.csrr h0 ⟨12, 0x012⟩), .ok (.loop h0 ⟨1, 0, 2⟩)] := rfl

/-- Words of the synchronisation, segment and control-strand instructions. -/
theorem test_words_control :
    [decode .C 0x06000000 none, decode .C 0x06200002 none, decode .C 0x064D0030 none, decode .C 0x06600030 none, decode .C 0x06A00030 none, decode .C 0x06C30005 none,
      decode .C 0x056200C8 (some 0), decode .C 0x05800000 none, decode .C 0x05A00000 none, decode .C 0x80400000 none, decode .C 0x80600000 none,
      decode .C 0x80800000 none, decode .C 0x800020A0 (some 0)]
      = [.ok (.tks h0 ⟨0⟩), .ok (.tkw h0 ⟨2⟩), .ok (.bini h0 ⟨13, 48⟩), .ok (.barv h0 ⟨48⟩), .ok (.bwt h0 ⟨48⟩), .ok (.bph h0 ⟨3, 5⟩),
        .ok (.segb h0 ⟨2, 200, 0⟩), .ok (.sege h0), .ok (.tsm h0), .ok (.ctxsw h0), .ok (.yield h0), .ok (.sleep h0), .ok (.fmt h0 ⟨4, 5, false, false, 0⟩)] := rfl

/-- Words of the A and M spaces. -/
theorem test_words_memory_and_matrix :
    [decode .A 0x80642802 none, decode .A 0x80A52000 none, decode .A 0x81425000 none, decode .A 0x83063900 (some 0x160), decode .A 0x83211060 (some 0x94),
      decode .A 0x83400006 none, decode .A 0x83600000 none, decode .A 0x840452C8 (some 16), decode .A 0x87450000 (some 8192),
      decode .M 0x80408080 (some 0x000101A0), decode .M 0x81200800 (some 64), decode .M 0x816000C0 (some 0), decode .M 0x82400004 none]
      = [.ok (.ldD h0 ⟨4, 5, false, 2⟩), .ok (.ldHn h0 ⟨5, 4, false, 0⟩), .ok (.stW h0 ⟨2, 10, false, 0⟩), .ok (.atomAdd h0 ⟨6, 7, 8, false, false, 1, 1, 2⟩),
        .ok (.cas h0 ⟨1, 2, 3, false, false, 0, 2, 1, 1⟩), .ok (.fence h0 ⟨2, 1⟩), .ok (.mark h0), .ok (.copy h0 ⟨4, 10, 11, 1, 16⟩),
        .ok (.stepPod h0 ⟨5, 0, false, 8192⟩), .ok (.oload h0 ⟨1, 2, 0, 1, 416⟩), .ok (.mmap h0 ⟨0, 0, 1, 0, 64⟩), .ok (.mdrain h0 ⟨0, 3, 0⟩), .ok (.mmode h0 ⟨4⟩)] := rfl

/-- Words of the V space. -/
theorem test_words_vector :
    [decode .V 0xD72411A4 none, decode .V 0x8B443260 none, decode .V 0x8E6331C0 none, decode .V 0x8E800000 none, decode .V 0x8ACA2981 none, decode .V 0x8EB67578 none]
      = [.ok (.vfmaF32 ⟨true, 1⟩ ⟨4, 2, 6, 4, true, false⟩), .ok (.vcvt h0 ⟨4, 6, false, 9, 8, 0⟩), .ok (.vrb h0 ⟨3, 6, 7⟩), .ok (.rot h0),
        .ok (.vcmpF32 h0 ⟨2, 2, 5, 6, 0, false, false, true⟩), .ok (.vgath h0 ⟨22, 14, 21, 7, 0⟩)] := rfl

/-- An empty cell of a map is refused in every space, a nonzero bit outside a field is refused, and so is a long word with no word after it (R41, R44). -/
theorem test_decode_refuses :
    (∀ st : StrandId, decode st 0x02E00000 none = .error .reservedCell) ∧ decode .A 0x86000001 none = .error .nonzeroField
      ∧ decode .A 0x87450000 none = .error .noExtension := ⟨fun st => by cases st <;> rfl, rfl, rfl⟩

/-! ## Ill-formed terms (R39, R42, R45) -/

/-- Each check of `Instr.wf` refuses a term: a shift of 64, empty loop bodies and stage counts, an empty segment, an unassigned and a
read-only CSR, and reserved codes of the access forms. -/
theorem test_wf_refuses_scalar :
    [Instr.shli h0 ⟨1, 2, false, 64⟩, .shri h0 ⟨1, 2, false, 64⟩, .sari h0 ⟨1, 2, false, 0x3FF⟩, .loop h0 ⟨1, 0, 0⟩, .loops h0 ⟨1, 0, 0, 1⟩, .loops h0 ⟨1, 0, 1, 0⟩,
      .segb h0 ⟨0, 0, 0⟩, .csrr h0 ⟨1, 0x016⟩, .csrw h0 ⟨1, 0x012⟩, .csrs h0 ⟨1, 0x000⟩, .csrc h0 ⟨1, 0x030⟩, .vlds h0 ⟨1, 2, 3, false, false, 3⟩,
      .vsts h0 ⟨1, 2, 3, false, false, 3⟩, .vldb h0 ⟨1, 2, false, 3⟩, .atomAdd h0 ⟨1, 2, 3, false, false, 2, 0, 0⟩, .atomSwap h0 ⟨1, 2, 3, false, false, 0, 3, 0⟩,
      .cas h0 ⟨1, 2, 3, false, false, 0, 0, 0, 2⟩, .fence h0 ⟨0, 0⟩, .fence h0 ⟨1, 3⟩].all (fun i => !i.wf) = true := by decide

theorem test_wf_refuses_vector_and_matrix :
    [Instr.vwmulI8 h0 ⟨1, 2, 3, 0, false, false, false⟩, .vcmpI8 h0 ⟨0, 0, 1, 2, 0, false, false, false⟩, .vcvt h0 ⟨1, 2, false, 0, 0, 0⟩, .vcvt h0 ⟨1, 3, false, 9, 8, 0⟩,
      .pand h0 ⟨0, 1, 2⟩, .por h0 ⟨0, 1, 2⟩, .pxor h0 ⟨0, 1, 2⟩, .pnot h0 ⟨0, 1⟩, .pset h0 ⟨0, 1, false⟩, .oload h0 ⟨1, 2, 0, 1, 0⟩, .oload h0 ⟨1, 2, 0, 1, 513⟩,
      .mmode h0 ⟨7⟩].all (fun i => !i.wf) = true := by decide

/-- An event that names a unit the part does not have. -/
theorem test_wf_refuses_events :
    (Instr.resultLanding 768).wf = false ∧ (Instr.copyin 16 0).wf = false ∧ (Instr.copyin 0 4).wf = false ∧ (Instr.keyclr 0).wf = false ∧ (Instr.keyclr 256).wf = false
      ∧ (Instr.slotDepart 64).wf = false ∧ (Instr.apop 1024).wf = false ∧ (Instr.hartTimerInterrupt 128).wf = false := by decide
/-! ## One instruction on a small state

The expected values are the manual's worked cases, or are worked by hand from the rule named. -/

/-- What the instruction leaves; the state itself where it stops. -/
def after (i : Instr) (s : State) : State := match exec i s with | .next t => t | _ => s

/-- The results that the instruction puts in flight: register, and the low 32 bits of the value. -/
def flying (i : Instr) (s : State) : List (Nat × Nat) := (after i s).str.flights.flatMap fun f => f.regs.map fun r => (r.reg.toNat, r.val.toNat % 2 ^ 32)

/-- Scalars 1 and 2 of strand C, and vector registers 1 to 3 of strand V. -/
def two (a b : Word) : State := withRegs [(1, a), (2, b)] (atReset .C)
def lanes (a b c : Nat) : State :=
  (atReset .V).mapCtx fun x => { x with vregs := ((x.vregs.set 1 (BitVec.ofNat 4096 a)).set 2 (BitVec.ofNat 4096 b)).set 3 (BitVec.ofNat 4096 c) }

/-- R68: wrap, signed and unsigned order, shifts modulo 64. -/
theorem test_alu :
    [(after (.add h0 ⟨3, 1, 2, false, false⟩) (two (-1) 2)).core.ctx.c.get 3, (after (.sub h0 ⟨1, 1, 2, false, false⟩) (two 0 1)).core.ctx.c.get 1,
      (after (.slt h0 ⟨3, 1, 2, false, false⟩) (two (-1) 2)).core.ctx.c.get 3, (after (.sltn h0 ⟨3, 1, 2, false, false⟩) (two (-1) 2)).core.ctx.c.get 3,
      (after (.shl h0 ⟨3, 1, 2, false, false⟩) (two 3 65)).core.ctx.c.get 3, (after (.sar h0 ⟨3, 1, 2, false, false⟩) (two (-8) 1)).core.ctx.c.get 3,
      (after (.clz h0 ⟨3, 1, false⟩) (two 1 0)).core.ctx.c.get 3, (after (.add h0 ⟨0, 1, 2, false, false⟩) (two 3 4)).core.ctx.c.get 0]
      = [1, BitVec.allOnes 64, 1, 0, 6, 0xFFFFFFFFFFFFFFFC, 63, 0] := by decide

/-- R70: the high half of a signed product, and the corners of division. -/
theorem test_muldiv :
    flying (.mulh h0 ⟨3, 1, 2, false, false⟩) (two (-1) 2) = [(3, 0xFFFFFFFF)] ∧ flying (.div h0 ⟨3, 1, 2, false, false⟩) (two 7 0) = [(3, 0xFFFFFFFF)]
      ∧ flying (.div h0 ⟨3, 1, 2, false, false⟩) (two (-7) 2) = [(3, 0xFFFFFFFD)] ∧ flying (.rem h0 ⟨3, 1, 2, false, false⟩) (two (-7) 2) = [(3, 0xFFFFFFFF)]
      ∧ flying (.rem h0 ⟨3, 1, 2, false, false⟩) (two 7 0) = [(3, 7)] := by decide

/-- R73's worked case: LIL, then LIH, build the patina constant pair in s5. -/
theorem test_lil_lih : (after (.lih h0 ⟨5, 0x9B1D4E57⟩) (after (.lil h0 ⟨5, 0x5A3C9E1B⟩) (atReset .C))).core.ctx.c.get 5 = 0x9B1D4E575A3C9E1B := by decide

/-- R71: LEA past the end of its space leaves a pointer that is not canonical; a taken branch counts from its own word (R76); JAL links PC + 4 (R75). -/
theorem test_lea_and_transfers :
    (after (.lea h0 ⟨3, 1, 2, false, false⟩) (two 0x2000FFFFFFFFFFFF 1)).core.ctx.c.get 3 = 0xF000000000000000
      ∧ (after (.beq h0 ⟨0, 0, 2⟩) (withImage [0, 0x03000002, 0, 0] 4 (atReset .C))).core.ctx.c.pc = 12
      ∧ (after (.jal h0 ⟨3, 0xFFFF⟩) (withImage [0, 0] 4 (atReset .C))).core.ctx.c.pc = 0
      ∧ (after (.jal h0 ⟨3, 0xFFFF⟩) (withImage [0, 0] 4 (atReset .C))).core.ctx.c.get 3 = 8 := by decide

/-- R225's worked case: one rounding gives 2^−24, a product and a sum give +0; and VADD.i8 with and without saturation (R222). -/
theorem test_vector_arithmetic :
    flying (.vfmaF32 h0 ⟨3, 1, 2, 0, false, false⟩) (lanes 0x3F800800 0x3F800800 0xBF801000) = [(3, 0x33800000)]
      ∧ flying (.vmulF32 h0 ⟨4, 1, 2, 0, false, false⟩) (lanes 0x3F800800 0x3F800800 0) = [(4, 0x3F801000)]
      ∧ flying (.vaddI8 h0 ⟨4, 1, 2, 0, false, false, true⟩) (lanes 0x7F 0x01 0) = [(4, 0x7F)]
      ∧ flying (.vaddI8 h0 ⟨4, 1, 2, 0, false, false, false⟩) (lanes 0x7F 0x01 0) = [(4, 0x80)] := by decide

/-- The worked conversions of R135: f32 (9) to bf16 (8), f8 (7), i8 (1) and i32 (3). -/
theorem test_conversions :
    [cvtElem 9 8 .rne 0x3F818000, cvtElem 9 8 .rtz 0x3F818000, cvtElem 9 8 (.sr 127) 0x3F818000, cvtElem 9 8 (.sr 128) 0x3F818000, cvtElem 9 8 .rne 0x7F7FFFFF,
      cvtElem 9 8 .rtz 0x7F7FFFFF, cvtElem 9 7 .rne 0x43960000, cvtElem 9 7 (.sr 160) 0x43960000, cvtElem 9 7 (.sr 159) 0x43960000, cvtElem 9 7 .rne 0x43FA0000,
      cvtElem 9 1 .rne 0xC0200000, cvtElem 9 1 (.sr 128) 0xC0200000, cvtElem 9 1 .rne 0x4348B333, cvtElem 9 3 .rne 0x7FC00000, cvtElem 9 8 .rne 0x80000000]
      = [0x3F82, 0x3F81, 0x3F81, 0x3F82, 0x7F80, 0x7F7F, 0x79, 0x7A, 0x79, 0x7E, 0xFE, 0xFD, 0x7F, 0, 0x8000] := by decide

/-- The worked weights of R132, the terms of R126 and the members of R278. -/
theorem test_weights :
    [bp12Weight 0x38D 37, bp12Weight 0x387 (-510), bp12Weight 0x388 99] = [0x3F85, 0xC3FE, 0x3F80]
      ∧ [patinaE 0 1 1 0, patinaE 0 1 2 0, patinaE 0 1 3 0, patinaE 0 1 0 0] = [-198, 120, 50, 0] ∧ patina 0 1 1 0 = 0x23694765
      ∧ [0x1A, 0x07, 0x88, 0x66, 0x77].map (fun c => (sptNum c).round .rne .f32) = [0x3E800000, 0x3F800000, 0xC0000000, 0x3D000000, 0] := by decide

/-- R182's worked block: [1.0, 0.5, −0.75, 3.0] and twelve +0, at both widths. -/
theorem test_block_coder :
    encodeBlock 1 ([0x3F800000, 0x3F000000, 0xBF400000, 0x40400000].map (fun x => cvtElem 9 8 .rne x) ++ List.replicate 12 0)
        = ([0x80, 0x01, 0x20, 0x10, 0xE8, 0x60] ++ List.replicate 12 0, 0x00)
      ∧ encodeBlock 0 ([0x3F800000, 0x3F000000, 0xBF400000, 0x40400000].map (fun x => cvtElem 9 8 .rne x) ++ List.replicate 12 0)
        = ([0x80, 0x00, 0x12, 0x6E] ++ List.replicate 6 0, 0x8C) := by decide

/-- The worked values of FIPS 197: SubBytes of 0x53 and of 0, and one column of MixColumns. -/
theorem test_cipher_tables : subByte 0x53 = 0xED ∧ subByte 0 = 0x63 ∧ mixColumn [0xDB, 0x13, 0x53, 0x45] = [0x8E, 0x4D, 0xA1, 0xBC] := by decide

/-- A word placed after reset runs in the next step: LI s1, 4 (R73). -/
theorem test_step_runs_li :
    (match step (State.reset.withFetchWord 32 0x02010004) with | .next t => t.core.ctx.c.get 1 | _ => 0) = 4 := by decide
theorem witness_alu_results : Ready h0 false [useS 1, useS 2 true] (atReset .C) := ready rfl

theorem witness_select_result : Ready h0 false [useS 3, useS 1, useS 2] (atReset .C)
    ∧ let s := (atReset .A).setStr { (atReset .A).str with dead := 8, deadchk := true }
      Ungated s ∧ InSync h0 s ∧ (∀ u ∈ [useS 3, useS 1, useS 2], s.ctx.isPending s.cur u = false)
        ∧ s.ctx.isDead s.cur (useS 3) = true ∧ s.str.deadchk = true :=
  ⟨ready rfl, ungated rfl, nofun, by decide, by decide, rfl⟩

theorem witness_muldiv_results : Ready h0 false [useS 1, useS 2] (atReset .M) ∧ LatchFree 0 (atReset .M) :=
  ⟨ready rfl, latchFree rfl (by decide)⟩

/-- The sum of LEA at both ends of its range. -/
theorem witness_pointer_and_bit_results :
    let s := withRegs [(1, 0xFFFFFFFFFFFF), (2, 1), (3, -1)] (atReset .C)
    let sum := fun (a b : BitVec 5) => ((s.rs a).toNat % 2 ^ 48 : Int) + (s.rs b).toInt
    Ready h0 false [useS 1, useS 2] s ∧ ¬ (0 ≤ sum 1 2 ∧ sum 1 2 ≤ 2 ^ 48 - 1) ∧ (0 ≤ sum 1 0 ∧ sum 1 0 ≤ 2 ^ 48 - 1)
      ∧ ¬ (0 ≤ sum 0 3 ∧ sum 0 3 ≤ 2 ^ 48 - 1) ∧ 0 ≤ sum 2 3 :=
  ⟨ready rfl, by decide, by decide, by decide, by decide⟩

theorem witness_immediate_results : Ready h0 false [useS 1] (atReset .C) ∧ Ready h0 true [useS 3] (atReset .C)
    ∧ (63#10).toNat < 64 := ⟨ready rfl, ready rfl, by decide⟩

/-- A branch to itself in an image of one word, and past its end; operands that are and are not equal. -/
theorem witness_branches :
    let s := withRegs [(2, 1)] (withImage [0x03000000] 0 (atReset .C))
    let g := fun off : BitVec 11 => (s.str.pc : Int) + 4 * off.toInt
    Ready h0 false [useS 1, useS 2] s ∧ InImage (g 0) s ∧ ¬ InImage (g 1) s ∧ ¬ InImage (g 0x7FF) s ∧ s.rs 1 ≠ s.rs 2 ∧ s.rs 1 = s.rs 0 :=
  ⟨ready rfl, inImage rfl, notInImage rfl, notInImage rfl, by decide, by decide⟩

theorem witness_jumps :
    let s := withRegs [(2, 2), (4, 4)] (withImage [0x03C00000] 0 (atReset .C))
    let g := fun (a : BitVec 5) => s.rs a + 4 * (0#10).signExtend 64
    Ready h0 false [useS 1] s ∧ (InImage (g 0).toNat s ∧ (g 0).toNat % 4 = 0) ∧ (g 2).toNat % 4 ≠ 0
      ∧ ((g 4).toNat % 4 = 0 ∧ ¬ InImage (g 4).toNat s) ∧ InImage ((s.str.pc : Int) + 4 * (0#21).toInt) s
      ∧ ¬ InImage ((s.str.pc : Int) + 4 * (1#21).toInt) s :=
  ⟨ready rfl, ⟨inImage rfl, by decide⟩, by decide, ⟨by decide, notInImage rfl⟩, inImage rfl, notInImage rfl⟩

/-- A loop of one word that fits its image and one that does not; a counter in use; and the end word of a loop that goes back, that ends,
and that ends together with the loop around it. -/
theorem witness_loops :
    let s := withRegs [(1, 3)] (withImage [0x04210001, 0, 0] 0 (atReset .C))
    let e := fun last : BitVec 11 => s.str.pc + 4 * last.toNat
    let t := fun l : Loop => withLoops [l] s
    let in_ : Loop := ⟨0, 0, 0, 0, 2, false⟩
    let around : Loop := ⟨1, 0, 0, 0, 2, false⟩
    let legal := fun (u : State) (lc : BitVec 2) (last : BitVec 11) (stages : BitVec 3) => (∀ l ∈ u.str.loops, l.lc ≠ lc)
      ∧ (∀ l ∈ u.str.loops, ¬ (l.first ≤ u.str.pc ∧ u.str.pc ≤ l.last ∧ l.last < u.str.pc + 4 * last.toNat))
      ∧ ((u.rs 1).setWidth 32).toNat + stages.toNat < 2 ^ 32
    let big := withRegs [(1, 0xFFFFFFFF)] s
    Ready h0 false [useS 1] s ∧ Ready h0 false [useS 2] s ∧ legal s 0 1 0 ∧ legal s 0 1 7 ∧ e 2 < 4 * s.str.image.length ∧ 4 * s.str.image.length ≤ e 3
      ∧ (s.rs 1).setWidth 32 ≠ 0#32 ∧ (s.rs 2).setWidth 32 = 0#32
      ∧ Ready h0 false [useS 1] (t ⟨0, 0, 8, 0, 1, false⟩) ∧ ¬ legal (t ⟨0, 0, 8, 0, 1, false⟩) 0 1 0
      ∧ Ready h0 false [useS 1] big ∧ legal big 0 1 0 ∧ ¬ legal big 0 1 1
      ∧ (let u := (withLoops [in_] s).setStr { (withLoops [in_] s).str with lc := #v[2, 0, 0, 0] }
        u.str.loops = in_ :: [] ∧ in_.last = u.str.pc ∧ in_.brk = false ∧ 1 < (u.str.lc[in_.lc.toNat]'in_.lc.isLt).toNat)
      ∧ (let u := (withLoops [in_, around] s).setStr { (withLoops [in_, around] s).str with lc := #v[1, 2, 0, 0] }
        u.str.loops = in_ :: [around] ∧ around.last = u.str.pc ∧ around.lc ≠ in_.lc
          ∧ ¬ (in_.brk = false ∧ 1 < (u.str.lc[in_.lc.toNat]'in_.lc.isLt).toNat)
          ∧ around.brk = false ∧ 1 < (u.str.lc[around.lc.toNat]'around.lc.isLt).toNat)
      ∧ (let u := (withLoops [in_, around] s).setStr { (withLoops [in_, around] s).str with lc := #v[1, 1, 0, 0] }
        u.str.loops = in_ :: [around] ∧ ¬ (in_.brk = false ∧ 1 < (u.str.lc[in_.lc.toNat]'in_.lc.isLt).toNat)
          ∧ ¬ (around.brk = false ∧ 1 < (u.str.lc[around.lc.toNat]'around.lc.isLt).toNat) ∧ ∀ q ∈ ([] : List Loop), q.last ≠ u.str.pc)
      ∧ (let u := withLoops [in_] s
        u.str.loops = in_ :: [] ∧ in_.last = u.str.pc ∧ ¬ (in_.brk = false ∧ 1 < (u.str.lc[in_.lc.toNat]'in_.lc.isLt).toNat)
          ∧ ∀ m ∈ ([] : List Loop), m.last ≠ u.str.pc) :=
  ⟨ready rfl, ready rfl, by decide, by decide, by decide, by decide, by decide, by decide, ready rfl, by decide, ready rfl, by decide,
    by decide, by decide, by decide, by decide, by decide⟩

/-- Stamps one cycle ahead, at the current cycle, and 2^31 ahead, in both modes. -/
theorem witness_waits :
    let s := atReset .C
    let delta := fun (t : W32) => (s.stamp t - BitVec.ofNat 32 s.gcyc).toNat
    Ready h0 false [useS 1] s ∧ Ready h0 true [] s ∧ Ready h0 true [] (inTime s) ∧ s.str.timed = false ∧ (inTime s).str.timed = true
      ∧ (1 + h0.i.toNat ≤ delta 1 ∧ delta 1 < 2 ^ 31) ∧ ¬ (1 + h0.i.toNat ≤ delta 0 ∧ delta 0 < 2 ^ 31)
      ∧ ¬ (1 + h0.i.toNat ≤ delta 0x80000000 ∧ delta 0x80000000 < 2 ^ 31)
      ∧ delta 0 = 0 ∧ (0 < delta 0x7FFFFFFF ∧ delta 0x7FFFFFFF < 2 ^ 31) ∧ 2 ^ 31 ≤ delta 0x80000000 :=
  ⟨ready rfl, ready rfl, ready rfl, rfl, rfl, by decide, by decide, by decide, by decide, by decide, by decide⟩

/-- The first body word of a LOOPS iteration in strand V. -/
theorem witness_breaks_and_stages :
    let s := withLoops [⟨0, 0, 8, 1, 2, false⟩] (atReset .V)
    Ready h0 false [] (atReset .C) ∧ always (atReset .C) ∧ s.cur = .V ∧ s.str.loops = ⟨0, 0, 8, 1, 2, false⟩ :: [] ∧ (0 : Nat) = s.str.pc
      ∧ (1#3 ≠ 0) ∧ (∀ m ∈ ([] : List Loop), m.first ≠ s.str.pc) ∧ stops h0 [] noNeed noCheck s = none :=
  ⟨ready rfl, trivial, rfl, rfl, rfl, by decide, nofun, rfl⟩

/-- A result in flight for a register, whose landing cycle is or is not known. -/
def flight (k : RegKind) (r : BitVec 5) (lands : Option Nat) : Flight := ⟨k, [⟨r, 5, BitVec.allOnes 4096⟩], lands, 0, true, false, false, none, 0, none⟩

/-- A pending register, full latches, a missing partner, and dead registers under both settings of DEADCHK. -/
theorem witness_blocked_reads :
    let p := withFlights [flight .scalar 4 none] (atReset .C)
    let l := withFlights (List.replicate 8 (flight .scalar 4 (some 3))) (atReset .C)
    let y := { atReset .C with core := { (atReset .C).core with syncmask := 3 }, plan := { Plan.empty with apart := 1 } }
    let d := (atReset .C).setStr { (atReset .C).str with dead := 8, deadchk := true }
    let e := (atReset .C).setStr { (atReset .C).str with dead := 8 }
    let b := (atReset .C).setStr { (atReset .C).str with upset := 8 }
    (Ungated b ∧ InSync h0 b ∧ Unstaged b ∧ (∀ x ∈ [useS 1] ++ useS 3 :: [], b.ctx.isPending b.cur x = false)
      ∧ (∀ x ∈ [useS 1], x.moves = false → b.ctx.isUpset b.cur x = false) ∧ (useS 3).moves = false ∧ b.ctx.isUpset b.cur (useS 3) = true)
    ∧ (Ungated p ∧ InSync h0 p ∧ p.ctx.isPending p.cur (useS 4) = true ∧ p.str.timed = false
      ∧ Ungated (inTime p) ∧ (inTime p).ctx.isPending (inTime p).cur (useS 4) = true ∧ (inTime p).str.timed = true)
    ∧ (Ungated l ∧ Ready h0 false [] l ∧ noCheck l = none ∧ (Need.mk true 0).latch = true ∧ 8 ≤ (l.str.flights.filter fun f => f.latch).length)
    ∧ (Ungated y ∧ y.core.syncmask.getLsbD y.cur.num = true ∧ y.plan.apart.getLsbD y.cur.num = true ∧ y.str.timed = false ∧ (inTime y).str.timed = true)
    ∧ (Ungated d ∧ InSync h0 d ∧ (∀ x ∈ [useS 1] ++ useS 3 :: [], d.ctx.isPending d.cur x = false) ∧ (∀ x ∈ [useS 1], d.ctx.isDead d.cur x = false)
      ∧ (∀ x ∈ [useS 1] ++ useS 3 :: [], x.moves = false → d.ctx.isUpset d.cur x = false) ∧ d.ctx.isDead d.cur (useS 3) = true ∧ d.str.deadchk = true)
    ∧ Ungated e ∧ InSync h0 e ∧ Unstaged e ∧ e.ctx.isPending e.cur (useS 3) = false ∧ e.ctx.isUpset e.cur (useS 3) = false ∧ (3#5 ≠ 0) ∧ e.str.dead.getLsbD 3 = true
      ∧ e.str.deadchk = false ∧ latchStop noNeed e = none :=
  ⟨⟨ungated rfl, nofun, nofun, by decide, by decide, rfl, by decide⟩, ⟨ungated rfl, nofun, by decide, rfl, ungated rfl, by decide, rfl⟩, ⟨ungated rfl, ready rfl, rfl, rfl, by decide⟩,
    ⟨ungated rfl, by decide, by decide, rfl, rfl⟩, ⟨ungated rfl, nofun, by decide, by decide, by decide, by decide, rfl⟩,
    ungated rfl, nofun, nofun, by decide, by decide, by decide, by decide, rfl, rfl⟩

/-- Numbers at the ends of the assigned ranges. -/
theorem witness_csr_accesses : Ready h0 false [] (atReset .C) ∧ Ready h0 false [useS 1] (atReset .C)
    ∧ let rw : List (BitVec 12) := [0x013, 0x014, 0x015, 0x020, 0x021, 0x022, 0x023]
      0x013 ∈ rw ∧ 0x015 ∈ rw ∧ 0x020 ∈ rw ∧ 0x023 ∈ rw ∧ 0x012 ∉ rw ∧ 0x016 ∉ rw ∧ 0x01F ∉ rw ∧ 0x024 ∉ rw :=
  ⟨ready rfl, ready rfl, by decide, by decide, by decide, by decide, by decide, by decide, by decide, by decide⟩

theorem witness_trap_instruction :
    let s := atReset .V
    Ready h0 false [] s ∧ s.ctx.inHandler s.gcyc = false ∧ s.str.halted = false := ⟨ready rfl, rfl, rfl⟩

/-- Outside a handler, and in one at each stage of its life. -/
theorem witness_exception_entry :
    let s := atReset .A
    let t := (atReset .C).mapCtx fun x => { x with handler := .running }
    s.ctx.inHandler s.gcyc = false ∧ (0x0D#6 ≠ 0x1C) ∧ (∀ st, (s.ctx.strand st).waitg = none) ∧ (s.ctx.strand .A).halted = false ∧ (s.ctx.strand .A).next ≤ s.gcyc
      ∧ Ready h0 false [] t ∧ t.ctx.inHandler t.gcyc = true
      ∧ (s.mapCtx fun x => { x with handler := .returning 1 }).ctx.inHandler 0 = true ∧ (s.mapCtx fun x => { x with handler := .returning 1 }).ctx.inHandler 1 = false
      ∧ pagesFound s = [] ∧ (pagesFound (s.mapEng fun e => { e with recs := [⟨0, 0x460000000000, 0, 0, 0, 0⟩] })).length = 1 :=
  ⟨rfl, by decide, fun st => by cases st <;> rfl, rfl, by decide, ready rfl, rfl, rfl, rfl, rfl, by decide⟩

/-- The frame of an exception that strand A takes. -/
def frame : Frame :=
  let saved := fun (held : Bool) => SavedStrand.mk { Strand.idle with halted := false } 0 held
  ⟨0x40D, 0, 0, saved false, saved true, saved false, saved false, false, ⟨[], [], 0⟩, []⟩

/-- Strand C in its handler. -/
def inHandler : State := (withGroup (atReset .C)).mapCtx fun x => { x with handler := .running, frame := some frame }

theorem witness_handler_return :
    let s := inHandler
    Ready h0 false [] s ∧ s.cur = .C ∧ s.ctx.handler = .running ∧ s.ctx.c.flights = [] ∧ s.ctx.frame = some frame
      ∧ Ready h0 false [] (atReset .A) ∧ ¬ ((atReset .A).cur = .C ∧ (atReset .A).ctx.handler = .running)
      ∧ frame.sc.st.halted = false ∧ { frame with sc := { frame.sc with st := Strand.idle } }.sc.st.halted = true :=
  ⟨ready rfl, rfl, rfl, rfl, rfl, ready rfl, by decide, rfl, rfl⟩

theorem witness_strand_control :
    let s := atReset .C
    let woken := s.mapCtx fun x => { x with pendTick := true }
    let full := s.mapCtx fun x => { x with fq := List.replicate 16 0 }
    let almost := s.mapCtx fun x => { x with fq := List.replicate 15 0 }
    Ready h0 false [] s ∧ s.ctx.inHandler s.gcyc = false ∧ Ready h0 false [] woken ∧ woken.str.timed = false ∧ woken.ctx.pendTick = true
      ∧ (s.str.timed = false ∧ s.ctx.pendTick = false ∧ s.ctx.pendSig = false ∧ s.ctx.pendUrg = false ∧ s.core.request = false)
      ∧ Ready h0 false [] (inTime s) ∧ Ready h0 true [useS 1, useS 2] almost ∧ almost.ctx.fq.length < 16
      ∧ Ready h0 true [useS 1, useS 2] full ∧ 16 ≤ full.ctx.fq.length ∧ full.str.timed = false :=
  ⟨ready rfl, rfl, ready rfl, rfl, rfl, by decide, ready rfl, ready rfl, by decide, ready rfl, by decide, rfl⟩

/-- CTXSW in a handler of context 0 of a core with two contexts, with and without a group in context 1; context 1 with its group over. -/
theorem witness_context_switch :
    let two : State := { inHandler with core := { inHandler.core with partw := 1 } }
    let both : State := { two with core := { two.core with shadow := { Ctx.idle with group := some ⟨8, 0, 1, 1, 0, 0, none⟩ } } }
    let wide : State := { both with core := { both.core with trapbase := 0xFFFFFF0000000001 } }
    let here := fun s : State => s.cur = .C ∧ s.ctx.handler = .running ∧ s.core.second = false ∧ s.core.partw.getLsbD 0 = true
    let fits := fun s : State => 64 * (s.core.trapbase.extractLsb' 40 24).toNat + 65600 ≤ localSize s.core.partw
    let done : State := { two with core := { two.core with second := true, ctx := Ctx.idle } }
    Ready h0 false [] two ∧ here two ∧ two.core.shadow.group = none ∧ Ready h0 false [] both ∧ here both ∧ both.core.shadow.group ≠ none
      ∧ both.ctx.c.flights = [] ∧ fits both ∧ Ready h0 false [] wide ∧ here wide ∧ ¬ fits wide ∧ ¬ here (atReset .C)
      ∧ done.core.idx < 768 ∧ done.core.second = true ∧ done.core.ctx.group = none ∧ done.core.eng.stopped = none ∧ done.core.shadow.replies = [] :=
  ⟨ready rfl, by decide, rfl, ready rfl, by decide, by decide, rfl, by decide, ready rfl, by decide, by decide, by decide, by decide, rfl, rfl, rfl, rfl⟩

/-- A channel with 0, 1, 7 and 8 tokens. -/
theorem witness_tokens :
    let s := atReset .C
    let w := fun n : Nat => { s.mapCtx fun x => { x with tokens := x.tokens.set 3 n } with plan := { Plan.empty with tok0 := Plan.empty.tok0.set 3 n } }
    let sum := fun u : State => u.plan.tok0[3] - u.plan.pops[3] + stagedPushes 3 u
    Ready h0 false [] (w 7) ∧ sum (w 7) < 8 ∧ Ready h0 false [] (w 8) ∧ 8 ≤ sum (w 8) ∧ Ready h0 false [] (w 1) ∧ 0 < (w 1).ctx.tokens[3]
      ∧ Ready h0 false [] (w 0) ∧ (w 0).ctx.tokens[3] = 0 ∧ (w 0).str.timed = false ∧ Ready h0 false [] (inTime (w 0))
      ∧ (inTime (w 0)).ctx.tokens[3] = 0 ∧ (inTime (w 0)).str.timed = true :=
  ⟨ready rfl, by decide, ready rfl, by decide, ready rfl, by decide, ready rfl, by decide, rfl, ready rfl, by decide, rfl⟩

/-- Counts 1023 and 1024; a live and a killed word; a cluster word with its window open and shut; a store that BARV waits for. -/
theorem witness_barriers :
    let s := withRegs [(1, 1023), (2, 1024)] (atReset .C)
    let live := fun (ph : BitVec 16) => { s with bars := [⟨3, true, ph, 2, 2⟩] }
    let opened : State := { withGroup s with core := { (withGroup s).core with domain := 2 }, winHold := [(0, 7)] }
    let opn := fun (b : BitVec 6) (u : State) => b.toNat < 48 ∨ winOpen u = true
    let busy := (atReset .A).mapCtx fun x => { x with acc := [aStore none] }
    let quiet := fun u : State => u.cur = .A → pendingIn 1 true u = []
    (Ready h0 false [useS 1] s ∧ opn 47 s ∧ ¬ opn 48 s ∧ opn 48 opened ∧ opn 63 opened ∧ (s.rs 1).toNat ≤ 1023 ∧ 1023 < (s.rs 2).toNat
      ∧ (s.rs 0).toNat ≤ 1023 ∧ s.rs 0 = 0 ∧ s.rs 1 ≠ 0 ∧ ¬ ((barOf 3 s).live = true ∨ biniTaken (barKey s.core.idx 3) s = true)
      ∧ ((barOf 3 (live 0)).live = true ∨ biniTaken (barKey s.core.idx 3) (live 0) = true))
    ∧ Ready h0 false [useS 1] (live 0) ∧ Ready h0 false [useS 2] s ∧ Ready h0 false [] (live 0) ∧ Ready h0 false [] (live 1) ∧ quiet (live 0)
    ∧ (barOf 3 (live 0)).phase = (live 0).str.tickets[3] ∧ (barOf 3 (live 1)).phase ≠ (live 1).str.tickets[3] ∧ (barOf 3 s).live = false
    ∧ Ready h0 false [] busy ∧ ¬ quiet busy ∧ Ready h0 false [] (inTime (live 0)) ∧ (live 0).str.timed = false ∧ (inTime (live 0)).str.timed = true :=
  ⟨⟨ready rfl, .inl (by decide), by unfold winOpen; decide, .inr rfl, .inr rfl, by decide, by decide, by decide, by decide, by decide, by decide, by decide⟩,
    ready rfl, ready rfl, ready rfl, ready rfl, nofun, by decide, by decide, by decide, ready rfl, by decide, ready rfl, rfl, rfl⟩

/-- A timed strand whose SEGB, SEGE and OPB are due alone, whose segment agrees with its count and signature, and whose does not. -/
theorem witness_segments :
    let one := fun (w e : W32) (c : Nat) => { atCycle c (inTime (withImage [w, e] 0 (atReset .C))) with plan := { Plan.empty with due := [⟨.C, w, e⟩], alive := [.C] } }
    let b := one 0x05600005 0 10
    let g : Segment := ⟨5, 0x05600005, crc32c [], [], false⟩
    let e := one 0x05800000 0 10
    let e1 : State := { e with core := { e.core with seg := some g } }
    let e2 : State := { e with core := { e.core with seg := some { g with ext := ~~~g.ext } } }
    let o := one 0x05C00000 0 10
    let two : State := { b with plan := { b.plan with alive := [.C, .A] } }
    let together := fun (p : Planned → Bool) (s : State) => ∀ st ∈ s.plan.alive, ∃ d ∈ s.plan.due, d.st = st ∧ p d = true
    let bare := fun (op : BitVec 7) (w : W32) => w.getLsbD 31 = false ∧ w.extractLsb' 21 7 = op ∧ w.extractLsb' 0 21 = 0
    let same := fun s : State => together (fun d => d.word = s.word && d.ext = s.extWord) s
    let count := fun (g : Segment) (s : State) => s.gcyc - g.start - s.core.slip
    (Ready h0 true [] b ∧ b.str.timed = true ∧ b.core.seg = none ∧ same b ∧ ¬ same two)
    ∧ (Ready h0 false [] e1 ∧ (∀ st ∈ e1.plan.alive, ∃ d ∈ e1.plan.due, d.st = st ∧ bare 0x2C d.word) ∧ e1.core.seg = some g ∧ g.start < e1.gcyc
      ∧ count g e1 = (g.word.extractLsb' 0 16).toNat ∧ crc32c g.sig = g.ext)
    ∧ (Ready h0 false [] e2 ∧ e2.core.seg = some { g with ext := ~~~g.ext } ∧ crc32c g.sig ≠ ~~~g.ext)
    ∧ Ready h0 false [] o ∧ o.core.seg = none ∧ pendingIn 3 true o = [] ∧ o.core.eng.wc = []
      ∧ (∀ st ∈ o.plan.alive, ∃ d ∈ o.plan.due, d.st = st ∧ bare 0x2E d.word) ∧ e1.core.seg ≠ none
      ∧ (let p : State := { o with plan := { o.plan with alive := [.C, .A] } }
        Ready h0 false [] p ∧ p.core.seg = none ∧ p.cur ≠ .A ∧ p.str.timed = true ∧ ¬ (∀ st ∈ p.plan.alive, ∃ d ∈ p.plan.due, d.st = st ∧ bare 0x2E d.word)) :=
  ⟨⟨ready rfl, rfl, rfl, by decide, by decide⟩, ⟨ready rfl, by decide, rfl, by decide, by decide, rfl⟩, ⟨ready rfl, rfl, by decide⟩,
    ready rfl, rfl, rfl, rfl, by decide, by decide, ready rfl, rfl, by decide, rfl, by decide⟩

/-- A live word with one arrival to come, with two, and a word that is not live; a channel with 7 tokens. -/
theorem witness_staged_updates :
    let s := { atReset .C with bars := [⟨3, true, 9, 1, 2⟩, ⟨4, true, 9, 2, 2⟩], staged := [.rot 0 false .C] }
    (s.bar 3).live = true ∧ (s.bar 3).pend ≤ 1 ∧ (s.bar 4).live = true ∧ 1 < (s.bar 4).pend ∧ (s.bar 5).live = false ∧ (1 : Word) ≠ 0 ∧ 15 < 16
      ∧ (s.mapCtx fun x => { x with tokens := x.tokens.set 2 7 }).ctx.tokens[(2 : Fin 16)] < 8 ∧ s.staged = [.rot 0 false .C] :=
  ⟨by decide, by decide, by decide, by decide, by decide, by decide, by decide, by decide, rfl⟩

/-- The last 8 bytes of LOCAL space, a REMOTE store through a valid window, and a GLOBAL load whose page is not in the stream TLB. -/
theorem witness_accesses_enter :
    let s := withRegs [(1, localAt (localSize 0 - 8)), (2, 0x5000000000000000), (3, 0x1000)] (atReset .A)
    let form := fun i => (accessForm i).map fun x => (x.1, x.2.1, x.2.2.1)
    let ld := plainReq (.load (.scalar 8 true)) (.load true) 8 8 (rriPtr ⟨4, 1, false, 0⟩ 8 s) [] (some (.scalar, 4))
    let g := withGroup s
    let w : State := { g with
      core := { g.core with domain := 8 }, windows := s.windows.set 0 { Window.idle with valid := true, launch := 7, size := 8, allow := 32, left := 32 } }
    let st := plainReq .store .store 8 8 (rriPtr ⟨4, 2, false, 0⟩ 8 w) (leBytes 8 (w.rs 4).toNat) none
    let r := withVf (fun v => { v with root := some 0 }) s
    let gl := plainReq (.load (.scalar 8 true)) (.load true) 8 8 (rriPtr ⟨4, 3, false, 0⟩ 8 r) [] (some (.scalar, 4))
    form (.ldD h0 ⟨4, 1, false, 0⟩) = some (h0, false, [useS 1]) ∧ form (.stD h0 ⟨4, 2, false, 0⟩) = some (h0, false, [useS 4, useS 2])
      ∧ Ready h0 false [useS 1] s ∧ QuietUnit s ∧ LatchFree 0 s ∧ ld.space ≠ 0 ∧ Admitted ld s
      ∧ Ready h0 false [useS 4, useS 2] w ∧ QuietUnit w ∧ st.space = 5 ∧ Admitted st w
      ∧ Ready h0 false [useS 3] r ∧ QuietUnit r ∧ gl.space = 0 ∧ accessCheck gl r = none ∧ allInTlb (gl.access r) r = false :=
  ⟨rfl, rfl, ready rfl, quiet rfl, latchFree rfl (by decide), by decide, admitted rfl, ready rfl, quiet rfl, by decide, admitted rfl, ready rfl, quiet rfl, by decide, rfl, rfl⟩

/-- One pointer of each space with a row in R191. -/
theorem witness_access_timing :
    ptrSpace 0x2000000000000000 = 2 ∧ ptrSpace 0x3000000000000000 = 3 ∧ ptrSpace 0x1000000000000000 = 1 ∧ ptrSpace 0x4000000000000000 = 4
      ∧ ptrSpace 0x5000000000000000 = 5 ∧ (plainReq .store .store 8 8 (localAt 0) [] none).ptrs ≠ [] :=
  ⟨by decide, by decide, by decide, by decide, by decide, by decide⟩

/-- A pointer that fails each step of R99 and none before it: not canonical, misaligned, past the end, of a space that the form does not
take, GLOBAL in timed mode; and a live barrier word under a store. -/
theorem witness_access_faults :
    let s := atReset .A
    let st := fun p : Word => plainReq .store .store 8 8 p [] none
    let own := withVf (fun v => { v with pairs := [0] }) { s with bars := [⟨3, true, 0, 2, 2⟩] }
    let past := fun p : Word => (∃ z, spaceSize p s = some z ∧ z < ptrOff p + 8)
    (∀ p, accessForm (.stD h0 ⟨4, 2, false, 0⟩) = some (h0, false, [useS 4, useS 2], fun s => { plainReq .store .store 8 8 (rriPtr ⟨4, 2, false, 0⟩ 8 s)
        (leBytes 8 (s.rs 4).toNat) none with merge := true }) ∧ (st p).ptrs = [p])
      ∧ Ready h0 false [useS 4, useS 2] s ∧ s.ctx.gate.acq = [] ∧ (∀ p, Released (st p) s)
      ∧ canonical 0x2001000000000000 = false ∧ canonical (localAt 4) = true ∧ ptrOff (localAt 4) % 8 ≠ 0
      ∧ canonical (localAt (localSize 0)) = true ∧ ptrOff (localAt (localSize 0)) % 8 = 0 ∧ past (localAt (localSize 0))
      ∧ canonical 0x7000000000000000 = true ∧ ¬ past 0x7000000000000000 ∧ admission .store 8 0x7000000000000000 s = some 0x07
      ∧ canonical 0 = true ∧ ¬ past 0 ∧ admission .store 8 0 (inTime s) = none ∧ (inTime s).str.timed = true ∧ ptrSpace 0 = 0
      ∧ ptrSpace 0x6000000000000018 = 6 ∧ placeOk 0x6000000000000018 own = true ∧ liveUnder 0x6000000000000018 8 own = true :=
  ⟨fun _ => ⟨rfl, rfl⟩, ready rfl, rfl, fun _ e => absurd e Bool.false_ne_true, by decide, by decide, by decide, by decide, by decide, ⟨_, rfl, by decide⟩,
    by decide, by rintro ⟨z, e, l⟩; cases e; revert l; decide, by decide, by decide, by rintro ⟨z, e, l⟩; cases e; revert l; decide, by decide, rfl,
    by decide, by decide, by decide, by decide⟩

/-- A pending access that performs now: each kind of R191's rows, with its bytes. -/
theorem witness_accesses_perform :
    let a := aStore (some 0)
    let s := fun a : Access => (atReset .A).mapCtx fun x => { x with acc := [a] }
    let far := { a with kind := .store, data := List.replicate 512 1, pieces := [(2 ^ 40, 512)] }
    let kinds := [a, { a with kind := .load (.scalar 8 true), data := [] }, { a with kind := .load .vector, pieces := [(2 ^ 40, 512)] },
      { a with kind := .load (.bcast 4), pieces := [(2 ^ 40, 4)] }, { a with kind := .atomic .add 8 1 }, { a with kind := .cas 4 0 1, pieces := [(2 ^ 40, 4)] },
      { a with kind := .post 63, pieces := [(0, 8)] }, { a with kind := .load (.scalar 8 true), ptr := 0x6000000000000018 }, far]
    (∀ b ∈ kinds, (s b).core.idx = 0 ∧ (s b).access 5 = some b ∧ b.id = 5 ∧ b.p = some (s b).gcyc ∧ b.done = false ∧ b.global = false
        ∧ Memory.wf (s b).mem = true ∧ (s b).soft = [] ∧ (s b).bad = [] ∧ b.copies = [0])
      ∧ (∀ o y, a.kind ≠ .streamRead o y) ∧ a.kind = .store ∧ ptrSpace a.ptr < 5 ∧ ptrSpace a.ptr ≠ 4 ∧ a.data.length = 8 * a.pieces.length
      ∧ (∀ y ∈ a.pieces, y.2 = 8) ∧ a.pieces.Pairwise (fun y z => y.1 + 8 ≤ z.1 ∨ z.1 + 8 ≤ y.1) ∧ far.data.length = 512 * far.pieces.length :=
  ⟨by decide, nofun, rfl, by decide, by decide, by decide, by decide, by decide, by decide⟩

/-- The state with a page of 1 GiB for VF 0, from VA 0 to PA 2^30, readable, writable and pinned; its raw entry. -/
def aPage : Word := 0x4000001F
def paged (s : State) : State := { withVf (fun v => { v with root := some 0 }) s with mem := [(0, 0x1F), (3, 0x40)] }

/-- A GLOBAL load, a store, and one of a sealed page, alone in the queue; the read of a unit whose tag fails. -/
theorem witness_accesses_perform_global :
    let a := { aStore (some 0) with ptr := 0x1000, pieces := [(2 ^ 30 + 0x1000, 8)], ptes := [aPage] }
    let s := fun a : Access => (atReset .A).mapCtx fun x => { x with acc := [a] }
    let sealed : Word := 0x0100000000000000
    (∀ b ∈ [a, { a with kind := .load (.scalar 8 true), data := [] }, { a with ptes := [sealed] }],
        (s b).core.idx = 0 ∧ (s b).ctx.acc = [b] ∧ b.id = 5 ∧ b.p = some (s b).gcyc ∧ b.done = false ∧ ptrSpace b.ptr = 0 ∧ Memory.wf (s b).mem = true
          ∧ (s b).soft = [] ∧ (s b).bad = [] ∧ (s b).core.eng.wc = [] ∧ b.fwd = [] ∧ b.copies = [0] ∧ b.pieces = [(2 ^ 30 + 0x1000, 8)])
      ∧ (pteKey aPage = 0 ∧ pteCmp aPage = false ∧ pteKey sealed ≠ 0 ∧ unitRead sealed ((2 ^ 30 + 0x1000) / 256) (s a) = none)
      ∧ (s a).core.deferred = none ∧ (s a).svc.viral = false ∧ ((s a).vf (pteVf aPage)).dirty = none ∧ a.data.length = 8
      ∧ (2 ^ 30 + 0x1000 + 8 - 1) / 256 = (2 ^ 30 + 0x1000) / 256 ∧ (s a).core.wcwait ≠ 0 :=
  ⟨by decide, ⟨by decide, by decide, by decide, rfl⟩, rfl, rfl, by decide, rfl, by decide, by decide⟩

/-- An idle unit, a gate with a pending access, an acquire within scope, and a release behind a pending access. -/
theorem witness_ordering :
    let s := atReset .A
    let w := fun g : Gate => s.mapCtx fun x => { x with acc := [aStore none], gate := g }
    Ready h0 false [] s ∧ ¬ Ungated (w ⟨[5], [], 0⟩) ∧ Ungated (w ⟨[], [(5, 0)], 0⟩) ∧ Ready h0 false [] (w ⟨[], [(5, 0)], 0⟩)
      ∧ (∃ g ∈ (w ⟨[], [(5, 0)], 0⟩).ctx.gate.acq, (aStore none).scope 0 ≤ g.2.toNat ∧ (w ⟨[], [(5, 0)], 0⟩).pendingId g.1 = true)
      ∧ ¬ Released { plainReq .store .store 8 8 (localAt 0) [] none with rel := true, scope := 0 } (w ⟨[], [], 0⟩) :=
  ⟨ready rfl, fun u => absurd ((u rfl).1 5 (List.mem_singleton.2 rfl)) (by decide), ungated rfl, ready rfl, ⟨(5, 0), List.mem_singleton.2 rfl, by decide, by decide⟩,
    fun r => absurd (r rfl).1 (by decide)⟩

/-- A GLOBAL pointer, one that is not canonical, and one of another space; both modes. -/
theorem witness_translations :
    let s := atReset .A
    Ready h0 false [useS 1] s ∧ Ready h0 false [useS 1] (inTime s) ∧ Ready h0 false [] s ∧ Ready h0 false [] (inTime s)
      ∧ Ready h0 false [useS 1, useS 2] s ∧ s.str.timed = false ∧ (inTime s).str.timed = true
      ∧ canonical 0x0001000000000000 = false ∧ (canonical 0x1000 = true ∧ ptrSpace 0x1000 = 0) ∧ (canonical (localAt 0) = true ∧ ptrSpace (localAt 0) ≠ 0)
      ∧ walk (paged s) (paged s).vfOf 0x1000 = .found ⟨aPage, 0, 2 ^ 30⟩ ∧ 0x1000 + 256 ≤ 0 + 2 ^ 30 ∧ (paged s).core.tlbA = [] :=
  ⟨ready rfl, ready rfl, ready rfl, ready rfl, ready rfl, rfl, rfl, by decide, by decide, by decide, by decide, by decide, rfl⟩

/-- The state in which strand A copies 256 bytes from LOCAL to LOCAL, and one of its commands. -/
def copying : State := withRegs [(4, localAt 4096), (10, localAt 0), (11, 256)] (atReset .A)
def aCopy : CopyCmd := makeCopy 0 ⟨4, 10, 11, 0, 1⟩ copying

theorem witness_copy_accepts :
    let s := copying
    let us := [useS 4, useS 10, useS 11]
    let full := s.mapEng fun e => { e with copyBuf := List.replicate 32 aCopy }
    let long := withRegs [(11, 0x4000001)] s
    let delta := fun (t : W32) => (s.stamp t - BitVec.ofNat 32 s.gcyc).toNat
    Ready h0 true us s ∧ Ready h0 true us (inTime s) ∧ s.ctx.gate.acq = [] ∧ copyFault 0 (s.rs 4) (s.rs 10) (s.rs 11) s = none ∧ s.core.eng.copyBuf.length < 32
      ∧ (1 ≤ delta 1 ∧ delta 1 < 2 ^ 31) ∧ ¬ (1 ≤ delta 0 ∧ delta 0 < 2 ^ 31)
      ∧ Ready h0 true us full ∧ 32 ≤ full.core.eng.copyBuf.length ∧ copyFault 0 (full.rs 4) (full.rs 10) (full.rs 11) full = none
      ∧ Ready h0 true us long ∧ ptrSpace (long.rs 4) ≠ 6 ∧ 2 ^ 26 < (long.rs 11).toNat % 2 ^ 32
      ∧ copyFault 0 (long.rs 4) (long.rs 10) (long.rs 11) long = some (0x07, long.rs 11) ∧ ptrSpace 0x6000000000000000 = 6 :=
  ⟨ready rfl, ready rfl, rfl, rfl, by decide, by decide, by decide, ready rfl, by decide, rfl, ready rfl, by decide, by decide, rfl, by decide⟩

/-- A record of an agent waits for room. -/
def waiting (agent : Nat) (s : State) : State := s.mapEng fun e => { e with recWait := [mkRec s 0x18 0 1 agent 0 false 0] }

/-- A command due, early, late in timed mode, without its token; and one at each stage of its run. -/
theorem witness_copy_engine :
    let s := fun (c : CopyCmd) (n : Nat) => atCycle n (copying.mapEng fun e => { e with copyBuf := [c] })
    let r := fun (c : CopyCmd) (n : Nat) => atCycle n (copying.mapEng fun e => { e with copyRun := [c] })
    let near := fun p : Word => 1 ≤ ptrSpace p ∧ ptrSpace p ≤ 3
    let b : CopyBeat := ⟨0, 20, (List.replicate 128 (1 : Byte)).map some⟩
    let run := { aCopy with start := 1, readAt := 12 }
    (s aCopy 0).gcyc < aCopy.target ∧ aCopy.target ≤ (s aCopy 1).gcyc ∧ (s aCopy 1).core.eng.copyRun = []
      ∧ (∃ r ∈ (waiting 2 (s aCopy 1)).core.eng.recWait, r.w1.extractLsb' 34 4 = 2) ∧ (s aCopy 1).core.eng.recWait = []
      ∧ tokensThere (s aCopy 1).ctx.tokens (specPops aCopy.spec) = true ∧ tokensThere (s aCopy 1).ctx.tokens (specPops (some 0x80000)) = false
      ∧ (s { aCopy with timed := true } 2).gcyc > aCopy.target
      ∧ ((r run 12).core.eng.copyRun = [run] ∧ run.halted = none ∧ run.kind = 0 ∧ near run.src ∧ near run.dst ∧ run.read < run.beats ∧ run.readAt ≤ (r run 12).gcyc
        ∧ run.bad = [] ∧ run.old = [] ∧ (r run 12).soft = [] ∧ (r run 12).bad = [] ∧ run.copies = [0] ∧ run.ovl = none ∧ b.due ≤ 20)
      ∧ (aCopy.hurt = false ∧ { aCopy with hurt := true }.hurt = true ∧ run.walk = none ∧ { run with walk := some (false, 0, 0, 65536) }.walk ≠ none
        ∧ (((r run 12).mapCtx fun x => { x with handler := .running }).ctxNum run.second).inHandler 12 = true)
      ∧ run.beats ≤ { run with wrote := 2 }.wrote ∧ (∃ e ∈ [WcEntry.mk 1 0 [(256, 1)] 5 true none [7] 0 false], 7 ∈ e.cmds) :=
  ⟨by decide, by decide, rfl, ⟨_, List.mem_singleton.2 rfl, by decide⟩, rfl, by decide, by decide, by decide, by decide,
    ⟨rfl, rfl, rfl, by decide, by decide⟩, by decide, ⟨_, List.mem_singleton.2 rfl, by decide⟩⟩

/-- The beats of the other copies: a COPYT of one row, a COPYK that decodes and one that codes, to and from a page, a multicast of two members,
and a post through a window with its allowance. -/
theorem witness_copy_beats :
    let run := { aCopy with start := 1, readAt := 12 }
    let at_ := fun c : CopyCmd => ((c.dstAt : Int) + (beatSpan c 0).2.2.1).toNat
    let box := { run with kind := 1, map := [(128, 1)], esz := 128, beats := 1 }
    let coded := { run with kind := 2, ctl := 0x12000, beats := 1 }
    let from_ := { run with src := 0x1000, srcAt := 0x1000, beats := 1 }
    let into := { run with dst := 0x1000, dstAt := 0x1000, beats := 1, read := 1, buf := [⟨0, 20, (List.replicate 128 (1 : Byte)).map some⟩] }
    let cast := { into with dst := 0x4000000000001000, copies := [2 ^ 40, 2 ^ 40 + 2 ^ 21] }
    let post := { into with dst := 0x5000000000000000, dstAt := 0 }
    let s := atCycle 20 (paged copying)
    let w := s.setWindow 0 { Window.idle with valid := true, allow := 160, left := 160 }
    let near := fun p : Word => 1 ≤ ptrSpace p ∧ ptrSpace p ≤ 3
    (∀ c ∈ [box, coded, from_], c.halted = none ∧ c.walk = none ∧ c.read < c.beats ∧ c.readAt ≤ s.gcyc ∧ c.bad = [] ∧ c.old = [] ∧ near c.dst)
      ∧ (near box.src ∧ near coded.src ∧ 0 < (beatSpan coded 0).2.1 ∧ box.kind = 1 ∧ coded.kind = 2 ∧ from_.kind ≤ 1 ∧ ptrSpace from_.src = 0 ∧ from_.head = [])
      ∧ (s.soft = [] ∧ s.bad = [] ∧ s.core.eng.wc = [] ∧ pteKey aPage = 0 ∧ pteCmp aPage = false)
      ∧ ((copyXlate from_ false 0x1000 128 s).1 = [(2 ^ 30 + 0x1000, 128, aPage)] ∧ (copyXlate from_ false 0x1000 128 s).2.1 = none)
      ∧ ((copyXlate into true (at_ into) 128 s).1 = [(2 ^ 30 + 0x1000, 128, aPage)] ∧ (copyXlate into true (at_ into) 128 s).2.1 = none ∧ ptrSpace into.dst = 0 ∧ into.part = 0
        ∧ (beatSpan into 0).2.2.2 = 128 ∧ s.svc.viral = false ∧ (s.vf (pteVf aPage)).dirty = none)
      ∧ (into.beats ≤ into.read ∧ into.ovl = none ∧ Memory.wf s.mem = true ∧ into.copies = [0])
      ∧ (ptrSpace cast.dst = 4 ∧ at_ cast + 128 ≤ localSize (s.coreAt 1).partw
        ∧ ∀ m ∈ cast.copies, ∀ n ∈ cast.copies, m = n ∨ m + at_ cast + 128 ≤ n + at_ cast ∨ n + at_ cast + 128 ≤ m + at_ cast)
      ∧ (ptrSpace post.dst = 5 ∧ ptrWin post.dst < 64 ∧ windowHolds 0 1 w = true ∧ 32 * ((128 + 16 + 31) / 32) + (postsBefore 0 w).2 ≤ (w.window 0).left)
      ∧ (coded.ctl.getLsbD 2 = false ∧ (let side := poolAddr 0 (copyErrt coded.ctl + 0)
        side < at_ coded ∨ at_ coded + copyPad coded.ctl ≤ side)) :=
  ⟨by decide, by decide, by decide, by decide, by decide, by decide, by decide, by decide, by decide⟩

/-- An open stream of one block of 64 bytes that drains 64 cycles after its start: a zero block, with its bytes in memory. -/
def aStream : Stream where
  handle := 9
  hva := 0
  start := 0
  rate := 16 * (64 + Config.streamLag 0)
  bcap := 65536
  total := 64 + Config.streamLag 0
  tt := [⟨false, 0, 64, 64⟩]
  pages := [⟨0x10000, 0, 65536⟩]
  next := 0
  gone := 0
  lastD := none
  taken := 0
  charged := true
  failed := false
  overrun := false
  integ := false
  corr := false
  late := false
  lates := []
  pc := 0
  vf := 0
  second := false

def anOloadS : OloadS := ⟨1, 15, 0, 64, 5, none, 0, false, none, false, false⟩

def withStream (x : Stream) (os : List OloadS) (s : State) : State := s.mapEng fun e => { e with stream := some x, olds := os }

/-- The last issue of STRM.STAT for an open stream and for another handle; a header whose page has no entry; a stamp that has passed. -/
theorem witness_stream_instructions :
    let s := withRegs [(1, 9)] (withStream aStream [] (atReset .A))
    let r := withVf (fun v => { v with root := some 0 }) (withRegs [(1, 64)] (atReset .A))
    let q := plainReq (.streamRead false 0) (.load false) 64 64 (r.rs 1) [] (some (.scalar, 4))
    let o := plainReq (.streamRead true 5) (.load false) 64 64 (r.rs 1) [] (some (.scalar, 4))
    Ready h0 false [useS 1] s ∧ s.ctx.gate.acq = [] ∧ s.core.eng.stream = some aStream ∧ aStream.handle = s.rs 1 ∧ aStream.handle ≠ s.rs 2
      ∧ aStream.lastD ≠ some s.gcyc ∧ aStream.next < 2 ^ 16
      ∧ Ready h0 false [useS 1] r ∧ QuietUnit r ∧ LatchFree 0 r ∧ strmChkCheck ⟨4, 1, false⟩ r = none ∧ allInTlb (q.access r) r = false
      ∧ Ready h0 true [useS 1] r ∧ (if stampPassed 5 r then some Stop.hold else strmOpenCheck ⟨4, 1, false, 5⟩ r) = none ∧ allInTlb (o.access r) r = false
      ∧ strmPtr (r.rs 1) r = none ∧ (0#32 - BitVec.ofNat 32 r.gcyc).toNat = 0 ∧ 2 ^ 31 ≤ (0x80000000#32 - BitVec.ofNat 32 r.gcyc).toNat
      ∧ canonical 0x0001000000000000 = false ∧ (canonical 32 = true ∧ ptrOff 32 % 64 ≠ 0) ∧ (canonical (localAt 0) = true ∧ ptrOff (localAt 0) % 64 = 0)
      ∧ (∀ z, spaceSize (localAt 0) r = some z → ptrOff (localAt 0) + 64 ≤ z) ∧ ptrSpace (localAt 0) ≠ 0 ∧ (inTime r).str.timed = true
      ∧ anOloadS.closed = false ∧ { anOloadS with closed := true }.closed = true :=
  ⟨ready rfl, rfl, rfl, by decide, by decide, nofun, by decide, ready rfl, quiet rfl, latchFree rfl (by decide), rfl, rfl, ready rfl, rfl, rfl, rfl, by decide,
    by decide, by decide, by decide, by decide, by rintro z e; cases e; decide, by decide, rfl, rfl, rfl⟩

/-- The drain of a block that has come and of one that has not; overflow; the end of the reservation; a late block; a finished OLOAD.S; and
headers with a wrong magic and a wrong CRC. -/
theorem witness_stream_events :
    let mem : List Host.Cell := [(65635, 1), (65636, 64), (65640, 7), (65660, 201), (65661, 54), (65662, 66), (65663, 64)]
    let s := { atCycle 64 (withStream aStream [anOloadS] (atReset .A)) with mem := mem }
    let credit := fun (x : Stream) (c : Nat) => min x.total (x.rate * (c - x.start) / 16)
    let runs := strmRuns aStream.pages (64 / 65536 + 2) (aStream.hva + strmP aStream.tt.length + (aStream.tt.take 0).foldl (fun m e => m + e.size) 0) 64
    let slow := { aStream with rate := 0 }
    let full := { aStream with rate := 16 * 65536, total := 2 ^ 20 }
    let ended := { anOloadS with ends := some 64, popped := true }
    let late := { aStream with next := 1, gone := 64, lates := [(0, 64, some anOloadS)] }
    let head := [0x42, 0x52, 0x54, 0x44, 1] ++ List.replicate 59 (0 : Byte)
    (s.core.idx = 0 ∧ s.core.eng.stream = some aStream ∧ Memory.wf s.mem = true ∧ s.soft = [])
      ∧ (credit aStream 64 = aStream.total ∧ aStream.charged = true ∧ credit slow 64 ≠ slow.total)
      ∧ (drainDue aStream [anOloadS] = some 64 ∧ aStream.tt[aStream.next]? = some ⟨false, 0, 64, 64⟩
        ∧ s.core.eng.olds.find? (fun o => o.block = aStream.next && o.ends.isNone) = some anOloadS ∧ anOloadS.x < 16)
      ∧ (aStream.gone + 64 ≤ credit aStream 64 - Config.streamLag s.fresh
        ∧ ∃ bs img, strmBytes runs s = .ok bs ∧ decodeStream aStream.next ⟨false, 0, 64, 64⟩ bs = some img)
      ∧ credit slow 64 - Config.streamLag s.fresh < slow.gone + 64
      ∧ (late.failed = false ∧ late.tt[0]? = some ⟨false, 0, 64, 64⟩ ∧ late.lates.find? (fun l => l.1 = 0 && decide (l.2.1 ≤ s.gcyc)) = some (0, 64, some anOloadS)
        ∧ (s.setSlot 15 { s.slot 15 with poison := some 0x0F }).slot 15 = { s.slot 15 with poison := some 0x0F })
      ∧ (full.failed = false ∧ full.start ≤ 0 + 1 ∧ full.bcap + full.gone < credit full 2 ∧ credit full 1 ≤ full.bcap + full.gone)
      ∧ ((withStream aStream [ended] (atReset .A)).core.eng.olds = [ended] ∧ ended.ends = some 64)
      ∧ (∃ r ∈ (waiting 3 s).core.eng.recWait, r.w1.extractLsb' 34 4 = 3) ∧ s.core.eng.recWait = [] ∧ anOloadS.popped = false
      ∧ ended.popped = true
      ∧ leNat (head.take 4) = 0x44545242 ∧ leNat ((head.drop 4).take 2) = 1 ∧ (crc32c (head.take 60 ++ [])).toNat ≠ leNat ((head.drop 60).take 4)
      ∧ leNat (([] : List Byte).take 4) ≠ 0x44545242 := by
  have c : min (64 + Config.streamLag 0) (16 * (64 + Config.streamLag 0) * (64 - 0) / 16) = 64 + Config.streamLag 0 := by omega
  refine ⟨⟨rfl, rfl, by decide, rfl⟩, ⟨c, rfl, ?_⟩, ⟨rfl, rfl, rfl, by decide⟩, ⟨?_, _, _, rfl, rfl⟩, ?_, ⟨rfl, rfl, rfl, rfl⟩,
    ⟨rfl, by decide, ?_, ?_⟩, ⟨rfl, rfl⟩, ⟨_, List.mem_singleton.2 rfl, by decide⟩, rfl, rfl, by decide, by decide, by decide, by decide, by decide⟩
  · show min (64 + Config.streamLag 0) (0 * (64 - 0) / 16) ≠ 64 + Config.streamLag 0
    omega
  · show 0 + 64 ≤ min (64 + Config.streamLag 0) (16 * (64 + Config.streamLag 0) * (64 - 0) / 16) - Config.streamLag 0
    omega
  · show min (64 + Config.streamLag 0) (0 * (64 - 0) / 16) - Config.streamLag 0 < 0 + 64
    omega
  · decide
  · decide

/-- A mailbox of VF 0 with 3 and with 4 queued actions, and with and without an observation. -/
theorem witness_mailbox_instructions :
    let w := fun (b : Mailbox) => withRegs [(1, 0x7000000000001000), (2, localAt 0)] { atReset .A with mboxes := [b] }
    let b := { Mailbox.idle 1 with on := true }
    let e : MbEntry := ⟨0, List.replicate 512 0, 0, false⟩
    (∃ j, j < 512 ∧ { w b with bad := [2 ^ 37 + 63] }.badAt (poolAddr 0 0 + j) 1 = true) ∧ (∀ j, (w b).badAt (poolAddr 0 0 + j) 1 = false)
      ∧ { e with bad := true }.bad = true ∧ e.bad = false
      ∧ ∀ n ∈ [3, 4], let c := { b with acts := List.replicate n e, obs := [e] }
      let s := w c
      s.mbox (ptrOff (s.rs 1) / 4096) = some c ∧ quietB s = true ∧ s.str.flights = [] ∧ readyB h0 false [useS 1, useS 2] s = true
        ∧ readyB h0 false [useS 1] s = true ∧ (mbxCheck (s.rs 1) (some (s.rs 2)) s).isNone = true ∧ c.obs = e :: [] ∧ b.obs = [] ∧ (c.acts.length < 4 ↔ n = 3) :=
  ⟨⟨511, by decide, by decide⟩, fun _ => rfl, rfl, rfl, by decide⟩

/-- A STEP without the pod, in free mode, at a stamp that has passed, inside a boundary, ahead of one, and due. -/
theorem witness_step_instruction :
    let s := atReset .A
    let p := { s with core := { s.core with domain := 8 } }
    let t := atCycle 100 (inTime p)
    let due := { t with pod := { t.pod with waiting := [(0, 100)], bounds := [100] } }
    let ahead := { t with pod := { t.pod with waiting := [(0, 101)], bounds := [100, 101] } }
    let inner := { t with pod := { t.pod with opened := [100] } }
    let delta := fun (st : W32) (s : State) => (st - BitVec.ofNat 32 s.gcyc).toNat
    Ready h0 true [useS 1] s ∧ s.core.domain.getLsbD 3 = false ∧ Ready h0 true [useS 1] p ∧ p.core.domain.getLsbD 3 = true ∧ p.str.timed = false
      ∧ Ready h0 true [useS 1] t ∧ t.str.timed = true ∧ delta 100 t = 0 ∧ (t.core.idx, t.gcyc) ∉ t.pod.waiting ∧ delta 99 t = 2 ^ 32 - 1
      ∧ (0 < delta 101 t ∧ delta 101 t < 2 ^ 31) ∧ (∀ x ∈ t.pod.opened, ¬ (x < t.gcyc + 1))
      ∧ Ready h0 true [useS 1] inner ∧ (∃ x ∈ inner.pod.opened, x < inner.gcyc + 1 ∧ inner.gcyc + 1 < x + 12288)
      ∧ Ready h0 true [useS 1] ahead ∧ (ahead.core.idx, ahead.gcyc + delta 101 ahead) ∈ ahead.pod.waiting
      ∧ Ready h0 true [useS 1] due ∧ (due.core.idx, due.gcyc) ∈ due.pod.waiting ∧ LatchFree 0 due :=
  ⟨ready rfl, by decide, ready rfl, by decide, rfl, ready rfl, rfl, by decide, by decide, by decide, by decide, by decide, ready rfl,
    ⟨100, List.mem_singleton.2 rfl, by decide, by decide⟩, ready rfl, by decide, ready rfl, by decide, latchFree rfl (by decide)⟩

/-- A tile command on slots 0 and 15 and accumulator 3, as MMA makes it; and its format word. -/
def aWord : BitVec 128 := 0x11000
def aTile : TileCmd where
  id := 4
  kind := 0
  z := 3
  x := 0
  y := 15
  fw := aWord
  spec := none
  pops := true
  second := false
  stamp := 5
  pc := 0
  timed := false
  target := 5
  start := none
  last := 0
  kfrom := 0
  acc1 := false
  redone := false
  resumes := none
  hurt := false

/-- The command that an image record for accumulator 3 names: slots 15 and 0 under the same format word. -/
def resumed : TileCmd := { aTile with id := 1, x := 15, y := 0, spec := some 0, pops := false, stamp := 0, target := 130, acc1 := true }

/-- With a slot of the pair's array owned. -/
def owning (o : Option Nat) (xs : List Nat) (s : State) : State := xs.foldl (fun s x => s.setSlot x { s.slot x with owner := o }) s

theorem witness_slots :
    let s := atReset .M
    let mine := owning (some 0) [15] s
    let theirs := owning (some 1) [15] s
    let busy := mine.mapCtx fun x => { x with tq := [aTile] }
    let owner := fun s : State => (s.slot 15).owner
    let named := fun s : State => (∃ c ∈ s.core.ctx.tq ++ s.core.shadow.tq, 15 ∈ c.reads) ∨ (∃ o ∈ s.core.eng.oloads, o.x = 15) ∨ ∃ o ∈ s.core.eng.olds, o.x = 15
    let cmds := fun s : State => [s.core, s.coreAt (s.core.idx ^^^ 1)].flatMap fun c => c.ctx.tq ++ c.shadow.tq
    (Ready h0 false [] s ∧ owner s = none ∧ Ready h0 false [] mine ∧ owner mine = some (mine.core.idx % 2) ∧ ¬ named mine
      ∧ Ready h0 false [] theirs ∧ owner theirs ≠ none ∧ owner theirs ≠ some (theirs.core.idx % 2))
    ∧ (Ready h0 false [] busy ∧ owner busy = some (busy.core.idx % 2) ∧ named busy ∧ busy.str.timed = false ∧ Ready h0 false [] (inTime busy))
    ∧ cmds s = [] ∧ (∀ c ∈ [s.core, s.coreAt (s.core.idx ^^^ 1)], c.eng.oloads = []) ∧ cmds busy = [aTile] ∧ (∀ c ∈ cmds busy, c.z ≠ 2) ∧ aTile.z = 3 ∧ s.core.eng.recWait = [] :=
  ⟨⟨ready rfl, rfl, ready rfl, rfl, by decide, ready rfl, by decide, by decide⟩,
    ⟨ready rfl, rfl, .inl ⟨aTile, List.mem_singleton.2 rfl, by decide⟩, rfl, ready rfl⟩, by decide, by decide, by decide, by decide, rfl, rfl⟩

/-- An OLOAD at the last bytes of LOCAL, a stream load at its stamp, drains at the first and past the last position, and an image that names
a command and one that does not. -/
theorem witness_matrix_loads :
    let s := owning (some 0) [0, 15] (withRegs [(2, localAt (localSize 0 - 512)), (3, localAt 0), (4, 0x10000), (5, 9)] (atReset .M))
    let o := withStream aStream [] s
    let b : State := { s with core := { s.core with partw := 8 } }
    let image : State := { s with mem := [(2 ^ 40 + 65537, 16), (2 ^ 40 + 65538, 1), (2 ^ 40 + 65552, 240)] }
    let img := fun u : State => imageCmd (u.peek (poolAddr u.core.idx (ptrOff (u.rs 3) + 65536)) 64) 3 u
    (Ready h0 true [useS 2] s ∧ (s.slot 15).owner = some (s.core.idx % 2) ∧ stepFault .localOnly 64 512 false (s.rs 2) s = none
      ∧ stepFault .localOnly 64 576 false (s.rs 2) s = some (3, 0x05) ∧ (∀ o ∈ s.core.eng.oloads, o.c + (o.len + 511) / 512 ≤ s.gcyc)
      ∧ tokensThere (takeTokens s.ctx.tokens (copyPops s)) (specPops none) = true ∧ s.core.eng.recWait = [] ∧ (s.slot 14).owner ≠ some (s.core.idx % 2))
    ∧ (Ready h0 true [useS 5] o ∧ o.core.eng.stream = some aStream ∧ aStream.handle = o.rs 5 ∧ strmNext aStream = some 0 ∧ aStream.failed = false
      ∧ 64#32 = BitVec.ofNat 32 (blockCycle aStream 0) ∧ stampPassed 64 (inTime o) = false ∧ o.core.eng.olds.length < 8
      ∧ tokensThere (chiselTokens o) (specPops none) = true ∧ aStream.handle ≠ o.rs 4)
    ∧ (Ready h0 false [useS 1] b ∧ (b.rs 1).toNat % 2 ^ 32 % 65536 = 0 ∧ (b.rs 1).toNat % 2 ^ 32 < 65536 * partRB4 b.core.partw
      ∧ (∀ c ∈ b.pairCmds, c.z ≠ 3) ∧ Ready h0 false [useS 4] b ∧ (b.rs 4).toNat % 2 ^ 32 % 65536 = 0 ∧ ¬ (b.rs 4).toNat % 2 ^ 32 < 65536 * partRB4 b.core.partw
      ∧ b.core.eng.recWait = [] ∧ tokensThere (takeTokens b.ctx.tokens (copyPops b)) (specPops none) = true ∧ (b.rs 5).toNat % 2 ^ 32 % 65536 ≠ 0)
    ∧ Ready h0 false [useS 3] image ∧ image.str.timed = false ∧ stepFault .localOnly 64 65600 false (image.rs 3) image = none
      ∧ image.badAt (poolAddr image.core.idx (ptrOff (image.rs 3) + 65536)) 64 = false ∧ image.core.eng.recWait = []
      ∧ img image = some resumed ∧ (∀ x ∈ resumed.reads, (image.slot x).owner = some (image.core.idx % 2))
      ∧ modeAdmits image = true ∧ image.ctx.tq.length < 4
      ∧ { image with bad := [(2 ^ 40 + 65536) / 8] }.badAt (poolAddr image.core.idx (ptrOff (image.rs 3) + 65536)) 64 = true
      ∧ (∃ r ∈ (waiting 4 image).core.eng.recWait, r.w1.extractLsb' 34 4 = 4) ∧ Ready h0 false [useS 3] s ∧ img s = none ∧ Ready h0 false [useS 3] (inTime s) :=
  ⟨⟨ready rfl, by decide, by decide, by decide, by decide, by decide, rfl, by decide⟩,
    ⟨ready rfl, rfl, by decide, by decide, rfl, by decide, by decide, by decide, by decide, by decide⟩,
    ⟨ready rfl, by decide, by decide, by decide, ready rfl, by decide, by decide, rfl, by decide, by decide⟩,
    ready rfl, rfl, by decide, rfl, rfl, by decide, by decide, by decide, by decide, by decide, ⟨_, List.mem_singleton.2 rfl, by decide⟩, ready rfl, by decide, ready rfl⟩

/-- An OLOAD while beats of another are to come and while a record waits, and one without its token; stream loads at another stamp, past the stamp,
with eight waiting, without a token, and of a failed stream; a drain of an accumulator with a command; and a resume in a mode of the other half,
with a full queue, and with a pointer that fails a step. -/
theorem witness_matrix_refusals :
    let s := owning (some 0) [0, 15] (withRegs [(2, localAt 0), (5, 9), (25, 0x80000)] (atReset .M))
    let loading := s.mapEng fun e => { e with oloads := [⟨1, 0, false, 15, 2 ^ 40, 1024, 0, none, 0, []⟩] }
    let o := withStream aStream [] s
    let eight := withStream aStream (List.replicate 8 anOloadS) s
    let failed := withStream { aStream with failed := true } [] s
    let busy : State := { (s.mapCtx fun x => { x with tq := [aTile] }) with core := { (s.mapCtx fun x => { x with tq := [aTile] }).core with partw := 8 } }
    let spec := some (s.rs 25)
    (Ready h0 true [useS 2] loading ∧ stepFault .localOnly 64 1024 false (loading.rs 2) loading = none
      ∧ (∃ o ∈ loading.core.eng.oloads, loading.gcyc < o.c + (o.len + 511) / 512) ∧ Ready h0 true [useS 2, useS 25] s
      ∧ tokensThere (takeTokens s.ctx.tokens (copyPops s)) (specPops spec) = false)
    ∧ (Ready h0 true [useS 5] o ∧ (65#32 ≠ BitVec.ofNat 32 (blockCycle aStream 0)) ∧ stampPassed 64 (inTime (atCycle 64 o)) = true
      ∧ Ready h0 true [useS 5] eight ∧ 8 ≤ eight.core.eng.olds.length ∧ Ready h0 true [useS 5, useS 25] o ∧ tokensThere (chiselTokens o) (specPops spec) = false
      ∧ Ready h0 true [useS 5] failed ∧ strmNext { aStream with failed := true } = some 0)
    ∧ (Ready h0 false [useS 1] busy ∧ (∃ c ∈ busy.pairCmds, c.z = 3) ∧ (busy.rs 1).toNat % 2 ^ 32 < 65536 * partRB4 busy.core.partw)
    ∧ modeAdmits (s.mapArr fun a => { a with mmode := 1 }) = false ∧ 4 ≤ (s.mapCtx fun x => { x with tq := List.replicate 4 aTile }).ctx.tq.length
    ∧ (∃ c, stepFault .localOnly 64 65600 false 8 s = some c) :=
  ⟨⟨ready rfl, by decide, ⟨_, List.mem_singleton.2 rfl, by decide⟩, ready rfl, by decide⟩,
    ⟨ready rfl, by decide, by decide, ready rfl, by decide, ready rfl, by decide, ready rfl, by decide⟩,
    ⟨ready rfl, ⟨aTile, by decide, rfl⟩, by decide⟩, by decide, by decide, ⟨_, rfl⟩⟩

/-- A queue of format words that is empty, invalid for the kind, and valid; slots that are and are not claimed; a mode that admits the half
and one that does not; stamps ahead and passed; a full command queue. -/
theorem witness_tile_commands :
    let q := fun ws : List (BitVec 128) => owning (some 0) [0, 15] ((atReset .M).mapCtx fun x => { x with fq := ws })
    let s := q [aWord]
    let mine := fun (x : Nat) => (s.slot x).owner = some (s.core.idx % 2)
    let other := s.mapArr fun a => { a with mmode := 1 }
    let full := s.mapCtx fun x => { x with tq := List.replicate 4 aTile }
    let admitted := fun s : State => modeAdmits s = true ∧ belongs s.arr.mmode s.half (tileTarget 5 s) = true
    let delta := fun t : W32 => (s.stamp t - BitVec.ofNat 32 s.gcyc).toNat
    Ready h0 true [] (q []) ∧ (q []).ctx.fq = [] ∧ Ready h0 true [] s ∧ s.ctx.fq = aWord :: [] ∧ fwValid 1 aWord = false ∧ fwValid 0 aWord = true
      ∧ fwValid 1 0xD1000 = true ∧ mine 0 ∧ mine 15 ∧ ¬ mine 1 ∧ aWord.getLsbD 6 = false ∧ aWord.getLsbD 11 = false ∧ admitted s ∧ Ready h0 true [] other
      ∧ ¬ admitted other ∧ Ready h0 true [] (inTime s) ∧ (1 ≤ delta 5 ∧ delta 5 < 2 ^ 31) ∧ ¬ (1 ≤ delta 0 ∧ delta 0 < 2 ^ 31)
      ∧ Ready h0 true [] full ∧ 4 ≤ full.ctx.tq.length ∧ s.ctx.tq.length < 4 ∧ admitted full ∧ s.core.eng.retained.length < 16
      ∧ Ready h0 false [] s ∧ s.ctx.fq.length ≤ 16 ∧ s.ctx.tq.length ≤ 4 ∧ kdone s ≤ 128 :=
  ⟨ready rfl, rfl, ready rfl, rfl, by decide, by decide, by decide, by decide, by decide, by decide, by decide, by decide, by decide, ready rfl, by decide,
    ready rfl, by decide, by decide, ready rfl, by decide, by decide, by decide, by decide, ready rfl, by decide, by decide, by decide⟩

/-- A command before its target, at it with its slots ready, and at it with a poisoned slot; a load, a drain, a resume and a stop at each end. -/
theorem witness_matrix_events :
    let s := fun (n : Nat) => atCycle n ((atReset .M).mapCtx fun x => { x with tq := [aTile] })
    let bad := (s 5).setSlot 15 { (s 5).slot 15 with poison := some 0x0F }
    let o : OloadOp := ⟨1, 0, false, 15, 2 ^ 40, 64, 0, none, 0, []⟩
    let run : TileRun := ⟨0, { aTile with start := some 0 }, [], [], [], [], none, none, false, none, false, false⟩
    let f := (s 6).mapEng fun e => { e with aflt := [(6, 0x0F, aTile)] }
    let open_ := { f.setStr { f.str with timed := true } with core := { (f.setStr { f.str with timed := true }).core with
      seg := some ⟨0, 0x10000, 0, [], false⟩, eng := { f.core.eng with retained := [.tile aTile], retOver := false } } }
    let stopping := (s 6).mapEng fun e => { e with stop := some (6, 0, aTile) }
    let imaging := fun img : List Byte => (s 6).mapEng fun e => { e with stop := some (134, 16, run.cmd), img := img }
    (f.core.eng.redo = [] ∧ f.core.eng.aflt = [(f.gcyc, 0x0F, aTile)] ∧ f.arr.runs = [] ∧ f.ctx.m.timed = false ∧ aTile.second = f.core.second
        ∧ f.core.deferred = none)
      ∧ (open_.core.eng.aflt = [(open_.gcyc, 0x0F, aTile)] ∧ open_.ctx.m.timed = true ∧ (open_.gcyc - 5) + open_.core.slip ≤ 32 * ((0x10000 : W32).extractLsb' 16 5).toNat
        ∧ open_.core.eng.retOver = false ∧ RetCmd.tile aTile ∈ open_.core.eng.retained ∧ (open_.core.eng.retained.head?.map RetCmd.cycle) = some 5
        ∧ windowReads open_.core.eng.retained [] = true ∧ redoRuns open_ = false ∧ aTile.redone = false ∧ open_.arr.mmode = 0)
      ∧ ({ run with flt := some 5 }.flt = some 5 ∧ run.half = f.half ∧ 5 + 1 = f.gcyc)
      ∧ ((s 6).mapEng fun e => { e with redo := [(6, .mzero 3 6, none, 0)] }).core.eng.redo = [((s 6).gcyc, .mzero 3 6, none, 0)]
      ∧ (stopping.core.eng.stop = some (6, 0, aTile) ∧ 6 ≤ stopping.gcyc ∧ run.cmd.id = aTile.id ∧ stopping.core.second = aTile.second)
      ∧ ((imaging []).core.eng.stop = some (134, 16, run.cmd) ∧ (imaging []).gcyc + 128 = 134 ∧ (atCycle 7 (imaging [1])).gcyc + 128 = 134 + 1
        ∧ (imaging [1]).core.eng.img ≠ [] ∧ { run with upTo := some 16 }.upTo = some 16 ∧ stopping.gcyc + 128 ≥ 6 ∧ (s 5).gcyc + 128 < 134)
      ∧ (aTile.hurt = false ∧ { aTile with hurt := true }.hurt = true ∧ (∀ q ∈ (s 5).arr.runs, q.away = true → aTile.resumes ≠ some q.cmd.id)
        ∧ tokensThere (s 5).ctx.tokens (specPops (some 0x80000)) = false ∧ (∀ r ∈ f.arr.runs, r.finished = false))
      ∧ ((s 0).core.shadow.handler ≠ .switched (s 0).gcyc ∧ (OloadOp.mk 1 0 false 15 0 64 4 none 0 []).c = (s 4).gcyc ∧ (DrainOp.mk 1 0 false 3 0 4 none []).c = (s 4).gcyc)
      ∧ (s 0).core.idx = 0 ∧ Memory.wf (s 0).mem = true ∧ (s 0).soft = [] ∧ (s 0).bad = [] ∧ (s 0).core.eng.stop = none ∧ (s 0).ctx.tq = [aTile] ∧ aTile.start = none
      ∧ aTile.second = (s 0).core.second ∧ (s 4).gcyc < aTile.target ∧ aTile.target ≤ (s 5).gcyc
      ∧ (∀ x ∈ aTile.reads, ((s 5).slot x).poison = none ∧ ((s 5).slot x).ready ≤ (s 5).gcyc) ∧ freeFrom (s 5) ≤ (s 5).gcyc
      ∧ tokensThere (s 5).ctx.tokens (specPops aTile.spec) = true ∧ aTile.pops = true ∧ belongs (s 5).arr.mmode (s 5).half (s 5).gcyc = true
      ∧ poisonOf aTile bad = some 0x0F ∧ (s 5).core.eng.recWait = [] ∧ run.cmd.id = 4 ∧ run.spoil = none ∧ run.finished = false ∧ run.away = false ∧ run.given = false ∧ run.upTo = none
      ∧ (o.done < (o.len + 511) / 512 ∧ (s 1).gcyc = o.c + 1 + o.done)
      ∧ (o.c + (o.len + 511) / 512 + 3 ≤ (s 4).gcyc ∧ { o with bytes := List.replicate 64 1, done := 1 }.bytes.length = o.len ∧ o.len ≤ 32768)
      ∧ (s 0).gcyc < 0 + 129 ∧ 0 + 129 ≤ (s 129).gcyc ∧ (s 0).core.eng.redo = [] ∧ (∀ r ∈ (s 0).arr.runs, r.flt = none) ∧ (List.replicate 65536 (0 : Byte)).length = 65536 :=
  ⟨by decide, by decide, by decide, by decide, by decide, by decide, by decide, by decide, rfl, rfl, rfl, rfl, rfl, rfl, rfl, rfl, by decide, by decide, by decide, by decide, by decide, rfl,
    by decide, by decide, rfl, rfl, rfl, rfl, rfl, rfl, rfl, by decide, by decide, by decide, by decide, rfl, by decide, List.length_replicate⟩

/-- A timed command at its target, and one whose target has passed; a run before its completion; and a run whose tile sum is taken: i8 elements
with scales, and steps from 0 to 16 of K. -/
theorem witness_matrix_sums :
    let s := fun (n : Nat) => atCycle n ((atReset .M).mapCtx fun x => { x with tq := [{ aTile with timed := true }] })
    let run : TileRun := ⟨0, { aTile with start := some 0 }, [], [], [], [], none, none, false, none, false, false⟩
    ((s 5).gcyc = aTile.target ∧ aTile.target < (s 6).gcyc ∧ poisonOf aTile (s 6) = none ∧ (s 6).core.eng.stopped = none)
      ∧ 0 < run.cmd.last + 12 ∧ run.cmd.kfrom ≤ 16 ∧ typeWidth 13 ≤ 16 ∧ typeWidth (run.cmd.fw.extractLsb' 12 4).toNat ≤ 16
      ∧ typeWidth (run.cmd.fw.extractLsb' 16 4).toNat ≤ 16 :=
  ⟨by decide, by decide, by decide, by decide, by decide, by decide⟩

/-- Strand V at an instruction, with 15 vector registers in flight over 8 latches less one. -/
def inV : State := atReset .V
def nearlyFull : State := withFlights [⟨.vector, List.replicate 15 ⟨1, 0, 0⟩, some 9, 0, true, false, false, none, 0, none⟩] inV

theorem witness_vector_integers : Ready h0 false [useV 1, useV 31 true, useP 7] inV ∧ Ready h0 false [useV 1, useV 2, useP 0] nearlyFull ∧ LatchFree 1 nearlyFull ∧ ¬ LatchFree 2 nearlyFull
    ∧ LatchFree 1 inV :=
  ⟨ready rfl, ready rfl, ⟨by decide, fun _ _ => by decide⟩, fun l => absurd (l.2 rfl (by decide)) (by decide), latchFree rfl (by decide)⟩

theorem witness_vector_floats : Ready h0 false [useV 1, useV 2, useV 3, useP 1] inV ∧ LatchFree 1 inV := ⟨ready rfl, latchFree rfl (by decide)⟩

theorem witness_vector_bits : Ready h0 false [useV 1, useV 2, useP 1] inV ∧ LatchFree 1 inV ∧ Ready h0 false [] inV ∧ always inV :=
  ⟨ready rfl, latchFree rfl (by decide), ready rfl, trivial⟩

/-- A comparison, a count, and PSET of 0, 1024 and more lanes. -/
theorem witness_predicates : Ready h0 false [useV 1, useV 2, useP 7] inV ∧ LatchFree 0 inV ∧ Ready h0 false [useP 0, useP 7] inV ∧ Ready h0 false [useS 1] inV
    ∧ (1#3 ≠ 0) ∧ min (0 : Nat) 1024 = 0 ∧ min 1024 1024 = 1024 ∧ min (2 ^ 64 - 1) 1024 = 1024 :=
  ⟨ready rfl, latchFree rfl (by decide), ready rfl, ready rfl, by decide, by decide, by decide, by decide⟩

/-- A pair of types that no row lists, f32 to bf16 with an aligned and a misaligned source, and bf16 to f32. -/
theorem witness_vector_conversion :
    let us := fun (ks : Nat) (va : BitVec 5) => (List.range ks).map fun j => useV (va + BitVec.ofNat 5 j)
    cvtShape 0 0 0 = none ∧ cvtShape 9 8 0 = some (.narrow 2) ∧ (CvtShape.narrow 2).aligned 1 6 = true ∧ (CvtShape.narrow 2).aligned 1 7 = false
      ∧ cvtShape 8 9 0 = some (.widen 2) ∧ (CvtShape.widen 2).aligned 2 1 = true ∧ (CvtShape.widen 2).aligned 3 1 = false
      ∧ Ready h0 false (us 2 6) inV ∧ Ready h0 false (us 1 1) inV ∧ LatchFree 2 inV ∧ LatchFree 4 inV :=
  ⟨by decide, by decide, by decide, by decide, by decide, by decide, by decide, ready rfl, ready rfl, latchFree rfl (by decide), latchFree rfl (by decide)⟩

theorem witness_vector_products : Ready h0 false [useV 1, useV 2, useP 1] inV ∧ LatchFree 2 inV ∧ Ready h0 false [useV 1, useV 2, useV 3, useP 1] inV ∧ Ready h0 false [useV 1, useP 1] inV
    ∧ LatchFree 1 inV ∧ 0 < 1 ∧ (-160 < (0 : Int) ∧ (0 : Int) < 129) :=
  ⟨ready rfl, latchFree rfl (by decide), ready rfl, ready rfl, latchFree rfl (by decide), by decide, by decide⟩

/-- No active lane, NaN alone, and a NaN beside a number. -/
theorem witness_vector_reductions :
    let real := fun y => Machine.Num.ofBits .f32 y ≠ .nan
    Ready h0 false [useV 1, useP 1] inV ∧ LatchFree 1 inV ∧ ¬ real 0x7FC00000 ∧ real 0x3F800000
      ∧ (∀ x ∈ [0x7FC00000, 0x3F800000], x < 2 ^ FloatFmt.width .f32) :=
  ⟨ready rfl, latchFree rfl (by decide), by decide, by decide, by decide⟩

theorem witness_vector_moves : Ready h0 false [useV 1, useV 2, useP 1] inV ∧ Ready h0 false [useV 1, useS 2, useP 1] inV ∧ Ready h0 false [useS 1, useP 1] inV ∧ Ready h0 false [useP 1] inV
    ∧ Ready h0 false [useS 1, useS 2] inV ∧ LatchFree 1 inV ∧ LatchFree 0 inV :=
  ⟨ready rfl, ready rfl, ready rfl, ready rfl, ready rfl, latchFree rfl (by decide), latchFree rfl (by decide)⟩

/-- VRB misaligned, past the result buffer, of a position never drained, early, with another tag, and good; a gather of two lanes on one bank,
with a base that fails each check, an index past the end, and a missing token. -/
theorem witness_gathers :
    let s := withRegs [(1, 512), (2, 65536), (3, 64), (4, localAt 0), (5, localAt 2), (6, 0x1000), (25, 0x80000)] inV
    let b : State := { s with core := { s.core with partw := 8, eng := { s.core.eng with rbrec := [(0, 40, 7)] } } }
    let late := atCycle 40 b
    let legal := fun (a : BitVec 5) (s : State) => (s.rs a).toNat % 512 = 0 ∧ (s.rs a).toNat < 65536 * partRB4 s.core.partw
    let lanes := fun (p : PReg) (v : VReg) => s.mapCtx fun x => { x with preds := x.preds.set 1 p, vregs := x.vregs.set 3 v }
    let two := lanes 3 (32 * 2 ^ 32)
    let far := lanes 1 (BitVec.ofNat 4096 (localSize 0 / 4))
    let act := fun s : State => (List.range 128).filter fun n => (s.rp 1).getLsbD n
    let ptr := fun (s : State) (n : Nat) => lea (s.rs 4) (BitVec.ofNat 64 (4 * lane 32 (s.rv 3) n))
    let within := fun (s : State) (n : Nat) => ptrSpace (ptr s n) = 2 ∧ ptrOff (ptr s n) + 4 ≤ localSize s.core.partw
    let clash := fun (s : State) (n m : Nat) => n / 32 = m / 32 ∧ ptrOff (ptr s n) / 4 % 32 = ptrOff (ptr s m) / 4 % 32
      ∧ ptrOff (ptr s n) / 4 ≠ ptrOff (ptr s m) / 4
    (Ready h0 false [useS 1, useS 0] b ∧ (b.rs 3).toNat % 512 ≠ 0 ∧ ¬ legal 2 b ∧ (b.rs 2).toNat % 512 = 0 ∧ legal 1 b ∧ s.rbrec 0 = none ∧ legal 0 b
      ∧ b.rbrec 0 = some (0, 40, 7) ∧ b.gcyc < 40 ∧ 40 ≤ late.gcyc ∧ (late.rs 0).extractLsb' 0 16 ≠ 7#16 ∧ late.soft = [] ∧ late.bad = [] ∧ LatchFree 1 late)
    ∧ canonical 0x2001000000000000 = false ∧ (canonical (s.rs 5) = true ∧ ptrOff (s.rs 5) % 4 ≠ 0) ∧ (canonical (s.rs 6) = true ∧ ptrSpace (s.rs 6) ≠ 2)
    ∧ (canonical (s.rs 4) = true ∧ ptrOff (s.rs 4) % 4 = 0 ∧ ptrSpace (s.rs 4) = 2)
    ∧ Ready h0 false [useS 4, useV 3, useP 1] two ∧ act two = [0, 1] ∧ (∀ n ∈ act two, within two n) ∧ clash two 0 1 ∧ Ready h0 false [useS 4, useV 3, useP 1] (inTime two)
    ∧ Ready h0 false [useS 4, useV 3, useP 1] far ∧ act far = [0] ∧ ¬ within far 0
    ∧ Ready h0 false [useS 4, useV 3, useData 1, useP 1, useS 25] s ∧ s.core.eng.gathers = [] ∧ s.core.eng.recWait = []
      ∧ (∃ r ∈ (waiting 5 s).core.eng.recWait, r.w1.extractLsb' 34 4 = 5) ∧ (∀ n ∈ act s, within s n ∧ ∀ m ∈ act s, ¬ clash s n m)
    ∧ tokensThere s.ctx.tokens (specPops (some (s.rs 25))) = false ∧ tokensThere s.ctx.tokens (specPops none) = true ∧ LatchFree 1 s := by
  refine ⟨⟨ready rfl, by decide, by decide, by decide, by decide, rfl, by decide, rfl, by decide, by decide, by decide, rfl, rfl, latchFree rfl (by decide)⟩,
    by decide, by decide, by decide, by decide, ready rfl, by decide, by decide, by decide, ready rfl, ready rfl, by decide, by decide, ready rfl, rfl, rfl,
    ⟨_, List.mem_singleton.2 rfl, by decide⟩, by decide, by decide, by decide, latchFree rfl (by decide)⟩

/-- A result that lands now and one that lands later; a walk; a write-combining entry; a scatter; a scrub slot and its patrol at the end of the tier. -/
theorem witness_results_and_gathers :
    let s := withFlights [flight .vector 31 (some 3)] (atReset .V)
    let a := { aStore none with ptr := 64, va := [(64, 8)], pieces := [] }
    let w := (atReset .A).mapCtx fun x => { x with acc := [a] }
    let e : WcEntry := ⟨1, 0, [(256, 1)], 5, true, none, [], 0, false⟩
    let o : GatherOp := ⟨1, 1, 0, false, [(0, 2 ^ 40, 5, 8)], 11, none, [], 0⟩
    let u := atCycle 8 ((atReset .V).mapEng fun g => { g with wc := [e], gathers := [o] })
    (s.core.idx = 0 ∧ Memory.wf s.mem = true ∧ s.soft = [] ∧ s.bad = [] ∧ (s.ctx.strand .V).flights = [flight .vector 31 (some 3)]
      ∧ (∀ x, x ≠ .V → (s.ctx.strand x).flights = []) ∧ s.core.shadow.a.flights = [] ∧ s.core.shadow.v.flights = [] ∧ s.gcyc < 3 ∧ 3 ≤ (atCycle 3 s).gcyc
      ∧ (flight .vector 31 (some 3)).beaten ≠ some 3 ∧ { flight .vector 31 (some 3) with beaten := some 3 }.beaten = some 3)
    ∧ (w.ctx.acc = [a] ∧ a.id = 5 ∧ a.p = none ∧ a.va ≠ [] ∧ a.rid = none ∧ a.walk = none ∧ a.kind.queued = true ∧ a.cancelled = false ∧ a.done = false ∧ w.ctx.auHalt = false ∧ w.ctx.waits = []
      ∧ w.core.deferred = none ∧ ptrSpace a.ptr = 0)
    ∧ (u.core.eng.wc = [e] ∧ e.unit = 1 ∧ (atCycle 4 u).gcyc < e.due ∧ e.due ≤ u.gcyc ∧ pteKey e.pte = 0 ∧ (u.vf (pteVf e.pte)).dirty = none
      ∧ unitRead 0x0100000000000000 1 u = none ∧ u.core.eng.gathers = [o] ∧ o.id = 1 ∧ (∀ l ∈ o.lanes.filter (fun l => l.2.2.2 = u.gcyc), l.2.1 % 4 = 0) ∧ o.kind ≠ 0
      ∧ o.hurt = 0 ∧ u.ctx.frame = none ∧ u.core.shadow.frame = none ∧ u.svc.viral = false ∧ (u.vf (pteVf 0x0100000000000000)).errq = none)
    ∧ (∀ c ∈ u.core :: u.others, c.ctx.vupset = 0 ∧ c.shadow.vupset = 0) ∧ 2 ^ 38 ≤ 2 ^ 40 ∧ 0 < { u.svc with patrol := 9 }.patrol
    ∧ u.svc.physLog = none ∧ 64 / 8 ∉ u.bad ∧ 64 / 8 ∈ { u with bad := [8] }.bad ∧ 2 ^ 38 - 1 < 2 ^ 38 ∧ ¬ (2 ^ 38 < 2 ^ 38) :=
  ⟨⟨rfl, rfl, rfl, rfl, rfl, fun x h => by cases x <;> first | rfl | exact absurd rfl h, rfl, rfl, by decide, by decide, by decide, rfl⟩,
    ⟨rfl, rfl, rfl, by decide, rfl, rfl, rfl, rfl, rfl, rfl, rfl, rfl, by decide⟩, ⟨rfl, rfl, by decide, by decide, by decide, by decide, rfl, rfl, rfl, by decide, by decide, rfl, rfl, rfl, rfl, by decide⟩,
    by decide, by decide, by decide, rfl, by decide, by decide, by decide, by decide⟩

/-- A tick that is due with the handler open to it, and shut; a handler that starts and one that ends; a record with room in both rings. -/
theorem witness_interrupts_and_replies :
    let s := (withGroup (atReset .C)).mapCtx fun x => { x with pendTick := true }
    let on := { s with core := { s.core with trapbase := 1 } }
    let admitted := fun s : State => (s.ctx.pendTick = true ∨ s.ctx.pendSig = true ∨ s.ctx.pendUrg = true) ∧ s.core.trapbase.getLsbD 0 = true
      ∧ s.ctx.inHandler s.gcyc = false ∧ s.ctx.group.isSome = true ∧ s.ctx.c.asleep = false ∧ (∀ st ∈ [StrandId.C, .A, .V, .M], (s.ctx.strand st).timed = false)
      ∧ s.atBoundary = false ∧ s.core.stopped = false ∧ s.core.parking = none ∧ (∀ r ∈ s.core.replay, r.1 + r.2 ≤ s.gcyc) ∧ s.svc.viral = false
    let h := atCycle 40 (s.mapCtx fun x => { x with handler := .entering 40, frame := some frame })
    let u := atCycle 32 (s.mapCtx fun x => { x with handler := .returning 32 })
    let r : Rec := ⟨1, 0, 0, 0, 0, 0⟩
    let ring := fun b : Nat => Machine.Ring.mk true b 6 0 0 0
    let p := { (s.setRing 17 (ring 0)).setRing 0 (ring 4096) with core := { s.core with eng := { s.core.eng with recs := [r] } } }
    let room := fun g : Machine.Ring => g.set = true ∧ 6 ≤ g.logn ∧ g.logn ≤ 16 ∧ (g.tail - g.head).toNat ≠ 2 ^ g.logn
    let d := s.setCtxNum false { s.ctxNum false with tick := 9 }
    admitted on ∧ ¬ admitted s ∧ (d.svc.power = 0 ∧ (d.ctxNum false).tick.toNat = (atCycle 9 d).gcyc ∧ (d.ctxNum false).tick ≠ 0 ∧ (d.ctxNum false).tick.toNat ≠ d.gcyc)
      ∧ (h.ctx.handler = .entering 40 ∧ h.ctx.frame = some frame ∧ h.ctx.fq.length ≤ 16 ∧ frame.pfr.length ≤ 4 ∧ 40 ≤ h.gcyc ∧ (atCycle 39 h).gcyc < 40 ∧ Memory.wf h.mem = true
        ∧ h.ctx.acc = [] ∧ h.ctx.a.flights = [])
      ∧ (u.ctx.handler = .returning 32 ∧ 32 ≤ u.gcyc ∧ u.ctx.acc = [] ∧ u.ctx.replies = [] ∧ (s.ctx.handler = .none ∨ s.ctx.handler = .running))
      ∧ ((0#64).extractLsb' 38 10 = 0 ∧ (s.vf 0).resetting = none ∧ (s.ctxNum false).replies.length < 512 ∧ s.ctx.waits = []
        ∧ (match (s.ctxNum false).group with | some g => g.vf | none => s.core.lastVf.getD 0) = 0
        ∧ (∀ p ∈ [(1, (0 : Word))], s.gcyc < p.1) ∧ 1 ≤ (atCycle 1 s).gcyc)
      ∧ (p.others = [] ∧ p.lists = [] ∧ p.core.eng.recs = [r] ∧ r.due ≤ p.gcyc ∧ (r.w3.extractLsb' 0 10).toNat = 0 ∧ r.w1.getLsbD 46 = false ∧ room (p.ring 17)
        ∧ room (p.ring 0) ∧ 0 + 32 ≤ 4096 ∧ ¬ room (s.ring 17)) :=
  ⟨by decide, by decide, by decide, ⟨rfl, rfl, by decide, by decide, by decide, by decide, rfl, rfl, rfl⟩, ⟨rfl, by decide, rfl, rfl, .inl rfl⟩,
    ⟨by decide, rfl, by decide, rfl, rfl, by decide, by decide⟩, by decide⟩

/-- A launch of one group for core 0, and its capsule. -/
def aLaunch : Launch where
  id := 7
  vf := 0
  queue := 0
  tag := 0
  first := 0
  count := 1
  partw := 0
  dom := 1
  sig := 63
  timed := false
  urg := false
  gx := 1
  gy := 1
  gz := 1
  image := ⟨0, 0, 0, [], [], [], [], [], [], [], 0⟩
  g := 65536
  slice := 100
  todo := []
  live := [(0, 0)]
  parked := false
  fail := none
  since := 0

def capsule (kind : Nat) (arg0 arg1 : Word) : Capsule := ⟨0, 7, 32, BitVec.ofNat 64 kind, arg0, arg1, 0, []⟩

/-- The part runs, VF 0 has the pair of core 0, and its queue 0 holds these. -/
def serving (cs : List Capsule) : State :=
  let s := withVf (fun v => { v with on := true, pairs := [0], queues := v.queues.set 0 cs }) (atReset .C)
  { s with svc := { s.svc with running := true } }

/-- The part running the launch on core 0. -/
def launched (l : Launch) (s : State) : State := { (withGroup s) with launches := [l] }

theorem witness_groups_and_dispatch :
    let c := capsule 1 0 0
    let hd : Head := ⟨{ aLaunch with live := [] }, []⟩
    let s := withVf (fun v => { v with heads := v.heads.set 0 (some hd) }) (serving [c])
    let first := { { serving [c] with gcyc := 65536 } with launches := [{ aLaunch with live := [], todo := [(0, 0, 0)] }] }
    let g : Group := ⟨7, 0, 0, 0, 0, 0, none⟩
    let r := launched aLaunch (serving [c])
    let spent := r.mapCtx fun x => { x with c := { x.c with halted := true } }
    let parked := { r with core := { r.core with parking := some (1, 0, 0) } }
    let done := { serving [c] with launches := [{ aLaunch with live := [] }] }
    (s.svc.running = true ∧ s.svc.viral = false ∧ s.svc.power = 0 ∧ s.svc.exitAt = none ∧ chooseHead s 4 = some (0, 1, 0) ∧ headBusy 0 0 s = false
      ∧ headOf 0 0 s = some hd ∧ queueOf 0 0 s = c :: [] ∧ (s.vf 0).resetting = none ∧ (s.vf 0).paused = false ∧ (s.vf 0).pausing = false
      ∧ gbaseOk hd.launch c.arg1.toNat s = true ∧ hd.launch.gx * hd.launch.gy * hd.launch.gz ≠ 0 ∧ (∀ m ∈ s.launches, m.id ≠ s.nextId))
    ∧ (first.core.idx = 0 ∧ first.core.second = false ∧ first.core.ctx.group = none ∧ first.core.stopped = false
      ∧ (∀ l ∈ first.launches, l.parked = false ∧ l.since ≤ first.gcyc ∧ l.live = [] ∧ l.todo = [(0, 0, 0)]))
    ∧ (r.core.ctx.group = some g ∧ g.failed = none ∧ r.launches = [aLaunch] ∧ aLaunch.id = g.launch ∧ aLaunch.live = [(0, g.n)] ∧ aLaunch.todo = [] ∧ aLaunch.fail = none
      ∧ r.core.shadow.group = none ∧ r.core.eng.stream = none ∧ groupOver r = false ∧ groupOver spent = true)
    ∧ (parked.core.parking = some (1, 0, 0) ∧ enginesIdle parked = true ∧ parked.core.eng.recWait = []
      ∧ (∃ r ∈ (waiting 7 parked).core.eng.recWait, r.w1.extractLsb' 34 4 = 7) ∧ r.core.parking = none)
    ∧ (domPod aLaunch = false ∧ aLaunch.since ≤ r.gcyc ∧ (withVf (fun v => { v with slice := 100 }) r).launches = [aLaunch] ∧ rivalReady aLaunch r = false
      ∧ aLaunch.slice - (0 - aLaunch.since) ≠ 0 ∧ aLaunch.slice - (100 - aLaunch.since) = 0)
    ∧ done.launches = [{ aLaunch with live := [] }] ∧ queueOf 0 0 done = c :: [] ∧ c.vf = aLaunch.vf ∧ (done.vf 0).held = [] ∧ (∀ r ∈ (done.vf 0).ring, r.2.2.2 = true)
      ∧ writesDone { aLaunch with live := [] } done = true
      ∧ (done.vf 0).resetting = none ∧ (withVf (fun v => { v with resetting := some (1, 0) }) done |>.vf 0).resetting ≠ none ∧ r.core.stopped = false
      ∧ { r.core with stopped := true }.stopped = true :=
  ⟨by decide, by decide, by decide, by decide, by decide, by decide⟩

/-- Capsules of each kind that the endpoint takes, a kind it refuses at each end, a full queue, and a queue head of each kind. -/
theorem witness_capsules :
    let s := serving []
    let kind := fun c : Capsule => (c.w0.extractLsb' 0 8).toNat
    let wrong := fun c : Capsule => kind c = 0 ∨ 7 < kind c ∨ c.w0.extractLsb' 10 6 ≠ 0 ∨ c.w0.extractLsb' 32 32 ≠ 0 ∨ c.arg2 ≠ 0
      ∨ c.len ≠ (if kind c = 2 then 32 + c.arg1.toNat else 32)
    let ready := fun (vf : Nat) (s : State) => vf < 16 ∧ s.svc.power = 0 ∧ s.svc.exitAt = none ∧ s.svc.running = true ∧ s.svc.viral = false
      ∧ (s.vf vf).held = [] ∧ ∀ r ∈ (s.vf vf).ring, r.2.2.2 = true
    (ready 0 s ∧ ready 15 s ∧ ¬ ready 0 (atReset .C))
      ∧ ((∀ c ∈ [capsule 0 0 0, capsule 8 0 0, capsule 2 0 1, { capsule 1 0 0 with len := 31 }], wrong c) ∧ ∀ k ∈ [1, 2, 3, 4, 5, 6, 7], ¬ wrong (capsule k 0 0))
      ∧ (s.vf 0).resetting = none ∧ (∀ x ∈ s.others, x.idx ≠ s.core.idx) ∧ 64 ≤ (queueOf 0 0 (serving (List.replicate 64 (capsule 7 0 0)))).length
      ∧ (queueOf 0 0 (serving (List.replicate 63 (capsule 7 0 0)))).length < 64
      ∧ (∀ k ∈ [2, 3, 4, 5, 7], queueOf 0 0 (serving [capsule k 0 1]) = capsule k 0 1 :: [] ∧ kind (capsule k 0 1) = k ∧ (capsule k 0 1).vf = 0)
      ∧ ((capsule 4 0x10000 0).arg0.getLsbD 16 = true ∧ (capsule 4 0 0).arg0.getLsbD 16 = false ∧ (s.vf 0).ownsCore 0 = true ∧ (s.vf 0).ownsCore 2 = false)
      ∧ ((capsule 5 63 0).arg1.toNat ≤ ((s.vf 0).signals.toList.getD 63 0).toNat) ∧ ¬ ((capsule 5 63 1).arg1.toNat ≤ ((s.vf 0).signals.toList.getD 63 0).toNat)
      ∧ ((s.vf 0).ports = [] ∧ (withVf (fun v => { v with ports := [1] }) s |>.vf 0).ports = [1] ∧ (capsule 7 0 0).port ∉ [1])
      ∧ (capsule 7 0 0).ok = true ∧ { capsule 7 0 0 with port := 8 }.ok = false
      ∧ (withVf (fun v => { v with ring := some (4096, 4, 1, true) }) s |>.vf 0).ring = some (4096, 4, 1, true)
      ∧ (let t := { s with inbox := [⟨0, .launch (capsule 1 0 0)⟩, ⟨0, .launch { capsule 1 0 0 with port := 0 }⟩] }
        t.inbox = [⟨0, .launch (capsule 1 0 0)⟩, ⟨0, .launch { capsule 1 0 0 with port := 0 }⟩] ∧ 0 = t.gcyc) :=
  ⟨by decide, ⟨by decide, by decide⟩, rfl, by decide, by decide, by decide, by decide, ⟨rfl, rfl, by decide, by decide⟩, by decide, by decide, ⟨rfl, rfl, by decide⟩, by decide, by decide, by decide, ⟨rfl, rfl⟩⟩

/-- A VF at each step of RESET-VF, paused and running, with a swap ahead and one due; a partition in use and free; and a key slot. -/
theorem witness_partitions_and_keys :
    let s := serving []
    let at_ := fun n : Nat => withVf (fun v => { v with resetting := some (n, 7) }) s
    let p := withVf (fun v => { v with paused := true, gtsp := 1 }) s
    let l := launched aLaunch s
    let k := fun x => s.setKey { s.keySlot 1 with pend := x }
    let c : PartitionCfg := ⟨15, [383], [1023], [127], [255], [(95, 2 ^ 23 - 65536, 65536)], 2 ^ 26, [511]⟩
    (c.ok = true ∧ { c with slices := [(95, 2 ^ 23, 65536)] }.ok = false ∧ { c with plinth := 2 ^ 26 + 1 }.ok = false ∧ aLaunch.parked = false)
      ∧ (s.svc.power = 0 ∧ 15 < 16 ∧ (∃ l' ∈ l.launches, l'.vf = 0) ∧ s.launches = [] ∧ (∀ q ∈ [0, 1, 2, 3], queueOf 0 q s = []))
      ∧ (s.gcyc < 1 ∧ 0 ≤ s.gcyc ∧ (s.vf 0).swapAt = none ∧ (withVf (fun v => { v with swapAt := some 9 }) s |>.vf 0).swapAt ≠ some 0)
      ∧ ((p.vf 0).paused = true ∧ (0 : Word).toNat < (p.vf 0).gtsp.toNat ∧ (p.vf 0).gtsp.toNat ≤ (1 : Word).toNat ∧ (s.vf 0).paused = false)
      ∧ (l.launches = [aLaunch] ∧ aLaunch.vf = 0 ∧ domPod aLaunch = false ∧ aLaunch.live = [(l.core.idx, 0)])
      ∧ (∀ n ∈ [1, 3, 4, 5], ((at_ n).vf 0).resetting = some (n, 7)) ∧ (s.vf 0).resetting = none ∧ (∀ c ∈ s.others, c.idx ≠ s.core.idx) ∧ Memory.wf s.mem = true
      ∧ (s.svc.viral = false ∧ ((at_ 5).vf 0).held = [] ∧ ((at_ 5).vf 0).ring = none)
      ∧ ((k []).keySlot 1).pend = [] ∧ (∀ p ∈ ((k [(1, none)]).keySlot 1).pend, s.gcyc < p.1) ∧ ((k [(0, none)]).keySlot 1).pend = [(0, none)]
      ∧ ((k [(0, some 5), (0, some 6)]).keySlot 1).pend = [(0, some 5), (0, some 6)] ∧ 1 ≤ 1 ∧ 255 < 256 :=
  ⟨by decide, ⟨rfl, by decide, ⟨aLaunch, List.mem_singleton.2 rfl, rfl⟩, rfl, by decide⟩, by decide, by decide, by decide, by decide, rfl, by decide, rfl, by decide, rfl, by decide, rfl,
    rfl, by decide, by decide⟩

/-- The part running and viral, in each power state, on its way out of one, and idle for 4096 cycles at a point where it may enter one. -/
theorem witness_service_and_power :
    let s := serving []
    let pw := fun n : Nat => { s with svc := { s.svc with power := n } }
    let out := { s with svc := { s.svc with power := 3, exitAt := some 5 } }
    let idle := { atCycle 4096 s with svc := { s.svc with quiet := 4096, ltol := 2000 } }
    let swap := fun (h : Option Nat) (ms : List (Nat × Nat × CtlMsg)) => { s with pod := { s.pod with holder := h, ctl := ms } }
    ((swap (some 7) []).pod.holder ≠ none ∧ (swap none [(3, 0, ⟨1, 64, 0⟩)]).pod.holder = none ∧ (∀ m ∈ (atCycle 4 (swap none [(3, 0, ⟨1, 64, 0⟩)])).pod.ctl, m.1 < 4)
        ∧ (∃ m ∈ (swap none [(3, 0, ⟨1, 64, 0⟩)]).pod.ctl, s.gcyc ≤ m.1) ∧ s.soft = [] ∧ s.bad = [] ∧ 7 < 8 ∧ ¬ (8 < 8) ∧ 1 ∈ List.range' 1 8 ∧ 8 ∈ List.range' 1 8)
      ∧ s.svc.viral = false ∧ s.svc.physLog = none ∧ { s.svc with viral := true }.viral = true ∧ s.gcyc < 2 ^ 64 ∧ (∀ n ∈ [1, 2, 3], (pw n).svc.power = n ∧ (pw n).svc.exitAt = none)
      ∧ out.svc.exitAt = some 5 ∧ out.gcyc < 5 ∧ 5 ≤ (atCycle 5 out).gcyc ∧ Memory.wf out.mem = true
      ∧ (idle.svc.power = 0 ∧ idle.svc.exitAt = none ∧ idle.gcyc % 4096 = 0 ∧ 4096 ≤ idle.svc.quiet ∧ packageIdle idle = true) ∧ packageIdle (atReset .C) = false
      ∧ s.svc.power = 0 ∧ s.gcyc < (1 : Word).toNat ∧ false = s.pod.bankB
      ∧ (let above := ∃ b ∈ budgets.zipIdx, 1000 * b.1 < Config.powerUse s.gcyc b.2; above ∨ ¬ above)
      ∧ s.svc.snapAt ≤ s.gcyc ∧ s.gcyc < { s.svc with snapAt := 9 }.snapAt
      ∧ (0x10000 % 65536 = 0 ∧ 2 ^ 38 - 65536 < 2 ^ 38 ∧ 1 % 65536 ≠ 0 ∧ (s.vf 0).ring = none ∧ ∀ p ∈ [0, 7], p < 8) ∧ s.svc.physLog = none
      ∧ (s.svc.mgmt.ring = none ∧ s.svc.change = none ∧ { s.svc with change := some (4096, true) }.change ≠ none ∧ s.gcyc < 1
        ∧ { s.core with ended := some (0, 0) }.ended = some (s.gcyc, ((0 : Word).extractLsb' 18 4).toNat) ∧ (Counter.mk 5 0x420000).ctl.getLsbD 22 = true)
      ∧ (let x : Counter := ⟨5, 0x20002⟩
        x.ctl.getLsbD 17 = true ∧ x.ctl.getLsbD 22 = false ∧ (x.ctl.extractLsb' 0 8).toNat = 2 ∧ 2 ∉ [0, 5, 7, 15]
          ∧ (Counter.mk 5 0x20000).ctl.extractLsb' 0 8 = 0 ∧ 0x12 < ((Counter.mk 5 0x20013).ctl.extractLsb' 0 8).toNat
          ∧ { s.core with counters := s.core.counters.set 0 x }.counters[0] = x) :=
  ⟨by decide, rfl, rfl, rfl, by decide, by decide, rfl, by decide, by decide, rfl, by decide, by decide, rfl, by decide, rfl,
    Classical.em _, by decide, by decide, by decide, rfl, ⟨rfl, rfl, by decide, by decide, by decide, by decide⟩, by decide⟩

/-- Firmware older than the fuses allow; a row whose bank has spares and one whose bank has none; failed rows before the part runs. -/
theorem witness_boot :
    let s := atReset .C
    let old := { s with svc := { s.svc with fuseRoll := 1 } }
    let full := { s with svc := { s.svc with flashRepair := [7, 7, 7, 7] } }
    let used := fun (s : State) => ((s.svc.fuseRepair ++ s.svc.flashRepair).filter fun r => Config.bankOf r = Config.bankOf 7).length
    (s.svc.flashErr = false ∧ { s.svc with flashErr := true }.flashErr = true ∧ { s.svc with marchHang := true }.marchHang = true) ∧ ¬ (old.svc.fuseRoll ≤ old.svc.fwVer) ∧ s.svc.fuseRoll ≤ s.svc.fwVer ∧ s.svc.physLog = none ∧ Memory.wf s.mem = true ∧ used s < 4 ∧ ¬ used full < 4
      ∧ (s.svc.bootst.extractLsb' 16 16 = 0 ∧ s.svc.bootst.getLsbD 6 = false) ∧ (0x10000 : Word).extractLsb' 16 16 ≠ 0 := by
  refine ⟨by decide, by decide, by decide, rfl, rfl, by decide, ?_, by decide, by decide⟩
  simp [atReset, State.setStr, State.mapCtx, State.setCtx, State.reset, Service.idle]

/-- A packet for a window of the package itself and one for a neighbour. -/
def packet (route : List Nat) : Packet :=
  ⟨0, 0, 0, 1, 0, 0, 2, 0, 0, 0, 3, 0, 1, route, [1], true, true, false, [], false, false⟩

/-- A boundary opened, active, voted, applied and over; windows idle, queued, and retransmitting; a packet of each way it can come. -/
theorem witness_pod_boundary_and_packets :
    let s := launched aLaunch (serving [])
    let pod := fun (n : Nat) (p : Pod) => { atCycle n s with pod := p }
    let step := { Pod.idle with holder := some 7, bounds := [4096], steppers := [⟨0, false, 1, 0⟩] }
    let active := { step with bound := some 4096 }
    let w := fun (q : List Packet) (hops : Nat) => (pod 5 Pod.idle).setWindow 0 { Window.idle with valid := true, hops := hops, plog := 4, slotf := 16, queue := q }
    let free := fun (q : Packet) (port : Nat) (s : State) => ∀ e ∈ s.pod.out, e.2.1 = port →
      e.1 + (e.2.2.2.bytes.length + 191) / 192 ≤ s.gcyc ∨ s.gcyc + (q.bytes.length + 191) / 192 ≤ e.1
    let bad := { (pod 4096 { step with plinth := [{ packet [] with rule := 2 }] }) with bad := [2 ^ 37] }
    let low := { packet [] with seq := 0 }
    (plinthBad bad ≠ none ∧ plinthBad (pod 4096 step) = none ∧ { Pod.idle with swap := true }.swap = true ∧ Pod.idle.holder = none ∧ Pod.idle.ctl = []
        ∧ step.holder ≠ none ∧ 4096 < 4097 ∧ (∀ x ∈ step.bounds, ¬ (x < 16384 ∧ 16384 < x + 12288)) ∧ ({ Pod.idle with x := 1 }.x ≠ 0) ∧ Pod.idle.heard ≠ some 5)
      ∧ (low.sender = (packet []).sender ∧ low.cyc = (packet []).cyc ∧ low.core = (packet []).core ∧ low.agent = (packet []).agent ∧ low.seq < (packet []).seq
        ∧ (packet []).seq < low.seq + 2 ^ 31 ∧ (packet []).seq < 2 ^ 32)
      ∧ (windowFree 0 (w [packet [3]] 1) ≤ 5 ∧ 5 < windowFree 0 { w [packet [3]] 1 with pod := { Pod.idle with out := [(5, 3, 18, packet [])] } }
        ∧ [packet [3]].find? (fun q => q.seq ∉ ([] : List Nat)) = some (packet [3]) ∧ (packet []).sender = s.podIdx ∧ (packet []).win < 64)
      ∧ ((pod 65536 Pod.idle).gcyc % 65536 = 0 ∧ (pod 65537 Pod.idle).gcyc % 65536 ≠ 0 ∧ { Pod.idle with parentAt := some 9 }.parentAt ≠ none ∧ Pod.idle.parentAt = none)
      ∧ ((pod 4096 step).gcyc ∈ step.bounds ∧ step.bound ≠ some (pod 4096 step).gcyc ∧ (pod 4097 step).gcyc ∉ step.bounds ∧ active.bound = some (pod 4096 active).gcyc
        ∧ participants (pod 4096 active) = [0] ∧ active.steppers.map Stepper.core = [0] ∧ active.closed = false)
      ∧ ({ active with closed := true }.result = none ∧ active.ex * active.ey * active.ez ≤ 1 ∧ (∀ x ∈ active.steppers, x.core = s.core.idx) ∧ Memory.wf s.mem = true)
      ∧ (4096 + 12288 ≤ (pod 16384 active).gcyc ∧ (pod 16383 active).gcyc < 4096 + 12288 ∧ active.nextPlinth = [])
      ∧ (((w [packet [3]] 1).window 0).queue = packet [3] :: [] ∧ (packet [3]).cyc < (w [packet [3]] 1).gcyc ∧ (w [packet [3]] 1).svc.viral = false
        ∧ (w [packet [3]] 1).pod.bound = none ∧ ((w [packet [3]] 1).window 0).hops ≠ 0 ∧ free (packet [3]) 3 (w [packet [3]] 1)
        ∧ ((packet [3]).bytes.length + 191) / 192 ≤ slotLeft ((w [packet [3]] 1).window 0) 5 ∧ ((w [packet []] 0).window 0).hops = 0)
      ∧ (plinthTarget (packet []) s = none ∧ plinthTarget (packet []) (pod 5 step) ≠ none ∧ plinthShare (pod 5 step) < step.used + 32
        ∧ plinthShare (withVf (fun v => { v with plinth := 32 }) (pod 5 step)) = 32 ∧ step.plinth = [])
      ∧ ((packet []).tgt = s.podIdx ∧ 0 ∉ (packet []).lost ∧ 0 ∈ { packet [] with lost := [0] }.lost ∧ (∀ n ∈ [0, 15], (s.vf n).errq = none) ∧ (packet []).poison = false ∧ (packet []).hdrOk = true ∧ (packet []).crcOk = true ∧ 63 < 64 ∧ 17 < 18
        ∧ (packet [3]).route = 3 :: [] ∧ s.pod.closed = false ∧ { packet [] with sender := 1 }.sender ≠ s.podIdx) :=
  ⟨by decide, by decide, by decide, by decide, by decide, by decide, by decide, by decide, by decide, by decide⟩

/-- A boundary that begins inside an active one, its cutoff, its application point, and the U of the first; a message of the own exchange's cycle. -/
theorem witness_later_boundaries :
    let pod := fun (n : Nat) (p : Pod) => { atCycle n (launched aLaunch (serving [])) with pod := p }
    let active := { Pod.idle with holder := some 7, bounds := [4096, 8192], bound := some 4096, steppers := [⟨0, false, 1, 0⟩] }
    let more := { active with later := [8192] }
    ((pod 8192 active).gcyc ∈ active.bounds ∧ active.bound = some 4096 ∧ 4096 ≠ 8192 ∧ 8192 ∉ active.later ∧ 8192 ∈ more.later)
      ∧ ((∃ b ∈ more.later, b + 2560 = (pod 10752 more).gcyc) ∧ ∀ b ∈ active.later, b + 2560 ≠ 6656)
      ∧ ({ more with closed := true, result := some 0 }.result ≠ none ∧ 8192 + 4096 = (pod 12288 more).gcyc ∧ participants (pod 12288 more) = [0])
      ∧ (4096 + 12288 ≤ (pod 16384 more).gcyc ∧ more.nextPlinth = [] ∧ more.later = 8192 :: [])
      ∧ ({ Pod.idle with x := 1 }.parentAt = none ∧ (pod 65536 { Pod.idle with x := 1 }).gcyc ≤ (65536 : Word).toNat)
      ∧ (pod 8192 active).core.ctx.frame = none ∧ (pod 8192 active).core.shadow.frame = none ∧ (pod 8192 active).svc.physLog = none :=
  ⟨by decide, by decide, by decide, by decide, by decide, rfl, rfl, rfl⟩

/-- A mailbox of the last number in every episode state, with an action to deliver, a timer, an open staging window, and lengths at 504 and 505. -/
theorem witness_mailboxes :
    let b := Mailbox.idle 1023
    let e : MbEntry := ⟨0, List.replicate 512 0, 5, false⟩
    let live : Mailbox := { b with epi := 1, staging := true, acts := [e], timer := some (0, 0), budget := 1, sys := some 1 }
    let s : State := { atCycle 5 (atReset .C) with mboxes := [live] }
    let len := fun v : Word => v.toNat % 512
    let cmd := fun v : Word => (v.extractLsb' 8 4).toNat
    let per := if s.svc.power < 2 ∨ (s.svc.power = 2 ∧ live.hart < 16) then (if s.svc.halved then 48 else 24) / s.hartDivider live.hart else 0
    (per = 24 ∧ (∀ d, live.budget ≤ (24 + Config.hartPhase d % 12) / 12) ∧ b.budget = 0 ∧ cmd 0 = 0 ∧ cmd 0x100 = 1 ∧ cmd 0x200 = 2 ∧ cmd 0x300 = 3 ∧ 3 < cmd 0x400
        ∧ { live with ahead := true }.ahead = true ∧ (s.hart 127).seen < s.gcyc ∧ (2 ^ 38 + 2 ^ 23 - 1) % 8 ≠ 0 ∧ 0 < 8)
      ∧ s.mailbox 1023 = live ∧ 1023 < 1024 ∧ live.epi = 1 ∧ b.epi ≠ 1 ∧ b.epi = 0 ∧ live.acts = e :: [] ∧ live.ahead = false ∧ e.vis ≤ s.gcyc ∧ (atCycle 4 s).gcyc < e.vis
      ∧ live.retire = false ∧ live.timer = some (0, 0) ∧ live.budget ≠ 0 ∧ b.timer = none ∧ (live.epi = 1 ∧ live.staging = true) ∧ ¬ (b.epi = 1 ∧ b.staging = true)
      ∧ len 504 ≤ 504 ∧ 504 < len 505 ∧ live.obs.length < 4 ∧ live.sys = some 1 ∧ b.sys = none ∧ b.lastr < 16 ∧ 127 < 128 :=
  ⟨⟨by decide, fun d => (by omega : 1 ≤ (24 + Config.hartPhase d % 12) / 12), rfl, by decide, by decide, by decide, by decide, by decide, rfl, by decide, by decide, by decide⟩,
    by decide, by decide, rfl, by decide, rfl, rfl, rfl, by decide, by decide, rfl, rfl, by decide, rfl, by decide, by decide, by decide, by decide, by decide, rfl, rfl,
    by decide, by decide⟩

/-- Strand C of a group due alone, at a word that decodes, at one that does not, and past the end of its image. -/
theorem witness_step_runs_decoded :
    let s := fun ws : List W32 => { withGroup (withImage ws 0 (atReset .C)) with cal := [] }
    let u := fun ws => turnTo .C (planned 0 noPops (pruneAccesses (s ws)))
    let due := fun s : State => (arrivalDue false s).isNone ∧ calendarDue 3 s = none ∧ firstDue s = some s.core.idx ∧ dueStrands s = [.C]
      ∧ s.core.syncmask = 0 ∧ deferredDue s.core s = false ∧ canInterrupt (pruneAccesses s) = false
    due (s [0x00021060]) ∧ (u [0x00021060]).str.pc / 4 < (u [0x00021060]).str.image.length ∧ (u [0x00021060]).word = 0x00021060
      ∧ (decode .C 0x00021060 none).toOption = some (.add h0 ⟨2, 2, 3, false, false⟩)
      ∧ due (s [0x02E00000]) ∧ (u [0x02E00000]).word = 0x02E00000 ∧ (gateStop (u [0x02E00000])).isNone
      ∧ due (s []) ∧ (u []).str.image.length ≤ (u []).str.pc / 4 ∧ (gateStop (u [])).isNone :=
  ⟨by decide, by decide, by decide, rfl, by decide, by decide, by decide, by decide, by decide, by decide⟩

/-- Instructions with and without an extension word, with every operand at the end of its range; and a word that decodes. -/
theorem witness_round_trip :
    let i : Instr := .segb ⟨true, 3⟩ ⟨31, 0xFFFF, 0xFFFFFFFF⟩
    let j : Instr := .add ⟨true, 3⟩ ⟨31, 31, 31, true, true⟩
    i.wf = true ∧ encode i ≠ [] ∧ i.space = none ∧ j.wf = true ∧ encode j ≠ [] ∧ (Instr.fmtq h0 ⟨31⟩).space = some .C
      ∧ (decode .C 0x00021060 (some 0)).toOption = some (.add h0 ⟨2, 2, 3, false, false⟩) :=
  ⟨by decide, by decide, rfl, by decide, by decide, rfl, rfl⟩

/-- Reset has a step and its memory is in canonical form; so is a memory with two cells. -/
theorem witness_memory_stays_canonical : Memory.wf State.reset.mem = true ∧ Memory.wf [(0, 1), (2 ^ 40, 255)] = true ∧ Memory.wf [(1, 1), (0, 1)] = false
    ∧ Memory.wf [(0, 0)] = false ∧ ∃ t, exec (.wake) State.reset = .next t :=
  ⟨rfl, by decide, by decide, by decide, ⟨_, rfl⟩⟩

end Sys2Proof.Tests
end

section
/-!
PROOFS. What every function of the model does to memory, and the two statements of scope: O59 (memory stays canonical) and O60 (what
reset leaves). First the functions that leave memory as it is, each by a lemma f_mem for simp; then those that write it, each by a lemma
wf_f: they write through `State.poke`, or drop cells, and so keep the canonical form; then instructions, events and steps.
-/
namespace Sys2Proof.Machine

/-! ## Functions that leave memory as it is

The f_mem lemmas that hold by computation are proved by `by rfl`: a simp lemma whose proof is the bare term would be used by
computation, and the kernel would then evaluate addresses such as 2 ^ 40 + k * 2 ^ 21 in unary. -/

@[simp] theorem mem_ite (c : Prop) [Decidable c] (s t : State) : (if c then s else t).mem = if c then s.mem else t.mem :=
  apply_ite ..

/-- A fold whose steps keep a part of the state keeps it. -/
theorem foldl_keeps {α β γ : Type} {f : β → α → β} (m : β → γ) (h : ∀ s x, m (f s x) = m s) (l : List α) (s : β) :
    m (l.foldl f s) = m s := by
  induction l generalizing s with
  | nil => rfl
  | cons x l ih => exact (ih _).trans (h s x)

@[simp] theorem foldl_mem {α : Type} {f : State → α → State} (h : ∀ s x, (f s x).mem = s.mem) (l : List α) (s : State) :
    (l.foldl f s).mem = s.mem :=
  foldl_keeps State.mem h l s

@[simp] theorem foldr_mem {α : Type} {f : α → State → State} (h : ∀ s x, (f x s).mem = s.mem) (l : List α) (s : State) :
    (l.foldr f s).mem = s.mem := by
  induction l with
  | nil => rfl
  | cons x l ih => exact (h _ x).trans ih

@[simp] theorem foldl_addDue_mem {α : Type} (c r k : State → α → Nat) (w : State → α → Wake) (l : List α) (s : State) :
    (l.foldl (fun s x => addDue (c s x) (r s x) (k s x) (w s x) s) s).mem = s.mem :=
  foldl_mem (fun _ _ => addDue_mem ..) l s

/-! ### Machine/Ops.lean -/

@[simp] theorem focus_mem (k s) : (focus k s).mem = s.mem := by simp [focus]

@[simp] theorem withCore_mem {f : State → State} (h : ∀ s, (f s).mem = s.mem) (k s) : (withCore k f s).mem = s.mem := by
  simp [withCore, h]

@[simp] theorem takeId_mem (s) : (takeId s).2.mem = s.mem := by rfl
@[simp] theorem draw_mem (s) : (draw s).2.mem = s.mem := by rfl
@[simp] theorem countAt_mem (level unit src n s) : (countAt level unit src n s).mem = s.mem := by simp [countAt]
@[simp] theorem count_mem (src n s) : (count src n s).mem = s.mem := by simp [count]
@[simp] theorem refreshDead_mem (u s) : (refreshDead u s).mem = s.mem := by unfold refreshDead; (repeat' split) <;> simp
@[simp] theorem kill_mem (u s) : (kill u s).mem = s.mem := by unfold kill; (repeat' split) <;> simp
@[simp] theorem landOne_mem (kind r st s) : (landOne kind r st s).mem = s.mem := by unfold landOne; split <;> rfl

@[simp] theorem landAll_mem (kind st rs s) : (landAll kind st rs s).mem = s.mem := by
  induction rs generalizing s with
  | nil => rfl
  | cons r rs ih => simp [landAll, ih]

@[simp] theorem markReg_mem (kind st m r s) : (markReg kind st m r s).mem = s.mem := by rfl
@[simp] theorem putS_mem (d v s) : (putS d v s).mem = s.mem := by rfl
@[simp] theorem putNow_mem (kind regs s) : (putNow kind regs s).mem = s.mem := by simp [putNow]
@[simp] theorem fly_mem (kind regs lat s) : (fly kind regs lat s).mem = s.mem := by rfl

@[simp] theorem flyFrom_mem (id kind regs lands pend s late) : (flyFrom id kind regs lands pend s late).mem = s.mem := by
  unfold flyFrom
  split <;> simp

@[simp] theorem mapFlight_mem (id f s) : (mapFlight id f s).mem = s.mem := by rfl
@[simp] theorem result_mem (lat d v s) : (result lat d v s).mem = s.mem := by simp [result]
@[simp] theorem results_mem (kind lat regs s) : (results kind lat regs s).mem = s.mem := by simp [results]
@[simp] theorem raiseRec_mem (r s) : (raiseRec r s).mem = s.mem := by rfl
@[simp] theorem report_mem (code pc str agent val s) : (report code pc str agent val s).mem = s.mem := by rfl

@[simp] theorem withShadow_mem {f : State → State} (h : ∀ s, (f s).mem = s.mem) (s) : (withShadow f s).mem = s.mem := by
  simp [withShadow, h]

@[simp] theorem inCtx_mem {f : State → State} (h : ∀ s, (f s).mem = s.mem) (b s) : (inCtx b f s).mem = s.mem := by simp [inCtx, h]

@[simp] theorem reportAs_mem (second code pc str agent val s) : (reportAs second code pc str agent val s).mem = s.mem := by
  simp [reportAs]

@[simp] theorem failGroup_mem (cause s) : (failGroup cause s).mem = s.mem := by rfl
@[simp] theorem attachNow_mem (s) : (attachNow s).mem = s.mem := by simp [attachNow]
@[simp] theorem enterTrap_mem (e s) : (enterTrap e s).mem = s.mem := by simp [enterTrap]
@[simp] theorem precise_mem (code tval s) : (precise code tval s).mem = s.mem := by simp [precise]

@[simp] theorem returnTrap_mem (s) : (returnTrap s).mem = s.mem := by
  unfold returnTrap
  dsimp only
  split
  · rfl
  · exact foldl_mem (fun s g => by split <;> rfl) ..

@[simp] theorem plain_mem (s) : (plain s).st.mem = s.mem := by rfl
@[simp] theorem jump_mem (s t) : (jump s t).st.mem = s.mem := by rfl
@[simp] theorem after_mem (s n) : (after s n).st.mem = s.mem := by rfl
@[simp] theorem stageLoop_mem (l s) : (stageLoop l s).mem = s.mem := by simp [stageLoop]
@[simp] theorem stagePreds_mem (s) : (stagePreds s).mem = s.mem := by simp [stagePreds]
@[simp] theorem readied_mem (us s) : (readied us s).mem = s.mem := by simp [readied]
@[simp] theorem prepare_keeps_mem (us s) : (prepare us s).mem = s.mem := by simp [prepare]

@[simp] theorem stageRots_mem (n s) : (stageRots n s).mem = s.mem := by
  induction n generalizing s with
  | zero => rfl
  | succ n ih => simp [stageRots, ih]

@[simp] theorem retire_mem (h long pc e) : (retire h long pc e).mem = e.st.mem := by unfold retire; dsimp only; split <;> simp
@[simp] theorem linger_mem (s) : (linger s).mem = s.mem := by rfl
@[simp] theorem stall_mem (s) : (stall s).mem = s.mem := by simp [stall]

/-! ### Machine/System.lean -/

@[simp] theorem State.setVf_mem (s n v) : (State.setVf s n v).mem = s.mem := by unfold State.setVf; split <;> simp
@[simp] theorem State.setCtxNum_mem (s second x) : (State.setCtxNum s second x).mem = s.mem := by simp [State.setCtxNum]
@[simp] theorem State.mapCtxNum_mem (s second f) : (State.mapCtxNum s second f).mem = s.mem := by simp [State.mapCtxNum]
@[simp] theorem applyCsr_mem (second st n op v s) : (applyCsr second st n op v s).mem = s.mem := by unfold applyCsr; split <;> simp
@[simp] theorem retireTrap_mem (h s) : (retireTrap h s).mem = s.mem := by simp [retireTrap]
@[simp] theorem haltEff_mem (s) : (haltEff s).mem = s.mem := by simp [haltEff]
@[simp] theorem takeInterrupt_mem (s) : (takeInterrupt s).mem = s.mem := by simp [takeInterrupt]

/-! ### Machine/Sync.lean -/

@[simp] theorem cleanBars_mem (p s) : (cleanBars p s).mem = s.mem := by simp [cleanBars]
@[simp] theorem State.setBar_mem (s b) : (State.setBar s b).mem = s.mem := by rfl
@[simp] theorem setTicket_mem (b v s) : (setTicket b v s).mem = s.mem := by rfl

/-! ### Machine/Views.lean -/

@[simp] theorem cutLinks_mem (s) : (cutLinks s).mem = s.mem := by rfl
@[simp] theorem enterStream_mem (t vf p s) : (enterStream t vf p s).mem = s.mem := by rfl

@[simp] theorem touchTlb_mem (t vf p desc s) : (touchTlb t vf p desc s).mem = s.mem := by
  unfold touchTlb
  dsimp only
  (repeat' split) <;> simp

@[simp] theorem xlateRun_mem (t r vf fuel va n s) : (xlateRun t r vf fuel va n s).2.mem = s.mem := by
  induction fuel generalizing va n s with
  | zero => rfl
  | succ fuel ih => grind [xlateRun, touchTlb_mem]

@[simp] theorem xlateAll_mem (t r vf ps s) : (xlateAll t r vf ps s).2.mem = s.mem := by
  induction ps generalizing s with
  | nil => rfl
  | cons p ps ih => grind [xlateAll, xlateRun_mem]

@[simp] theorem breakTags_mem (pa n s) : (breakTags pa n s).mem = s.mem := by rfl
@[simp] theorem nextScrub_mem (w s) : (nextScrub w s).mem = s.mem := by simp [nextScrub]
@[simp] theorem scrubLater_mem (ev s) : (scrubLater ev s).mem = s.mem := by rfl
theorem foldl_nextScrub_mem (g : State → Nat → Nat) (l : List Nat) (s) :
    (l.foldl (fun s w => nextScrub (g s w) s) s).mem = s.mem :=
  foldl_mem (fun _ _ => nextScrub_mem ..) l s

@[simp] theorem visitVector_mem (second p m s) : (visitVector second p m s).mem = s.mem :=
  foldl_nextScrub_mem (fun s w => (poolAddr s.core.idx (vectorBase s.core second) + 512 * p.val) / 8 + w) ..

@[simp] theorem State.markBad_mem (a n s) : (State.markBad a n s).mem = s.mem := by simp [State.markBad]
@[simp] theorem dropWc_mem (f s) : (dropWc f s).mem = s.mem := by rfl
@[simp] theorem wcDue_mem (c unit s) : (wcDue c unit s).mem = s.mem := by rfl

/-! ### Machine/Records.lean -/

@[simp] theorem recordCause_mem (bit s) : (recordCause bit s).mem = s.mem := by simp [recordCause]
@[simp] theorem State.setRing_mem (s n r) : (State.setRing s n r).mem = s.mem := by unfold State.setRing; split <;> simp
@[simp] theorem ringStep_mem (n s) : (ringStep n s).mem = s.mem := by simp [ringStep]

@[simp] theorem settleRec_mem (k ok s) : (settleRec k ok s).mem = s.mem := by
  refine withCore_mem (fun s => ?_) ..
  split
  · rfl
  · split <;> simp

/-! ### Machine/Windows.lean -/

@[simp] theorem State.setWindow_mem (s w x) : (State.setWindow s w x).mem = s.mem := by unfold State.setWindow; split <;> simp
@[simp] theorem departAt_mem (c w s) : (departAt c w s).mem = s.mem := by rfl
@[simp] theorem postWrite_mem (agent w off bytes s) : (postWrite agent w off bytes s).mem = s.mem := by simp [postWrite]

/-! ### Machine/Access.lean -/

@[simp] theorem State.setMbox_mem (s b) : (State.setMbox s b).mem = s.mem := by rfl
@[simp] theorem mapAccess_mem (id f s) : (mapAccess id f s).mem = s.mem := by rfl
@[simp] theorem planAccess_mem (id s) : (planAccess id s).mem = s.mem := by unfold planAccess; (repeat' split) <;> simp
@[simp] theorem xlateAccess_mem (a s) : (xlateAccess a s).2.mem = s.mem := by grind [xlateAccess, xlateAll_mem]
@[simp] theorem takeRid_mem (s) : (takeRid s).2.mem = s.mem := by rfl

@[simp] theorem haltUnit_mem (id va base size s) : (haltUnit id va base size s).mem = s.mem := by
  unfold haltUnit
  (repeat' split) <;> simp

@[simp] theorem deadenFlight_mem (f s) : (deadenFlight f s).mem = s.mem := by
  refine foldl_mem (fun s r => ?_) ..
  split <;> simp

@[simp] theorem deferTrap_mem (e s) : (deferTrap e s).mem = s.mem := by simp [deferTrap]
@[simp] theorem dropAccesses_mem (gone s) : (dropAccesses gone s).mem = s.mem := by simp [dropAccesses]
@[simp] theorem failAccess_mem (id code s) : (failAccess id code s).mem = s.mem := by unfold failAccess; split <;> simp
@[simp] theorem failRead_mem (code a s) : (failRead code a s).mem = s.mem := by simp [failRead]

@[simp] theorem pump_mem (fuel s) : (pump fuel s).mem = s.mem := by
  induction fuel generalizing s with
  | zero => rfl
  | succ fuel ih => grind [pump, xlateAccess_mem, State.mapCtx_mem, planAccess_mem, mapAccess_mem, haltUnit_mem, failAccess_mem]

@[simp] theorem enterAccess_mem (q s) : (enterAccess q s).mem = s.mem := by unfold enterAccess; dsimp only; (repeat' split) <;> simp
@[simp] theorem accessEff_mem (q s) : (accessEff q s).mem = s.mem := by unfold accessEff; split <;> simp
@[simp] theorem closeGate_mem (ids wc s) : (closeGate ids wc s).mem = s.mem := by rfl
@[simp] theorem markEff_mem (s) : (markEff s).mem = s.mem := by simp [markEff]
@[simp] theorem dropTlb_mem (vf va s) : (dropTlb vf va s).mem = s.mem := by rfl

@[simp] theorem prefWalk_mem (last n va s) : (prefWalk last n va s).mem = s.mem := by
  induction n generalizing va s with
  | zero => rfl
  | succ n ih =>
    unfold prefWalk
    split
    · rfl
    · split <;> simp [ih]

@[simp] theorem setValue_mem (id v s) : (setValue id v s).mem = s.mem := by rfl
@[simp] theorem landLater_mem (a s) : (landLater a s).mem = s.mem := by simp [landLater]
@[simp] theorem markDone_mem (id s) : (markDone id s).mem = s.mem := by rfl

@[simp] theorem performPost_mem (a w s) : (performPost a w s).mem = s.mem := by
  refine (foldl_keeps (fun (r : State × List Byte) => r.1.mem) (fun r x => ?_) ..).trans (by simp)
  simp

@[simp] theorem putOff_mem (a c s) : (putOff a c s).mem = s.mem := by rfl
@[simp] theorem pruneAccesses_mem (s) : (pruneAccesses s).mem = s.mem := by rfl

/-! ### Machine/Control.lean -/

@[simp] theorem loopEff_mem (d lc stages last s) : (loopEff d lc stages last s).st.mem = s.mem := by
  unfold loopEff
  dsimp only
  (repeat' split) <;> simp

/-! ### Machine/Vector.lean -/

@[simp] theorem vecResult_mem (w lat vd pg xs s) : (vecResult w lat vd pg xs s).st.mem = s.mem := by simp [vecResult]
@[simp] theorem predResult_mem (n pd pg bs s) : (predResult n pd pg bs s).st.mem = s.mem := by rfl

/-! ### Machine/VectorMore.lean -/

@[simp] theorem cvtEff_mem (sh f s) : (cvtEff sh f s).st.mem = s.mem := by simp [cvtEff]
@[simp] theorem putPred_mem (pd v s) : (putPred pd v s).mem = s.mem := by simp [putPred]

/-! ### Machine/Gather.lean -/

@[simp] theorem gatherEff_mem (kind first f s) : (gatherEff kind first f s).st.mem = s.mem := by simp [gatherEff]

@[simp] theorem enginePush_mem (agent spec pc second s) : (enginePush agent spec pc second s).mem = s.mem := by
  unfold enginePush
  split <;> simp

/-! ### Machine/Matrix.lean -/

@[simp] theorem State.setSlot_mem (s x r) : (State.setSlot s x r).mem = s.mem := by unfold State.setSlot; split <;> simp
@[simp] theorem mapTq_mem (second f s) : (mapTq second f s).mem = s.mem := by simp [mapTq]
@[simp] theorem mapTile_mem (c f s) : (mapTile c f s).mem = s.mem := by simp [mapTile]
@[simp] theorem spoilSlot_mem (x s) : (spoilSlot x s).mem = s.mem := by rfl
@[simp] theorem faultDue_mem (x k s) : (faultDue x k s).mem = s.mem := by rfl

@[simp] theorem findBad_mem (s) : (findBad s).mem = s.mem := by
  refine (foldl_mem (fun s r => ?_) ..).trans rfl
  split
  · split <;> rfl
  · rfl

@[simp] theorem lookAgain_mem (s) : (lookAgain s).mem = s.mem := by
  unfold lookAgain
  dsimp only
  split
  · refine (foldl_mem (fun s r => ?_) ..).trans rfl
    split
    · split <;> rfl
    · rfl
  · rfl

@[simp] theorem retain_mem (r s) : (retain r s).mem = s.mem := by rfl

@[simp] theorem beginOload_mem (x src len tag spec pc second s) : (beginOload x src len tag spec pc second s).mem = s.mem := by
  simp [beginOload]

@[simp] theorem takeSpec_mem (spec second s) : (takeSpec spec second s).mem = s.mem := by simp [takeSpec]
@[simp] theorem oloadEff_mem (f s) : (oloadEff f s).mem = s.mem := by simp [oloadEff]
@[simp] theorem carryWrite_mem (id dst s) : (carryWrite id dst s).mem = s.mem := by unfold carryWrite; split <;> simp
@[simp] theorem acceptTile_mem (c s) : (acceptTile c s).mem = s.mem := by rfl
@[simp] theorem tileEff_mem (kind f s) : (tileEff kind f s).mem = s.mem := by rfl
@[simp] theorem setLast_mem (l s) : (setLast l s).mem = s.mem := by rfl
@[simp] theorem startFault_mem (c code s) : (startFault c code s).mem = s.mem := by simp [startFault]
@[simp] theorem missBehind_mem (cs s) : (missBehind cs s).mem = s.mem := by simp [missBehind]
@[simp] theorem stopTile_mem (s) : (stopTile s).mem = s.mem := by unfold stopTile; split <;> simp
@[simp] theorem sumBehind_mem (r old s) : (sumBehind r old s).2.mem = s.mem := by unfold sumBehind; (repeat' split) <;> simp
@[simp] theorem beginDrain_mem (z pos tag spec pc second s) : (beginDrain z pos tag spec pc second s).mem = s.mem := by rfl
@[simp] theorem mdrainEff_mem (f s) : (mdrainEff f s).mem = s.mem := by rfl
@[simp] theorem mresEff_mem (f s) : (mresEff f s).mem = s.mem := by unfold mresEff; dsimp only; (repeat' split) <;> simp
@[simp] theorem acceptFirst_mem (c s) : (acceptFirst c s).mem = s.mem := by rfl
@[simp] theorem resumeStopped_mem (s) : (resumeStopped s).mem = s.mem := by unfold resumeStopped; split <;> simp

@[simp] theorem partSum_mem (r s) : (partSum r s).2.mem = s.mem :=
  foldl_keeps (fun (x : List Byte × State) => x.2.mem) (fun _ _ => sumBehind_mem ..) ..

/-! ### Machine/Segments.lean -/

@[simp] theorem opbEff_mem (s) : (opbEff s).mem = s.mem := by unfold opbEff; dsimp only; (repeat' split) <;> simp
@[simp] theorem slipStrand_mem (f n k t s) : (slipStrand f n k t s).2.mem = s.mem := foldl_mem (fun s g => by split <;> rfl) ..
@[simp] theorem slipContext_mem (f n s) : (slipContext f n s).mem = s.mem := by simp [slipContext]
@[simp] theorem redoOne_mem (d s) : (redoOne d s).mem = s.mem := by unfold redoOne; split <;> simp
@[simp] theorem giveBack_mem (x s) : (giveBack x s).mem = s.mem := by simp [giveBack]

/-! ### Machine/Copy.lean -/

@[simp] theorem copyEff_mem (kind f s) : (copyEff kind f s).mem = s.mem := by rfl
@[simp] theorem mapCopy_mem (id f s) : (mapCopy id f s).mem = s.mem := by rfl
@[simp] theorem copyReport_mem (c code val s) : (copyReport c code val s).mem = s.mem := by rfl
@[simp] theorem copyDelay_mem (glob s) : (copyDelay glob s).2.mem = s.mem := by unfold copyDelay; split <;> simp
@[simp] theorem beginCopy_mem (c s) : (beginCopy c s).mem = s.mem := by simp [beginCopy]
@[simp] theorem copyBegin_mem (s) : (copyBegin s).mem = s.mem := by unfold copyBegin; split <;> simp
@[simp] theorem copyXlate_mem (c write va n s) : (copyXlate c write va n s).2.2.mem = s.mem := by grind [copyXlate, xlateRun_mem]
@[simp] theorem stopCopy_mem (id code val upto s) : (stopCopy id code val upto s).mem = s.mem := by unfold stopCopy; split <;> simp
@[simp] theorem writeCycle_mem (c s) : (writeCycle c s).2.mem = s.mem := by unfold writeCycle; dsimp only; (repeat' split) <;> simp
@[simp] theorem takeBeat_mem (c data more s) : (takeBeat c data more s).mem = s.mem := by simp [takeBeat]
@[simp] theorem cutBeat_mem (c bs code va s) : (cutBeat c bs code va s).mem = s.mem := by simp [cutBeat]

@[simp] theorem overlapBytes_mem (c at' held bs s) : (overlapBytes c at' held bs s).2.mem = s.mem := by
  unfold overlapBytes
  dsimp only
  (repeat' split) <;> simp

@[simp] theorem globalRuns_mem (c rs va bs s) : (globalRuns c rs va bs s).2.mem = s.mem := by
  induction rs generalizing va bs s with
  | nil => rfl
  | cons r rs ih => simp [globalRuns, ih]

@[simp] theorem beatWritten_mem (id s) : (beatWritten id s).mem = s.mem := by
  unfold beatWritten
  dsimp only
  (repeat' split) <;> simp

@[simp] theorem spaced_mem (c s) : (spaced c s).mem = s.mem := by simp [spaced]
@[simp] theorem wcSoon_mem (es s) : (wcSoon es s).mem = s.mem := by simp [wcSoon]
@[simp] theorem copyDone_mem (id s) : (copyDone id s).mem = s.mem := by unfold copyDone; dsimp only; (repeat' split) <;> simp
@[simp] theorem resumeCopy_mem (id s) : (resumeCopy id s).mem = s.mem := by unfold resumeCopy; split <;> simp
@[simp] theorem failCopy_mem (id s) : (failCopy id s).mem = s.mem := by unfold failCopy; dsimp only; (repeat' split) <;> simp

/-! ### Machine/Stream.lean -/

@[simp] theorem strmPages_mem (vf n va last s) : (strmPages vf n va last s).2.mem = s.mem := by
  induction n generalizing va s with
  | zero => rfl
  | succ n ih => grind [strmPages, touchTlb_mem]

@[simp] theorem strmPlan_mem (s) : (strmPlan s).mem = s.mem := by unfold strmPlan; (repeat' split) <;> simp

@[simp] theorem strmOpen_mem (h tt va t pc s) : (strmOpen h tt va t pc s).2.mem = s.mem := by
  grind [strmOpen, strmPages_mem, strmPlan_mem, addDue_mem, State.mapEng_mem]

@[simp] theorem landNow_mem (a v s) : (landNow a v s).mem = s.mem := by rfl
@[simp] theorem strmFinish_mem (a openIt stamp h tt s) : (strmFinish a openIt stamp h tt s).mem = s.mem := by simp [strmFinish]
@[simp] theorem strmRelease_mem (s) : (strmRelease s).mem = s.mem := by unfold strmRelease; split <;> simp
@[simp] theorem poisonSlot_mem (x code s) : (poisonSlot x code s).mem = s.mem := by simp [poisonSlot]
@[simp] theorem strmPoison_mem (code s) : (strmPoison code s).mem = s.mem := by simp [strmPoison]
@[simp] theorem closeStream_mem (s) : (closeStream s).mem = s.mem := by simp [closeStream]
@[simp] theorem oloadSEff_mem (f s) : (oloadSEff f s).mem = s.mem := by unfold oloadSEff; split <;> simp
@[simp] theorem oloadSDone_mem (id s) : (oloadSDone id s).mem = s.mem := by unfold oloadSDone; split <;> simp
@[simp] theorem mapStream_mem (f s) : (mapStream f s).mem = s.mem := by rfl
@[simp] theorem strmReport_mem (code k o x s) : (strmReport code k o x s).mem = s.mem := by unfold strmReport; split <;> simp
@[simp] theorem strmOverflow_mem (s) : (strmOverflow s).mem = s.mem := by unfold strmOverflow; split <;> simp
@[simp] theorem reservationStep_mem (s) : (reservationStep s).mem = s.mem := by unfold reservationStep; split <;> simp

/-! ### Machine/Mailbox.lean -/

@[simp] theorem enterMbx_mem (a s) : (enterMbx a s).mem = s.mem := by rfl

@[simp] theorem mbxsEff_mem (f s) : (mbxsEff f s).mem = s.mem := by
  unfold mbxsEff
  dsimp only
  split <;> simp [-List.reduceReplicate]

@[simp] theorem wakeObs_mem (m s) : (wakeObs m s).mem = s.mem := by rfl
@[simp] theorem mbxrEff_mem (f s) : (mbxrEff f s).mem = s.mem := by unfold mbxrEff; dsimp only; (repeat' split) <;> simp
@[simp] theorem mbxqEff_mem (f s) : (mbxqEff f s).mem = s.mem := by rfl
@[simp] theorem performMbxQuery_mem (a m s) : (performMbxQuery a m s).mem = s.mem := by rfl
@[simp] theorem wakeDelivery_mem (m s) : (wakeDelivery m s).mem = s.mem := by rfl
@[simp] theorem appendSys_mem (b s) : (appendSys b s).mem = s.mem := by unfold appendSys; split <;> simp

@[simp] theorem watchdogBy_mem {post : Mailbox → State → State} (h : ∀ b s, (post b s).mem = s.mem) (b s) :
    (watchdogBy post b s).mem = s.mem :=
  by
  unfold watchdogBy
  split
  · rfl
  · split <;> simp [h]

@[simp] theorem watchdog_mem (b s) : (watchdog b s).mem = s.mem := by simp [watchdog]

@[simp] theorem startTimerBy_mem {post : Mailbox → State → State} (h : ∀ b s, (post b s).mem = s.mem) (b s) :
    (startTimerBy post b s).mem = s.mem := by
  simp [startTimerBy, h]

@[simp] theorem startTimer_mem (b s) : (startTimer b s).mem = s.mem := by simp [startTimer]
@[simp] theorem ctlStart_mem (b s) : (ctlStart b s).mem = s.mem := by simp [ctlStart]
@[simp] theorem ctlEnd_mem (b s) : (ctlEnd b s).mem = s.mem := by rfl
@[simp] theorem ctlKill_mem (b s) : (ctlKill b s).mem = s.mem := by simp [ctlKill]
@[simp] theorem applyMbctl_mem (m v s) : (applyMbctl m v s).mem = s.mem := by unfold applyMbctl; split <;> simp
@[simp] theorem deliver_mem (b s) : (deliver b s).mem = s.mem := by unfold deliver; split <;> simp
@[simp] theorem apop_mem (b s) : (apop b s).mem = s.mem := by simp [apop]
@[simp] theorem opush_mem (v b s) : (opush v b s).mem = s.mem := by simp [opush]

/-! ### Machine/Harts.lean -/

@[simp] theorem State.setHart_mem (s x) : (State.setHart s x).mem = s.mem := by rfl
@[simp] theorem hartTimer_mem (h s) : (hartTimer h s).mem = s.mem := by rfl
@[simp] theorem armHart_mem (h v s) : (armHart h v s).mem = s.mem := by simp [armHart]
@[simp] theorem hartGot_mem (h r s) : (hartGot h r s).mem = s.mem := by unfold hartGot; split <;> simp
@[simp] theorem readTime_mem (h s) : (readTime h s).2.mem = s.mem := by rfl
@[simp] theorem hartTime_mem (h s) : (hartTime h s).mem = s.mem := by rfl
@[simp] theorem State.setLine_mem (s x) : (State.setLine s x).mem = s.mem := by rfl
@[simp] theorem cleanLines_mem (q a n s) : (cleanLines q a n s).mem = s.mem := by rfl

@[simp] theorem writeControl_mem (mode m off bytes s) : (writeControl mode m off bytes s).mem = s.mem := by
  unfold writeControl
  (repeat' split) <;> simp

@[simp] theorem writeData_mem (m off bytes s) : (writeData m off bytes s).mem = s.mem := by simp [writeData]

/-! ### Machine/Traps.lean -/

@[simp] theorem landMarks_mem (kind st m r s) : (landMarks kind st m r s).mem = s.mem := by simp [landMarks]
@[simp] theorem landStrand_mem (st s) : (landStrand st s).mem = s.mem := by simp [landStrand]
@[simp] theorem landCtx_mem (s) : (landCtx s).mem = s.mem := by simp [landCtx]
@[simp] theorem landResults_mem (s) : (landResults s).mem = s.mem := by simp [landResults]
@[simp] theorem queueWord_mem (x s) : (queueWord x s).2.mem = s.mem := by rfl
@[simp] theorem resumeUnit_mem (rid s) : (resumeUnit rid s).mem = s.mem := by simp [resumeUnit]
@[simp] theorem applyReply_mem (r s) : (applyReply r s).mem = s.mem := by unfold applyReply; dsimp only; (repeat' split) <;> simp
@[simp] theorem applyReplies_mem (s) : (applyReplies s).mem = s.mem := by simp [applyReplies]
@[simp] theorem replyStep_mem (s) : (replyStep s).mem = s.mem := by simp [replyStep]
@[simp] theorem replyArrive_mem (r s) : (replyArrive r s).mem = s.mem := by simp [replyArrive]
@[simp] theorem resumeAccesses_mem (s) : (resumeAccesses s).mem = s.mem := by simp [resumeAccesses]
@[simp] theorem switchTo_mem (s) : (switchTo s).mem = s.mem := by rfl
@[simp] theorem switchBack_mem (s) : (switchBack s).mem = s.mem := by simp [switchBack]

/-! ### Machine/Pod.lean -/

@[simp] theorem loopBack_mem (port inPort p s) : (loopBack port inPort p s).mem = s.mem := by simp [loopBack]
@[simp] theorem sendPacket_mem (port inPort p s) : (sendPacket port inPort p s).mem = s.mem := by simp [sendPacket]
@[simp] theorem enterPlinth_mem (p s) : (enterPlinth p s).mem = s.mem := by simp [enterPlinth]
@[simp] theorem takePacket_mem (p s) : (takePacket p s).mem = s.mem := by simp [takePacket]
@[simp] theorem departStep_mem (w s) : (departStep w s).mem = s.mem := by unfold departStep; dsimp only; (repeat' split) <;> simp

@[simp] theorem retransmitStep_mem (w s) : (retransmitStep w s).mem = s.mem := by
  unfold retransmitStep
  dsimp only
  (repeat' split) <;> simp

@[simp] theorem wakePower_mem (s) : (wakePower s).mem = s.mem := by simp [wakePower]
@[simp] theorem sendCtl_mem (m s) : (sendCtl m s).mem = s.mem := by simp [sendCtl]
@[simp] theorem ackStep_mem (w seq s) : (ackStep w seq s).mem = s.mem := by simp [ackStep]
@[simp] theorem ctlStep_mem (m s) : (ctlStep m s).mem = s.mem := by simp [ctlStep]
@[simp] theorem swapBanks_mem (s) : (swapBanks s).mem = s.mem := by rfl
@[simp] theorem trySwap_mem (s) : (trySwap s).mem = s.mem := by simp [trySwap]
@[simp] theorem releasePod_mem (s) : (releasePod s).mem = s.mem := by simp [releasePod]
@[simp] theorem receiveStep_mem (p s) : (receiveStep p s).mem = s.mem := by simp [receiveStep]
@[simp] theorem forwardStep_mem (port p s) : (forwardStep port p s).mem = s.mem := by unfold forwardStep; split <;> simp
@[simp] theorem linkStep_mem (c port inPort s) : (linkStep c port inPort s).mem = s.mem := by simp [linkStep]
@[simp] theorem nameBoundary_mem (b s) : (nameBoundary b s).mem = s.mem := by rfl
@[simp] theorem openBoundary_mem (b s) : (openBoundary b s).mem = s.mem := by rfl
@[simp] theorem peerBoundary_mem (b s) : (peerBoundary b s).mem = s.mem := by simp [peerBoundary]
@[simp] theorem stepEff_mem (f s) : (stepEff f s).st.mem = s.mem := by rfl

@[simp] theorem boundaryWindows_mem (n s) : (boundaryWindows n s).mem = s.mem := by
  induction n generalizing s with
  | zero => rfl
  | succ n ih => simp [boundaryWindows, ih]

@[simp] theorem boundaryEvents_mem (b s) : (boundaryEvents b s).mem = s.mem := by rfl
@[simp] theorem laterBoundary_mem (b s) : (laterBoundary b s).mem = s.mem := by rfl
@[simp] theorem boundaryStep_mem (s) : (boundaryStep s).mem = s.mem := by simp [boundaryStep]
@[simp] theorem stopControl_mem (s) : (stopControl s).mem = s.mem := by rfl
@[simp] theorem cutoffStep_mem (s) : (cutoffStep s).mem = s.mem := by simp [cutoffStep]
@[simp] theorem abortRecord_mem (n k s) : (abortRecord n k s).mem = s.mem := by simp [abortRecord]
@[simp] theorem abortStep_mem (n s) : (abortStep n s).mem = s.mem := by simp [abortStep]
@[simp] theorem abortLater_mem (i b s) : (abortLater i b s).mem = s.mem := by simp [abortLater]

@[simp] theorem resumeWindows_mem (n s) : (resumeWindows n s).mem = s.mem := by
  induction n generalizing s with
  | zero => rfl
  | succ n ih => simp [resumeWindows, ih]

@[simp] theorem promote_mem (s) : (promote s).mem = s.mem := by unfold promote; split <;> simp
@[simp] theorem boundaryEnd_mem (s) : (boundaryEnd s).mem = s.mem := by unfold boundaryEnd; split <;> simp
@[simp] theorem exchangeStep_mem (s) : (exchangeStep s).mem = s.mem := by simp [exchangeStep]
@[simp] theorem messageStep_mem (g s) : (messageStep g s).mem = s.mem := by simp [messageStep]
@[simp] theorem timeoutStep_mem (s) : (timeoutStep s).mem = s.mem := by unfold timeoutStep; split <;> simp

/-! ### Machine/Launch.lean -/

@[simp] theorem serveIn_mem (c vf q s) : (serveIn c vf q s).mem = s.mem := by rfl
@[simp] theorem wakeQueue_mem (vf q s) : (wakeQueue vf q s).mem = s.mem := by rfl
@[simp] theorem wakeVf_mem (vf s) : (wakeVf vf s).mem = s.mem := by rfl
@[simp] theorem wakeDispatch_mem (s) : (wakeDispatch s).mem = s.mem := by rfl
@[simp] theorem complete_mem (c s) : (complete c s).mem = s.mem := by simp [complete]
@[simp] theorem retryHeld_mem (vf s) : (retryHeld vf s).mem = s.mem := by simp [retryHeld]
@[simp] theorem answer_mem (c status data core bytes s) : (answer c status data core bytes s).mem = s.mem := by simp [answer]
@[simp] theorem State.setQueue_mem (s vf q cs) : (State.setQueue s vf q cs).mem = s.mem := by unfold State.setQueue; split <;> simp
@[simp] theorem State.setBusy_mem (s vf q b) : (State.setBusy s vf q b).mem = s.mem := by unfold State.setBusy; split <;> simp
@[simp] theorem State.setHead_mem (s vf q x) : (State.setHead s vf q x).mem = s.mem := by unfold State.setHead; split <;> simp

@[simp] theorem finish_mem (next vf q status data core bytes s) : (finish next vf q status data core bytes s).mem = s.mem := by
  unfold finish
  split <;> simp

@[simp] theorem addSignal_mem (vf n v s) : (addSignal vf n v s).mem = s.mem := by unfold addSignal; split <;> simp
@[simp] theorem serveSignal_mem (c vf q s) : (serveSignal c vf q s).mem = s.mem := by simp [serveSignal]
@[simp] theorem serveInterrupt_mem (c vf q s) : (serveInterrupt c vf q s).mem = s.mem := by simp [serveInterrupt]
@[simp] theorem serveWaitsig_mem (c vf q s) : (serveWaitsig c vf q s).mem = s.mem := by simp [serveWaitsig]
@[simp] theorem serveQuery_mem (c vf q s) : (serveQuery c vf q s).mem = s.mem := by unfold serveQuery; split <;> simp
@[simp] theorem checkHead_mem (c vf q s) : (checkHead c vf q s).mem = s.mem := by unfold checkHead; (repeat' split) <;> simp
@[simp] theorem zeroWindows_mem (c s) : (zeroWindows c s).mem = s.mem := by simp [zeroWindows]
@[simp] theorem dropWindows_mem (id s) : (dropWindows id s).mem = s.mem := foldl_mem (fun s i => by split <;> simp) ..
@[simp] theorem loadWindow_mem (id i n s) : (loadWindow id i n s).mem = s.mem := by simp [loadWindow]
@[simp] theorem holdPod_mem (id s) : (holdPod id s).mem = s.mem := by rfl
@[simp] theorem startLoading_mem (l s) : (startLoading l s).mem = s.mem := by simp [startLoading]
@[simp] theorem State.setLaunch_mem (s l) : (State.setLaunch s l).mem = s.mem := by rfl
@[simp] theorem zeroShared_mem (s) : (zeroShared s).mem = s.mem := by simp [zeroShared]
@[simp] theorem startGroup_mem (l t s) : (startGroup l t s).mem = s.mem := by simp [startGroup]
@[simp] theorem groupStep_mem (s) : (groupStep s).mem = s.mem := by unfold groupStep; (repeat' split) <;> simp
@[simp] theorem releaseClaims_mem (s) : (releaseClaims s).mem = s.mem := foldl_mem (fun s i => by split <;> simp) ..
@[simp] theorem freeWindows_mem (id s) : (freeWindows id s).mem = s.mem := by unfold freeWindows; split <;> simp
@[simp] theorem wakePause_mem (vf s) : (wakePause vf s).mem = s.mem := by simp [wakePause]
@[simp] theorem leaveGroup_mem (g back s) : (leaveGroup g back s).mem = s.mem := by unfold leaveGroup; split <;> simp
@[simp] theorem replaceUrgent_mem (s) : (replaceUrgent s).mem = s.mem := by unfold replaceUrgent; (repeat' split) <;> simp
@[simp] theorem groupEndStep_mem (s) : (groupEndStep s).mem = s.mem := by unfold groupEndStep; (repeat' split) <;> simp
@[simp] theorem completeLaunch_mem (id s) : (completeLaunch id s).mem = s.mem := by unfold completeLaunch; (repeat' split) <;> simp
@[simp] theorem requestPark_mem (l s) : (requestPark l s).mem = s.mem := by simp [requestPark]
@[simp] theorem sliceStep_mem (id s) : (sliceStep id s).mem = s.mem := by unfold sliceStep; split <;> simp
@[simp] theorem parkStep_mem (s) : (parkStep s).mem = s.mem := by unfold parkStep; split <;> simp

/-! ### Machine/Service.lean -/

@[simp] theorem fireTick_mem (ctx s) : (fireTick ctx s).mem = s.mem := by simp [fireTick]
@[simp] theorem entryStep_mem (s) : (entryStep s).mem = s.mem := by simp [entryStep]
@[simp] theorem writeLtol_mem (v s) : (writeLtol v s).mem = s.mem := by simp [writeLtol]
@[simp] theorem askThrottle_mem (h s) : (askThrottle h s).mem = s.mem := by simp [askThrottle]
@[simp] theorem throttle_mem (h s) : (throttle h s).mem = s.mem := by unfold throttle; dsimp only; (repeat' split) <;> simp
@[simp] theorem vfPausedStep_mem (vf s) : (vfPausedStep vf s).mem = s.mem := by simp [vfPausedStep]
@[simp] theorem pauseStep_mem (vf s) : (pauseStep vf s).mem = s.mem := by simp [pauseStep]
@[simp] theorem refuse_mem (cmd n s) : (refuse cmd n s).mem = s.mem := by rfl
@[simp] theorem resumeStep_mem (vf o s) : (resumeStep vf o s).mem = s.mem := by simp [resumeStep]
@[simp] theorem swapStep_mem (vf w s) : (swapStep vf w s).mem = s.mem := by simp [swapStep]
@[simp] theorem swapDone_mem (vf s) : (swapDone vf s).mem = s.mem := by simp [swapDone]
@[simp] theorem State.setKey_mem (s k) : (State.setKey s k).mem = s.mem := by rfl
@[simp] theorem pendKey_mem (slot k s) : (pendKey slot k s).mem = s.mem := by rfl
@[simp] theorem switchKey_mem (slot s) : (switchKey slot s).mem = s.mem := by simp [switchKey]
@[simp] theorem repairStep_mem (s) : (repairStep s).mem = s.mem := by rfl
@[simp] theorem measureStep_mem (s) : (measureStep s).mem = s.mem := by rfl
@[simp] theorem measureImage_mem (d s) : (measureImage d s).mem = s.mem := by simp [measureImage]
@[simp] theorem setPatrol_mem (n s) : (setPatrol n s).mem = s.mem := by simp [setPatrol]

@[simp] theorem inArray_mem {f : State → State} (h : ∀ s, (f s).mem = s.mem) (w s) : (inArray w f s).mem = s.mem := by
  simp [inArray, h]

@[simp] theorem takeSnapshot_mem (s) : (takeSnapshot s).mem = s.mem := by rfl

@[simp] theorem writeCounter_mem (level idx n v s) : (writeCounter level idx n v s).mem = s.mem := by
  unfold writeCounter
  (repeat' split) <;> simp

@[simp] theorem configure_mem (p s) : (configure p s).mem = s.mem := by simp [configure]
@[simp] theorem armTick_mem (k ctx v s) : (armTick k ctx v s).mem = s.mem := by simp [armTick]
@[simp] theorem writeRoute_mem (w v s) : (writeRoute w v s).mem = s.mem := by simp [writeRoute]
@[simp] theorem writeBank_mem (bankB dst port s) : (writeBank bankB dst port s).mem = s.mem := by simp [writeBank]
@[simp] theorem invalidate_mem (vf s) : (invalidate vf s).mem = s.mem := by rfl

@[simp] theorem dropPackets_mem (vf n s) : (dropPackets vf n s).mem = s.mem := by
  induction n generalizing s with
  | zero => rfl
  | succ n ih => simp [dropPackets, ih]

/-! ### Machine/Schedule.lean -/

@[simp] theorem turnTo_mem (st s) : (turnTo st s).mem = s.mem := by rfl
@[simp] theorem planned_mem (apart pops s) : (planned apart pops s).mem = s.mem := by rfl
@[simp] theorem observe_mem (issued s) : (observe issued s).mem = s.mem := by unfold observe; split <;> simp
@[simp] theorem countIssues_mem (r s) : (countIssues r s).mem = s.mem := by simp [countIssues]
@[simp] theorem closePhase_mem (s) : (closePhase s).mem = s.mem := by rfl
@[simp] theorem countAll_mem (n s) : (countAll n s).mem = s.mem := by rfl

@[simp] theorem applyArrive_mem (k second agent key av pc s) : (applyArrive k second agent key av pc s).mem = s.mem := by
  simp [applyArrive]

@[simp] theorem applyPush_mem (second agent ch pc s) : (applyPush second agent ch pc s).mem = s.mem := by
  unfold applyPush
  split <;> simp

@[simp] theorem applyYield_mem (id s) : (applyYield id s).mem = s.mem := by unfold applyYield; split <;> simp
@[simp] theorem watchIdle_mem (s) : (watchIdle s).mem = s.mem := by simp [watchIdle]
@[simp] theorem enterIdle_mem (s) : (enterIdle s).mem = s.mem := by simp [enterIdle]

/-! ## Functions that write memory keep its canonical form -/

@[simp] theorem wf_ite (c : Prop) [Decidable c] (m n : List Host.Cell) :
    Memory.wf (if c then m else n) = if c then Memory.wf m else Memory.wf n :=
  apply_ite ..

theorem wf_foldl {α : Type} {f : State → α → State} (hf : ∀ {s} x, Memory.wf s.mem = true → Memory.wf (f s x).mem = true)
    (l : List α) {s : State} (hw : Memory.wf s.mem = true) : Memory.wf (l.foldl f s).mem = true := by
  induction l generalizing s with
  | nil => exact hw
  | cons x l ih => exact ih (hf x hw)

section
variable {f : State → State} (hf : ∀ {s : State}, Memory.wf s.mem = true → Memory.wf (f s).mem = true) {s : State}
include hf

theorem wf_withCore (k) (hw : Memory.wf s.mem = true) : Memory.wf (withCore k f s).mem = true := by
  rw [withCore, focus_mem]
  exact hf (by simpa using hw)

theorem wf_withShadow (hw : Memory.wf s.mem = true) : Memory.wf (withShadow f s).mem = true :=
  hf (s := { s with core := _ }) hw

theorem wf_inCtx (b) (hw : Memory.wf s.mem = true) : Memory.wf (inCtx b f s).mem = true := by
  unfold inCtx
  split
  · exact hf hw
  · exact wf_withShadow hf hw

end

section
variable {s : State} (hw : Memory.wf s.mem = true)
include hw

/-- A fold that writes at addresses of any form. (`wf_foldl` would leave the kernel to compare two forms of the written address.) -/
theorem wf_foldl_poke {α : Type} (at' : State → α → Nat) (bs : State → α → List Byte) (l : List α) :
    Memory.wf (l.foldl (fun s x => s.poke (at' s x) (bs s x)) s).mem = true := by
  induction l generalizing s with
  | nil => exact hw
  | cons x l ih => exact ih (wf_poke hw ..)

/-! ### Machine/Views.lean -/

@[simp] theorem wf_logPhys (r) : Memory.wf (logPhys r s).mem = true := by unfold logPhys; split <;> simp [hw, wf_poke]
@[simp] theorem wf_goViral : Memory.wf (goViral s).mem = true := by simp [goViral, hw]

@[simp] theorem wf_markDirty (vf pa n) : Memory.wf (markDirty vf pa n s).mem = true := by
  unfold markDirty
  split
  · exact hw
  · exact wf_foldl (fun j h => wf_poke h ..) _ hw

@[simp] theorem wf_tierWrite (vf pa bs) : Memory.wf (tierWrite vf pa bs s).mem = true := by simp [tierWrite, hw, wf_poke]
@[simp] theorem wf_sealUnit (raw u plain) : Memory.wf (sealUnit raw u plain s).mem = true := by simp [sealUnit, hw]
@[simp] theorem wf_unitWrite (raw u bs) : Memory.wf (unitWrite raw u bs s).mem = true := by simp [unitWrite, hw]

@[simp] theorem wf_ctlWrite (raw pa bs) : Memory.wf (ctlWrite raw pa bs s).mem = true := by
  unfold ctlWrite
  split
  · exact wf_tierWrite hw ..
  · split
    · exact hw
    · refine wf_foldl (fun u h => ?_) _ hw
      dsimp only
      (repeat' split) <;> simp [h]

@[simp] theorem wf_ctlWriteRuns (rs bs) : Memory.wf (ctlWriteRuns rs bs s).mem = true := by
  induction rs generalizing bs s with
  | nil => exact hw
  | cons r rs ih => exact ih (wf_ctlWrite hw ..) _

theorem wf_hostPut {t : State} {vf va bs} (h : hostPut vf va bs s = some t) : Memory.wf t.mem = true := by
  obtain ⟨rs, -, rfl⟩ := Option.map_eq_some_iff.mp h
  exact wf_ctlWriteRuns hw ..

@[simp] theorem wf_hostPut_getD (vf va bs) : Memory.wf ((hostPut vf va bs s).getD s).mem = true := by
  cases h : hostPut vf va bs s with
  | none => exact hw
  | some t => exact wf_hostPut hw h

@[simp] theorem wf_logGuest (vf r) : Memory.wf (logGuest vf r s).mem = true := by
  unfold logGuest
  dsimp only
  split
  · exact hw
  split
  · simp [hw]
  split
  · simp [hw]
  split
  · split
    · simp [hw]
    · next h => rw [State.setVf_mem]; exact wf_hostPut_getD (wf_hostPut hw h) ..
  · simp [hw]

@[simp] theorem wf_logEvent (type unit core vf guest phys detail) :
    Memory.wf (logEvent type unit core vf guest phys detail s).mem = true := by
  simp [logEvent, hw]

@[simp] theorem wf_noteSoft (a n guest) : Memory.wf (noteSoft a n guest s).mem = true := wf_foldl (fun w h => by simp [h]) _ hw
@[simp] theorem wf_noteBad (a guest) : Memory.wf (noteBad a guest s).mem = true := by simp [noteBad, hw]
@[simp] theorem wf_noteUnit (code u guest) : Memory.wf (noteUnit code u guest s).mem = true := by simp [noteUnit, hw]
@[simp] theorem wf_wcFlush (e) : Memory.wf (wcFlush e s).mem = true := by unfold wcFlush; dsimp only; (repeat' split) <;> simp [hw]
@[simp] theorem wf_wcEvict (e) : Memory.wf (wcEvict e s).mem = true := by simp [wcEvict, hw]
@[simp] theorem wf_wcRoom : Memory.wf (wcRoom s).mem = true := wf_foldl (fun e h => wf_wcEvict h e) _ hw

@[simp] theorem wf_wcArrive (w raw u bs) : Memory.wf (wcArrive w raw u bs s).mem = true := by
  unfold wcArrive
  dsimp only
  (repeat' split) <;> simp [hw]

@[simp] theorem wf_viewWrite (w rs) : Memory.wf (viewWrite w rs s).mem = true :=
  wf_foldl (fun x h => wf_wcArrive h ..) _ (wf_foldl (fun r h => by simp [h]) _ hw)

@[simp] theorem wf_viewWriteNow (w rs) : Memory.wf (viewWriteNow w rs s).mem = true :=
  wf_foldl (fun x h => by simp [h]) _ (wf_viewWrite hw ..)

/-! ### Machine/Records.lean -/

@[simp] theorem wf_stepFail (code) : Memory.wf (stepFail code s).mem = true := by simp [stepFail, hw]

@[simp] theorem wf_relatchHere : Memory.wf (relatchHere s).mem = true := by
  unfold relatchHere
  split
  · split
    · exact wf_foldl_poke hw (fun s (p : Nat × List Byte) => trapArea s + p.1) (fun _ p => p.2) _
    · exact hw
  · exact hw

@[simp] theorem wf_relatch : Memory.wf (relatch s).mem = true := by
  unfold relatch
  split
  · exact hw
  · exact wf_withShadow wf_relatchHere (wf_relatchHere hw)

@[simp] theorem wf_ringWrite (n r) : Memory.wf (ringWrite n r s).mem = true := by simp [ringWrite, hw, wf_poke]
@[simp] theorem wf_portWrite : Memory.wf (portWrite s).mem = true := by unfold portWrite; (repeat' split) <;> simp [hw]
@[simp] theorem wf_recordStep : Memory.wf (recordStep s).mem = true := by simp [recordStep, hw]

/-! ### Machine/Access.lean -/

@[simp] theorem wf_attachPfr (second r) : Memory.wf (attachPfr second r s).mem = true := by
  unfold attachPfr
  split
  · exact hw
  · dsimp only
    rw [stage_mem]
    refine wf_poke (wf_poke ?_ _ _) _ _
    rw [State.mapCtxNum_mem]
    exact hw

@[simp] theorem wf_shadowFault (a va base size) : Memory.wf (shadowFault a va base size s).mem = true := by
  unfold shadowFault
  split <;> simp [hw]

@[simp] theorem wf_walkDone (id) : Memory.wf (walkDone id s).mem = true := by
  unfold walkDone
  split
  · exact hw
  · next a _ =>
    have hx : Memory.wf (xlateAccess a s).2.mem = true := by simp [hw]
    split
    · split
      · next heq => exact wf_shadowFault (by simpa [heq] using hx) ..
      · next heq => simpa [heq] using hx
    · split <;> simp [hw]

@[simp] theorem wf_walkEnds (id) : Memory.wf (walkEnds id s).mem = true := by
  unfold walkEnds
  split
  · exact wf_walkDone hw _
  · exact wf_withShadow (fun h => wf_walkDone h _) hw

@[simp] theorem wf_writeAll (a data) : Memory.wf (writeAll a data s).mem = true := by
  unfold writeAll
  dsimp only
  split
  · split <;> simp [hw]
  · refine wf_foldl (fun c h => wf_foldl (fun r h => ?_) _ h) _ hw
    split <;> simp [h, wf_poke]

@[simp] theorem wf_noteReads (a) : Memory.wf (noteReads a s).mem = true := wf_foldl (fun x h => by simp [h, countBytes_mem]) _ hw

@[simp] theorem wf_performLoad (a f) : Memory.wf (performLoad a f s).mem = true := by
  unfold performLoad
  (repeat' split) <;> simp [hw]

@[simp] theorem wf_performAtomic (a) : Memory.wf (performAtomic a s).mem = true := by
  unfold performAtomic
  dsimp only
  (repeat' split) <;> simp [hw]

@[simp] theorem wf_noteTrap (e) : Memory.wf (noteTrap e s).mem = true := by simp [noteTrap, hw]
@[simp] theorem wf_afterTrap (e timed) : Memory.wf (afterTrap e timed s).mem = true := by simp [afterTrap, hw]

/-! ### Machine/Gather.lean -/

@[simp] theorem wf_gatherLane (o l) : Memory.wf (gatherLane o l s).mem = true := by simp [gatherLane, hw, wf_poke]

@[simp] theorem wf_gatherPerform (id) : Memory.wf (gatherPerform id s).mem = true := by
  unfold gatherPerform
  split
  · exact hw
  · next o _ =>
    have h : ∀ l : List (Nat × Nat × W32 × Nat), Memory.wf (l.foldl (fun s x => gatherLane o x s) s).mem = true := fun l =>
      wf_foldl (fun x h => wf_gatherLane h ..) l hw
    dsimp only
    (repeat' split) <;> simp [h]

/-! ### Machine/Matrix.lean -/

@[simp] theorem wf_loseAcc (z) : Memory.wf (loseAcc z s).mem = true := by simp [loseAcc, hw, wf_poke]

@[simp] theorem wf_carryRead (id src off n pc second) : Memory.wf (carryRead id src off n pc second s).mem = true :=
  wf_foldl (fun w h => by simp [h]) _ hw

@[simp] theorem wf_oloadStep (id) : Memory.wf (oloadStep id s).mem = true := by unfold oloadStep; split <;> simp [hw, wf_poke]

@[simp] theorem wf_beginTile (c) : Memory.wf (beginTile c s).mem = true := by
  have h : ∀ {t : State} (w : Word), Memory.wf t.mem = true →
      Memory.wf (c.reads.foldl (fun s x => noteSoft (slotAddr s.arr.idx x) 32768 w s) t).mem = true :=
    fun w => wf_foldl (fun x h => wf_noteSoft h ..) _
  unfold beginTile
  dsimp only
  (repeat' split) <;> simp [h, hw]

@[simp] theorem wf_tryStart (c) : Memory.wf (tryStart c s).mem = true := by unfold tryStart; (repeat' split) <;> simp [hw]

@[simp] theorem wf_serveTiles (n) : Memory.wf (serveTiles n s).mem = true := by
  induction n generalizing s with
  | zero => exact hw
  | succ n ih =>
    unfold serveTiles
    split
    · exact hw
    · dsimp only
      split <;> simp [ih, hw]

@[simp] theorem wf_applyRun (r) : Memory.wf (applyRun r s).mem = true := by simp [applyRun, hw, wf_poke]

@[simp] theorem wf_settle (z n) : Memory.wf (settle z n s).mem = true := by
  induction n generalizing s with
  | zero => exact hw
  | succ n ih =>
    unfold settle
    split
    · split <;> simp [ih, hw]
    · exact hw

@[simp] theorem wf_settleAll : Memory.wf (settleAll s).mem = true := wf_foldl (fun _ h => wf_settle h ..) _ hw
@[simp] theorem wf_tileComplete (id) : Memory.wf (tileComplete id s).mem = true := by unfold tileComplete; split <;> simp [hw]

@[simp] theorem wf_captureDrain (pos arrival tag z id) : Memory.wf (captureDrain pos arrival tag z id s).mem = true := by
  unfold captureDrain
  dsimp only
  (repeat' split) <;> simp [hw]

@[simp] theorem wf_drainComplete (id) : Memory.wf (drainComplete id s).mem = true := by
  unfold drainComplete
  split <;> simp [hw, wf_poke]

@[simp] theorem wf_zeroAcc (z) : Memory.wf (zeroAcc z s).mem = true := by simp [zeroAcc, hw, wf_memZero]
@[simp] theorem wf_takeImage (t bs) : Memory.wf (takeImage t bs s).mem = true := by simp [takeImage, hw, wf_poke]
@[simp] theorem wf_mresRead (id) : Memory.wf (mresRead id s).mem = true := by unfold mresRead; split <;> simp [hw]
@[simp] theorem wf_leaveArray (r) : Memory.wf (leaveArray r s).mem = true := by simp [leaveArray, hw]
@[simp] theorem wf_formImage (c kd r) : Memory.wf (formImage c kd r s).mem = true := by simp [formImage, hw]
@[simp] theorem wf_imageBeats (base lo hi) : Memory.wf (imageBeats base lo hi s).mem = true := by simp [imageBeats, hw, wf_poke]

@[simp] theorem wf_stopWrite (id) : Memory.wf (stopWrite id s).mem = true := by
  unfold stopWrite
  split
  · next due kd c r _ _ =>
    have image : ∀ base j, Memory.wf (imageBeats base j j (formImage c kd r s)).mem = true := by simp [hw]
    dsimp only
    split
    · exact hw
    · split
      · exact image ..
      · split
        · rw [resumeStopped_mem, addDue_mem, State.mapEng_mem, mapTq_mem]
          exact wf_leaveArray (by rw [carryWrite_mem]; exact image ..) _
        · rw [addDue_mem, State.mapEng_mem, mapTq_mem]
          exact wf_leaveArray (by rw [carryWrite_mem]; exact image ..) _
  · exact hw

@[simp] theorem wf_tileStart : Memory.wf (tileStart s).mem = true := by
  have serve : ∀ {t : State}, Memory.wf t.mem = true →
      Memory.wf (stopTile (serveTiles (t.ctx.tq.length + 1) t)).mem = true := fun h => by simp [h]
  unfold tileStart
  dsimp only
  split <;> split
  · exact wf_withShadow serve (by simp [hw])
  · simp [hw]
  · exact wf_withShadow serve hw
  · simp [hw]

/-! ### Machine/Segments.lean -/

@[simp] theorem wf_escalate (code c) : Memory.wf (escalate code c s).mem = true := wf_inCtx (fun h => by simp [h]) _ hw

@[simp] theorem wf_beginReplay (f faulted) : Memory.wf (beginReplay f faulted s).mem = true := by
  unfold beginReplay
  dsimp only
  rw [count_mem]
  refine wf_logEvent ?_ ..
  rw [foldl_mem fun s d => addDue_mem .., foldl_mem fun s d => addDue_mem ..]
  simp [hw]

@[simp] theorem wf_discardAcc (c) : Memory.wf (discardAcc c s).mem = true := by unfold discardAcc; split <;> simp [hw]
@[simp] theorem wf_endFaulted (x) : Memory.wf (endFaulted x s).mem = true := by simp [endFaulted, hw]

@[simp] theorem wf_replayStep : Memory.wf (replayStep s).mem = true := by
  unfold replayStep
  extract_lets s1 s2 s3
  have h2 : Memory.wf s2.mem = true := by dsimp only [s2, s1]; split <;> simp [hw]
  have h3 : Memory.wf s3.mem = true := h2
  clear_value s2 s3
  split
  · exact h2
  · extract_lets s4
    have h4 : Memory.wf s4.mem = true := wf_foldl (fun y h => by split <;> simp [h]) _ h3
    clear_value s4
    split
    · exact wf_beginReplay h4 ..
    · exact wf_foldl (fun y h => wf_endFaulted h y) _ (by rw [foldr_mem fun s x => giveBack_mem ..]; exact h4)

/-! ### Machine/Copy.lean -/

@[simp] theorem wf_haltCopy (c wr va base size) : Memory.wf (haltCopy c wr va base size s).mem = true := by
  unfold haltCopy
  dsimp only
  (repeat' split) <;> simp [hw]

@[simp] theorem wf_readCopyRun (id glob run ptr) : Memory.wf (readCopyRun id glob run ptr s).2.mem = true := by
  refine wf_foldl (fun u h => ?_) _ (by simp [hw, countBytes_mem])
  (repeat' split) <;> simp [h]

@[simp] theorem wf_readCopyRuns (id glob rs p) : Memory.wf (readCopyRuns id glob rs p s).2.mem = true := by
  induction rs generalizing p s with
  | nil => exact hw
  | cons r rs ih => simp [readCopyRuns, ih, wf_readCopyRun hw]

@[simp] theorem wf_readBeat (c) : Memory.wf (readBeat c s).mem = true := by
  unfold readBeat
  dsimp only
  (repeat' split) <;> simp [hw]

@[simp] theorem wf_pokeSome (at' bs) : Memory.wf (pokeSome at' bs s).mem = true := wf_foldl (fun _ h => wf_poke h ..) _ hw

@[simp] theorem wf_writeLocal (c off bs) : Memory.wf (writeLocal c off bs s).mem = true := by
  refine wf_foldl (fun m h => ?_) _ hw
  dsimp only
  split <;> simp [h]

@[simp] theorem wf_writeGlobal (c rs va bs) : Memory.wf (writeGlobal c rs va bs s).mem = true := by simp [writeGlobal, hw]

@[simp] theorem wf_writeBeat (c b) : Memory.wf (writeBeat c b s).mem = true := by
  have poked : ∀ {t : State} (a : Nat) (b : Option Byte), Memory.wf t.mem = true →
      Memory.wf (match b with | some e => t.poke a [e] | none => t).mem = true := fun a b h => by
    split
    · exact wf_poke h ..
    · exact h
  unfold writeBeat
  dsimp only
  split
  · (repeat' split) <;> simp [hw]
  · split
    · simp [hw]
    · split
      · simp [hw]
      · split
        · rw [beatWritten_mem]; exact wf_writeGlobal (poked _ _ (by simp [hw])) ..
        · split <;> simp [hw]
  · rw [beatWritten_mem]; exact wf_writeLocal (poked _ _ hw) ..

@[simp] theorem wf_writeBeats (id n) : Memory.wf (writeBeats id n s).mem = true := by
  induction n generalizing s with
  | zero => exact hw
  | succ n ih =>
    unfold writeBeats
    dsimp only
    (repeat' split) <;> simp [ih, hw]

@[simp] theorem wf_heldWalk (c w) : Memory.wf (heldWalk c w s).mem = true := by simp [heldWalk, hw]
@[simp] theorem wf_copyStep (id) : Memory.wf (copyStep id s).mem = true := by unfold copyStep; (repeat' split) <;> simp [hw]
@[simp] theorem wf_wcStep (unit late) : Memory.wf (wcStep unit late s).mem = true := by unfold wcStep; split <;> simp [hw]

/-! ### Machine/Stream.lean -/

@[simp] theorem wf_performStream (a openIt stamp) : Memory.wf (performStream a openIt stamp s).mem = true := by
  unfold performStream
  split <;> simp [hw]

@[simp] theorem wf_noteRuns (rs va) : Memory.wf (noteRuns rs va s).mem = true := by
  induction rs generalizing va s with
  | nil => exact hw
  | cons r rs ih => exact ih (wf_noteSoft hw ..) _

@[simp] theorem wf_fillSlot (x bs) : Memory.wf (fillSlot x bs s).mem = true := by simp [fillSlot, hw, wf_poke]

@[simp] theorem wf_strmDecode (x k o ready) : Memory.wf (strmDecode x k o ready s).mem = true := by
  unfold strmDecode
  split
  · exact hw
  · extract_lets off va runs s1 fill
    have noted : Memory.wf s1.mem = true := wf_noteRuns hw ..
    have filled : ∀ {t : State} bs p, Memory.wf t.mem = true → Memory.wf (fill bs p t).mem = true := fun bs p h => by
      dsimp only [fill]
      split
      · rw [State.setSlot_mem]; exact wf_fillSlot h ..
      · exact h
    clear_value fill s1
    split
    · rw [mapStream_mem, strmReport_mem]; exact filled _ _ (wf_noteUnit noted ..)
    · split
      · exact filled _ _ noted
      · rw [mapStream_mem, strmReport_mem]; exact filled _ _ noted

@[simp] theorem wf_drainBlock (x) : Memory.wf (drainBlock x s).mem = true := by
  unfold drainBlock
  dsimp only
  (repeat' split) <;> simp [hw]

@[simp] theorem wf_drainStep : Memory.wf (drainStep s).mem = true := by unfold drainStep; split <;> simp [hw]

@[simp] theorem wf_lateDecode (k) : Memory.wf (lateDecode k s).mem = true := by
  unfold lateDecode
  dsimp only
  (repeat' split) <;> simp [hw]

/-! ### Machine/Mailbox.lean -/

@[simp] theorem wf_performMbxSend (a m) : Memory.wf (performMbxSend a m s).mem = true := by
  unfold performMbxSend
  dsimp only
  (repeat' split) <;> simp [hw]

/-! ### Machine/Harts.lean -/

@[simp] theorem wf_tierEvent (type unit q a) : Memory.wf (tierEvent type unit q a s).mem = true := by simp [tierEvent, hw]
@[simp] theorem wf_tierSoft (q pa n) : Memory.wf (tierSoft q pa n s).mem = true := wf_foldl (fun w h => by simp [h]) _ hw

@[simp] theorem wf_tierRead (q pa n) : Memory.wf (tierRead q pa n s).2.mem = true := by
  unfold tierRead
  (repeat' split) <;> simp [hw]

theorem wf_tierStore {t : State} {q pa bs} (h : tierStore q pa bs s = some t) : Memory.wf t.mem = true := by
  unfold tierStore at h
  split at h
  · cases h
  · split at h
    · cases h
    · cases h; exact wf_ctlWrite hw ..

@[simp] theorem wf_fillLine (h q l) : Memory.wf (fillLine h q l s).2.mem = true := by
  unfold fillLine
  split
  · exact hw
  · have h : Memory.wf (tierRead q (lineBytes * l) lineBytes s).2.mem = true := by simp [hw]
    split <;> next heq => simpa [heq] using h

@[simp] theorem wf_cachedByte (h q a new) : Memory.wf (cachedByte h q a new s).2.mem = true := by
  unfold cachedByte
  dsimp only
  (repeat' split) <;> simp [hw]

@[simp] theorem wf_cachedBytes (h q a bs) : Memory.wf (cachedBytes h q a bs s).2.mem = true := by
  induction bs generalizing a s with
  | nil => exact hw
  | cons b bs ih =>
    have h : Memory.wf (cachedByte h q a b s).2.mem = true := wf_cachedByte hw ..
    unfold cachedBytes
    split <;> next heq => rw [heq] at h; simp [ih, h]

@[simp] theorem wf_lineBack (slot l) : Memory.wf (lineBack slot l s).mem = true := by
  unfold lineBack
  split
  · exact hw
  · dsimp only
    split
    · exact hw
    · split
      · next h => rw [foldl_mem fun s w => State.markBad_mem ..]; exact wf_tierStore (by exact hw) h
      · simpa using hw

@[simp] theorem wf_readData (h m off n) : Memory.wf (readData h m off n s).mem = true := by simp [readData, hw]
@[simp] theorem wf_hartLoad (h pa n excl) : Memory.wf (hartLoad h pa n excl s).mem = true := by unfold hartLoad; split <;> simp [hw]

@[simp] theorem wf_hartStore (h mode pa bytes excl) : Memory.wf (hartStore h mode pa bytes excl s).mem = true := by
  unfold hartStore
  dsimp only
  split
  · simp [hw]
  · split <;> simp [hw]
  · split
    · next h => simp [wf_tierStore hw h]
    · simp [hw]
  all_goals simp [hw]

@[simp] theorem wf_hartAmo (h pa n op v) : Memory.wf (hartAmo h pa n op v s).mem = true := by simp [hartAmo, hw]

/-! ### Machine/Traps.lean -/

@[simp] theorem wf_performOf (a) : Memory.wf (performOf a s).mem = true := by unfold performOf; split <;> simp [hw]

@[simp] theorem wf_performHere (id) : Memory.wf (performHere id s).mem = true := by
  unfold performHere
  (repeat' split) <;> simp [hw]

@[simp] theorem wf_performAccess (id) : Memory.wf (performAccess id s).mem = true := by
  unfold performAccess
  split
  · exact wf_performHere hw _
  · exact wf_withShadow (fun h => wf_performHere h _) hw

@[simp] theorem wf_writeHead : Memory.wf (writeHead s).mem = true := by unfold writeHead; split <;> simp [hw, wf_poke]

@[simp] theorem wf_writeFrame : Memory.wf (writeFrame s).mem = true := by
  unfold writeFrame
  dsimp only
  split
  · simpa using hw
  · refine wf_foldl_poke ?_ (fun _ (p : Nat × List Byte) => _ + p.1) (fun _ p => p.2) _
    exact wf_memZero (by simpa using hw) ..

@[simp] theorem wf_handlerStep : Memory.wf (handlerStep s).mem = true := by
  unfold handlerStep
  dsimp only
  (repeat' split) <;> simp [hw]

/-! ### Machine/Pod.lean -/

@[simp] theorem wf_decideStep : Memory.wf (decideStep s).mem = true := by
  unfold decideStep
  extract_lets alone d s1 abort podc word s2 pod s3
  have h1 : Memory.wf s1.mem = true := by dsimp only [s1, d]; split <;> simp [hw]
  have h3 : Memory.wf s3.mem = true :=
    wf_foldl (fun p h => wf_withCore (fun h => wf_relatch (by simpa using h)) _ h) _ h1
  clear_value s3
  dsimp only
  split
  · simpa using h3
  · split
    · exact wf_goViral (wf_logEvent (by exact h3) ..)
    · rw [foldl_addDue_mem]; exact h3

@[simp] theorem wf_applyStep : Memory.wf (applyStep s).mem = true := by
  unfold applyStep
  split
  · exact wf_decideStep hw
  · dsimp only
    split
    all_goals
      split
      · simp [hw]
      · exact wf_foldl (fun v h => by rw [countAt_mem]; exact wf_poke h ..) _ (by simp [hw])

/-! ### Machine/Launch.lean -/

@[simp] theorem wf_serveCopyin (c vf q) : Memory.wf (serveCopyin c vf q s).mem = true := by simp [serveCopyin, hw]

@[simp] theorem wf_readRun (vf va r) : Memory.wf (readRun vf va r s).2.mem = true := by
  have scrubbed : Memory.wf ((s.softAt r.1 r.2.1).foldl (fun s w => nextScrub w
      (logEvent 1 5 0x3FF vf (BitVec.ofNat 64 va) (BitVec.ofNat 64 (8 * w)) 0 s)) s).mem = true :=
    wf_foldl (fun w h => by simp [h]) _ hw
  unfold readRun
  dsimp only
  split
  · simp [hw]
  · split
    · exact wf_logEvent scrubbed ..
    · exact scrubbed

@[simp] theorem wf_readRuns (vf va rs) : Memory.wf (readRuns vf va rs s).2.mem = true := by
  induction rs generalizing va s with
  | nil => exact hw
  | cons r rs ih =>
    have h : Memory.wf (readRun vf va r s).2.mem = true := wf_readRun hw ..
    unfold readRuns
    split <;> next heq => rw [heq] at h; simp [ih, h]

@[simp] theorem wf_serveCopyout (c vf q) : Memory.wf (serveCopyout c vf q s).mem = true := by simp [serveCopyout, hw]
@[simp] theorem wf_serveHead (vf q) : Memory.wf (serveHead vf q s).mem = true := by unfold serveHead; (repeat' split) <;> simp [hw]
@[simp] theorem wf_resetArray (j) : Memory.wf (resetArray j s).mem = true := by simp [resetArray, hw, wf_memZero]
@[simp] theorem wf_clearCore (k) : Memory.wf (clearCore k s).mem = true := wf_withCore (fun h => wf_memZero h ..) _ hw

@[simp] theorem wf_loadData (l again d) : Memory.wf (loadData l again d s).mem = true := by
  unfold loadData
  split
  · split <;> simp [hw]
  · refine wf_foldl (fun c h => ?_) _ hw
    split
    · exact wf_poke h ..
    · exact h
  · exact wf_foldl_poke hw (fun _ k => poolAddr k d.off) (fun _ _ => d.all) _

@[simp] theorem wf_load (l wins again) : Memory.wf (load l wins again s).mem = true := by
  unfold load
  dsimp only
  refine wf_foldl (fun k h => ?_) _ ?_
  · exact wf_withCore (by exact fun h => h) _ h
  · rw [foldl_mem fun s x => loadWindow_mem ..]
    refine wf_foldl (fun d h => wf_loadData h ..) _ ?_
    have cleared : ∀ js ks,
        Memory.wf (List.foldl (fun s k => clearCore k s) (List.foldl (fun s j => resetArray j s) s js) ks).mem = true :=
      fun js ks => wf_foldl (fun k h => wf_clearCore h k) _ (wf_foldl (fun j h => wf_resetArray h j) _ hw)
    split
    · rw [foldl_mem fun s c => by simp]; exact cleared ..
    · exact cleared ..

@[simp] theorem wf_dispatchNew (h gbase) : Memory.wf (dispatchNew h gbase s).mem = true := by simp [dispatchNew, hw]
@[simp] theorem wf_dispatchAgain (l gbase) : Memory.wf (dispatchAgain l gbase s).mem = true := by simp [dispatchAgain, hw]

@[simp] theorem wf_dispatchStep : Memory.wf (dispatchStep s).mem = true := by
  unfold dispatchStep
  dsimp only
  (repeat' split) <;> simp [hw]

/-! ### Machine/Service.lean -/

@[simp] theorem wf_zeroSram : Memory.wf (zeroSram s).mem = true := by simp [zeroSram, hw, wf_filter]
@[simp] theorem wf_leaveS3 : Memory.wf (leaveS3 s).mem = true := by simp [leaveS3, hw]
@[simp] theorem wf_serveAll : Memory.wf (serveAll s).mem = true := by simp [serveAll, hw]
@[simp] theorem wf_exitStep : Memory.wf (exitStep s).mem = true := by simp [exitStep, hw]
omit hw in
@[simp] theorem wf_resetStep : Memory.wf (resetStep s).mem = true := by unfold resetStep; dsimp only; split <;> rfl
@[simp] theorem wf_marchRow (row) : Memory.wf (marchRow row s).mem = true := by simp [marchRow, hw]

@[simp] theorem wf_marchStep (failing) : Memory.wf (marchStep failing s).mem = true := by
  have marched (v) : Memory.wf (failing.foldl (fun s r => marchRow r s) { s with svc := v }).mem = true :=
    wf_foldl (fun r h => wf_marchRow h r) _ hw
  unfold marchStep
  extract_lets s1 s2
  split
  · exact wf_goViral (marched _)
  · rw [addDue_mem]; exact marched _

@[simp] theorem wf_runStep : Memory.wf (runStep s).mem = true := by simp [runStep, hw]
@[simp] theorem wf_scrubWord (addr) : Memory.wf (scrubWord addr s).mem = true := by simp [scrubWord, hw]
@[simp] theorem wf_scrubLine (slot l w) : Memory.wf (scrubLine slot l w s).mem = true := by unfold scrubLine; split <;> simp [hw]
@[simp] theorem wf_scrubEntry (i) : Memory.wf (scrubEntry i s).mem = true := by simp [scrubEntry, hw]
@[simp] theorem wf_upset (u) : Memory.wf (upset u s).mem = true := by unfold upset; split <;> simp [hw]
@[simp] theorem wf_writeReg (r) : Memory.wf (writeReg r s).mem = true := by unfold writeReg; split <;> simp [hw]

@[simp] theorem wf_stopCore (k) : Memory.wf (stopCore k s).mem = true := by
  refine wf_withCore (fun {s} h => ?_) _ hw
  dsimp only
  refine wf_settleAll ?_
  rw [State.mapArr_mem]
  exact wf_foldl (fun z h => wf_loseAcc h z) _ (by simpa using h)

@[simp] theorem wf_wipeCore (k) : Memory.wf (wipeCore k s).mem = true := by simp [wipeCore, hw]

@[simp] theorem wf_resetVfStep (vf) : Memory.wf (resetVfStep vf s).mem = true := by
  have wiped : ∀ ks js,
      Memory.wf (List.foldl (fun s j => resetArray j s) (List.foldl (fun s k => wipeCore k s) s ks) js).mem = true :=
    fun ks js => wf_foldl (fun j h => wf_resetArray h j) _ (wf_foldl (fun k h => wf_wipeCore h k) _ hw)
  unfold resetVfStep
  dsimp only
  split
  · exact hw
  · simp [hw]
  · simp [wiped]
  · simp [hw]
  · simp [hw]

@[simp] theorem wf_beginReset (c) : Memory.wf (beginReset c s).mem = true := by
  unfold beginReset
  dsimp only
  rw [addDue_mem, State.setVf_mem]
  refine wf_foldl (fun k h => wf_stopCore h k) _ ?_
  split <;> simp [hw]

@[simp] theorem wf_acceptCapsule (c) : Memory.wf (acceptCapsule c s).mem = true := by simp [acceptCapsule, hw]

/-! ### Machine/Schedule.lean -/

@[simp] theorem wf_bootMarch : Memory.wf (bootMarch s).mem = true := by simp [bootMarch, hw]

@[simp] theorem wf_applyStaged (u) : Memory.wf (applyStaged u s).mem = true := by
  cases u with
  | bini | expect | yield | mbctl | obs | arrive => simp [applyStaged, hw]
  | frameHead => exact wf_withCore (fun h => wf_inCtx wf_writeHead _ h) _ hw
  | _ => exact wf_withCore (fun h => by simp [h]) _ hw

@[simp] theorem wf_commit : Memory.wf (commit s).mem = true := by
  unfold commit
  split
  · exact hw
  · exact wf_foldl (fun p h => wf_foldl (fun u h => wf_applyStaged h u) _ h) _ hw

@[simp] theorem wf_advance : Memory.wf (advance s).mem = true := by simp [advance, hw]

end

/-! ## Outcomes, and the operations that instructions and events go through -/

/-- The outcome, where it is a next state, leaves memory in canonical form. -/
def CanonicalNext (o : Out) : Prop := ∀ t, o = .next t → Memory.wf t.mem = true

@[simp] theorem canonicalNext_next (t : State) : CanonicalNext (.next t) ↔ Memory.wf t.mem = true :=
  ⟨fun h => h t rfl, fun h _ e => by cases e; exact h⟩

@[simp] theorem canonicalNext_fault (r : Fault) : CanonicalNext (.fault r) := fun _ e => nomatch e

section
variable {s : State} (hw : Memory.wf s.mem = true)
include hw

/-- What an issue leaves: held, waiting and trapping keep memory, so the effect alone has to keep the form. -/
theorem canonicalNext_issue {h : Hdr} {long : Bool} {us : List Use} {n : Need} {check : State → Option Stop} {eff : State → Eff}
    (he : ∀ {s}, Memory.wf s.mem = true → Memory.wf (eff s).st.mem = true) : CanonicalNext (issue h long us n check eff s) := by
  unfold issue
  split
  · simp [hw]
  · simp [hw]
  · simp [hw]
  · simpa using he (by simpa using hw)

/-- An event of a core: what it does to the state with that core in focus. -/
theorem canonicalNext_onCore {f : State → State} (hf : ∀ {s}, Memory.wf s.mem = true → Memory.wf (f s).mem = true) (k : Nat) :
    CanonicalNext (onCore k f s) := by
  unfold onCore
  split
  · simpa using hf (by simpa using hw)
  · simp

theorem canonicalNext_onUnit {f : State → State} (hf : ∀ {s}, Memory.wf s.mem = true → Memory.wf (f s).mem = true) (ok : Bool) :
    CanonicalNext (onUnit ok f s) := by
  unfold onUnit
  split
  · simpa using hf hw
  · simp

theorem canonicalNext_serveIf (p : Capsule → Bool) (vf q : Nat) : CanonicalNext (serveIf p vf q s) :=
  canonicalNext_onUnit hw (fun h => by split <;> simp [h]) _

theorem canonicalNext_execTrap (h : Hdr) (f : I16) : CanonicalNext (execTrap h f s) := by
  unfold execTrap
  split
  · simp [hw]
  · simp [hw]
  · simp [hw]
  · dsimp only
    split <;> simp [hw]

theorem canonicalNext_execSleep (h : Hdr) : CanonicalNext (execSleep h s) := by
  unfold execSleep
  (repeat' split) <;> simp [hw]

theorem canonicalNext_execRett (h : Hdr) : CanonicalNext (execRett h s) := by
  unfold execRett
  split <;> simp [hw]

theorem canonicalNext_execCtxsw (h : Hdr) : CanonicalNext (execCtxsw h s) := by
  unfold execCtxsw
  split <;> simp [hw]

theorem canonicalNext_execStepPod (h : Hdr) (f : R2T) : CanonicalNext (execStepPod h f s) := by
  unfold execStepPod
  split <;> simp [hw]

theorem canonicalNext_execVcvt (h : Hdr) (f : Vc) : CanonicalNext (execVcvt h f s) := by
  unfold execVcvt
  split
  · exact canonicalNext_issue hw fun h => by simpa using h
  · simp [hw]

/-! ## Instructions, by the shape of their meaning -/

@[simp] theorem canonicalNext_issueAccess (h long us n q) : CanonicalNext (issueAccess h long us n q s) := by
  unfold issueAccess
  exact canonicalNext_issue hw fun h => by simpa using h

@[simp] theorem canonicalNext_issueS (h us lat d v) : CanonicalNext (issueS h us lat d v s) := by
  unfold issueS
  exact canonicalNext_issue hw fun h => by simpa using h

@[simp] theorem canonicalNext_issueRRR (h f lat op) : CanonicalNext (issueRRR h f lat op s) := by
  unfold issueRRR
  exact canonicalNext_issueS hw _ _ _ _ _

@[simp] theorem canonicalNext_issueRR (h f op) : CanonicalNext (issueRR h f op s) := by
  unfold issueRR
  exact canonicalNext_issueS hw _ _ _ _ _

@[simp] theorem canonicalNext_issueRRI (h f op) : CanonicalNext (issueRRI h f op s) := by
  unfold issueRRI
  exact canonicalNext_issueS hw _ _ _ _ _

@[simp] theorem canonicalNext_issueBranch (h f cond) : CanonicalNext (issueBranch h f cond s) := by
  unfold issueBranch
  exact canonicalNext_issue hw fun h => by split <;> simp [h]

@[simp] theorem canonicalNext_issueCsr (h f op) : CanonicalNext (issueCsr h f op s) := by
  unfold issueCsr
  exact canonicalNext_issue hw fun h => by simpa using h

@[simp] theorem canonicalNext_issueLd (h f n signed) : CanonicalNext (issueLd h f n signed s) := by
  unfold issueLd
  exact canonicalNext_issueAccess hw _ _ _ _ _

@[simp] theorem canonicalNext_issueSt (h f n) : CanonicalNext (issueSt h f n s) := by
  unfold issueSt
  exact canonicalNext_issueAccess hw _ _ _ _ _

@[simp] theorem canonicalNext_issueAtom (h f op) : CanonicalNext (issueAtom h f op s) := by
  unfold issueAtom
  exact canonicalNext_issueAccess hw _ _ _ _ _

@[simp] theorem canonicalNext_issueCopy (kind h f) : CanonicalNext (issueCopy kind h f s) := by
  unfold issueCopy
  exact canonicalNext_issue hw fun h => by simpa using h

@[simp] theorem canonicalNext_issueVV (h vd va vb pg la lb w lat op) : CanonicalNext (issueVV h vd va vb pg la lb w lat op s) := by
  unfold issueVV
  exact canonicalNext_issue hw fun h => by simpa using h

@[simp] theorem canonicalNext_issueVone (h vd va pg la w lat op) : CanonicalNext (issueVone h vd va pg la w lat op s) := by
  unfold issueVone
  exact canonicalNext_issue hw fun h => by simpa using h

@[simp] theorem canonicalNext_issueFma (h f fm np nc) : CanonicalNext (issueFma h f fm np nc s) := by
  unfold issueFma
  exact canonicalNext_issue hw fun h => by simpa using h

@[simp] theorem canonicalNext_issueWide (h vd va vb pg la lb w op) : CanonicalNext (issueWide h vd va vb pg la lb w op s) := by
  unfold issueWide
  exact canonicalNext_issue hw fun h => by simpa using h

@[simp] theorem canonicalNext_issueCmp (h f w cond) : CanonicalNext (issueCmp h f w cond s) := by
  unfold issueCmp
  exact canonicalNext_issue hw fun h => by simpa using h

@[simp] theorem canonicalNext_issueSel (h f w) : CanonicalNext (issueSel h f w s) := by
  unfold issueSel
  exact canonicalNext_issue hw fun h => by simpa using h

@[simp] theorem canonicalNext_issueRed (h vd va pg la w op) : CanonicalNext (issueRed h vd va pg la w op s) := by
  unfold issueRed
  exact canonicalNext_issue hw fun h => by simpa using h

@[simp] theorem canonicalNext_issueScan (h f op) : CanonicalNext (issueScan h f op s) := by
  unfold issueScan
  exact canonicalNext_issue hw fun h => by simpa using h

@[simp] theorem canonicalNext_issuePerm (h f w) : CanonicalNext (issuePerm h f w s) := by
  unfold issuePerm
  exact canonicalNext_issue hw fun h => by simpa using h

@[simp] theorem canonicalNext_issueSlide (h f w) : CanonicalNext (issueSlide h f w s) := by
  unfold issueSlide
  exact canonicalNext_issue hw fun h => by simpa using h

@[simp] theorem canonicalNext_issueBcast (h f w) : CanonicalNext (issueBcast h f w s) := by
  unfold issueBcast
  exact canonicalNext_issue hw fun h => by simpa using h

@[simp] theorem canonicalNext_issuePred (h us pd v) : CanonicalNext (issuePred h us pd v s) := by
  unfold issuePred
  exact canonicalNext_issue hw fun h => by simpa using h

@[simp] theorem canonicalNext_issueTile (kind h f) : CanonicalNext (issueTile kind h f s) := by
  unfold issueTile
  exact canonicalNext_issue hw fun h => by simpa using h

/-- Every instruction and every event keeps the form. The rows with a shape of their own come first; the others go through the operation
that gives their shape its meaning. -/
theorem canonicalNext_exec (i : Instr) : CanonicalNext (exec i s) := by
  cases i with
  | trap => exact canonicalNext_execTrap hw _ _
  | sleep => exact canonicalNext_execSleep hw _
  | rett => exact canonicalNext_execRett hw _
  | ctxsw => exact canonicalNext_execCtxsw hw _
  | stepPod => exact canonicalNext_execStepPod hw _ _
  | vcvt => exact canonicalNext_execVcvt hw _ _
  | add | sub | and | or | xor | shl | shr | sar | min | max | minn | maxn | slt | sltn | seq | mul | mulh | mulhn | div | divn
    | rem | lea | pmake =>
    simp [exec, execAdd, execSub, execAnd, execOr, execXor, execShl, execShr, execSar, execMin, execMax, execMinn, execMaxn,
      execSlt, execSltn, execSeq, execMul, execMulh, execMulhn, execDiv, execDivn, execRem, execLea, execPmake, hw]
  | sel | li | fmtq | mstat =>
    simp [exec, execSel, execLi, execFmtq, execMstat, hw]
  | clz | popc | pspace | prank =>
    simp [exec, execClz, execPopc, execPspace, execPrank, hw]
  | addi | andi | ori | xori | shli | shri | sari | slti =>
    simp [exec, execAddi, execAndi, execOri, execXori, execShli, execShri, execSari, execSlti, hw]
  | beq | bne | blt | bge | bltn | bgen =>
    simp [exec, execBeq, execBne, execBlt, execBge, execBltn, execBgen, hw]
  | csrw | csrs | csrc =>
    simp [exec, execCsrw, execCsrs, execCsrc, hw]
  | ldB | ldH | ldW | ldD | ldBn | ldHn | ldWn =>
    simp [exec, execLdB, execLdH, execLdW, execLdD, execLdBn, execLdHn, execLdWn, hw]
  | stB | stH | stW | stD =>
    simp [exec, execStB, execStH, execStW, execStD, hw]
  | vld | vst | vlds | vsts | vldb | cas =>
    simp [exec, execVld, execVst, execVlds, execVsts, execVldb, execCas, hw]
  | atomAdd | atomAnd | atomOr | atomXor | atomMin | atomMax | atomMinn | atomMaxn | atomSwap =>
    simp [exec, execAtomAdd, execAtomAnd, execAtomOr, execAtomXor, execAtomMin, execAtomMax, execAtomMinn, execAtomMaxn,
      execAtomSwap, hw]
  | copy | copyt | copyk =>
    simp [exec, execCopy, execCopyt, execCopyk, hw]
  | vaddI8 | vaddI16 | vaddI32 | vaddBf16 | vaddF32 | vsubI8 | vsubI16 | vsubI32 | vsubBf16 | vsubF32 | vmulI8 | vmulI16
    | vmulI32 | vmulBf16 | vmulF32 | vminI8 | vminI16 | vminI32 | vminBf16 | vminF32 | vmaxI8 | vmaxI16 | vmaxI32 | vmaxBf16
    | vmaxF32 | vandI8 | vandI32 | vorI8 | vorI32 | vxorI8 | vxorI32 | vshlI8 | vshlI16 | vshlI32 | vshrI8 | vshrI16 | vshrI32
    | vsarI8 | vsarI16 | vsarI32 =>
    simp [exec, execVaddI8, execVaddI16, execVaddI32, execVaddBf16, execVaddF32, execVsubI8, execVsubI16, execVsubI32,
      execVsubBf16, execVsubF32, execVmulI8, execVmulI16, execVmulI32, execVmulBf16, execVmulF32, execVminI8, execVminI16,
      execVminI32, execVminBf16, execVminF32, execVmaxI8, execVmaxI16, execVmaxI32, execVmaxBf16, execVmaxF32, execVandI8,
      execVandI32, execVorI8, execVorI32, execVxorI8, execVxorI32, execVshlI8, execVshlI16, execVshlI32, execVshrI8, execVshrI16,
      execVshrI32, execVsarI8, execVsarI16, execVsarI32, hw]
  | vabsI8 | vabsI16 | vabsI32 | vabsBf16 | vabsF32 | vnegI8 | vnegI16 | vnegI32 | vnegBf16 | vnegF32 | vnotI8 | vnotI32 | vexp2
    | vlog2 | vrcp | vrsq | vtanh =>
    simp [exec, execVabsI8, execVabsI16, execVabsI32, execVabsBf16, execVabsF32, execVnegI8, execVnegI16, execVnegI32,
      execVnegBf16, execVnegF32, execVnotI8, execVnotI32, execVexp2, execVlog2, execVrcp, execVrsq, execVtanh, hw]
  | vfmaBf16 | vnfmaBf16 | vfmaF32 | vnfmaF32 | vfmsBf16 | vfmsF32 =>
    simp [exec, execVfmaBf16, execVnfmaBf16, execVfmaF32, execVnfmaF32, execVfmsBf16, execVfmsF32, hw]
  | vwmulI8 | vwmulI16 | vwmulBf16 =>
    simp [exec, execVwmulI8, execVwmulI16, execVwmulBf16, hw]
  | vcmpI8 | vcmpI16 | vcmpI32 | vcmpF8 | vcmpBf16 | vcmpF32 =>
    simp [exec, execVcmpI8, execVcmpI16, execVcmpI32, execVcmpF8, execVcmpBf16, execVcmpF32, hw]
  | vselI8 | vselI16 | vselI32 =>
    simp [exec, execVselI8, execVselI16, execVselI32, hw]
  | vredsI32 | vredsF32 | vredmI16 | vredmI32 | vredmBf16 | vredmF32 =>
    simp [exec, execVredsI32, execVredsF32, execVredmI16, execVredmI32, execVredmBf16, execVredmF32, hw]
  | vscanI32 | vscanF32 =>
    simp [exec, execVscanI32, execVscanF32, hw]
  | vpermI8 | vpermI16 | vpermI32 =>
    simp [exec, execVpermI8, execVpermI16, execVpermI32, hw]
  | vslideI8 | vslideI32 =>
    simp [exec, execVslideI8, execVslideI32, hw]
  | vbcastI8 | vbcastI16 | vbcastI32 =>
    simp [exec, execVbcastI8, execVbcastI16, execVbcastI32, hw]
  | pand | por | pxor | pnot =>
    simp [exec, execPand, execPor, execPxor, execPnot, hw]
  | mma | mmap | mmapt =>
    simp [exec, execMma, execMmap, execMmapt, hw]
  | waitg | yield | strmClose =>
    simp only [exec, execWaitg, execYield, execStrmClose]
    exact canonicalNext_issue hw fun h => by dsimp only [plain]; (repeat' split) <;> simp [h]
  | lih | lil | jmp | jal | jr | loop | loops | lbrk | wait | align | segb | sege | tsm | opb | tks | tkw | bini | barv | bexp
    | bwt | bph | csrr | halt | fmt | pert | fence | mark | strmOpen | strmChk | strmStat | mbxs | mbxr | mbxq | tlbiPage
    | tlbiVf | pref | vdot4I8 | vidx | vmovsv | vmovvs | vrb | rot | vgath | vscat | vscataF32 | vscataI32 | pcnt | pff | pset
    | oclaim | orel | oload | oloadS | mdrain | mzero | mres | mmode =>
    simp only [exec, execLih, execLil, execJmp, execJal, execJr, execLoop, execLoops, execLbrk, execWait, execAlign, execSegb,
      execSege, execTsm, execOpb, execTks, execTkw, execBini, execBarv, execBexp, execBwt, execBph, execCsrr, execHalt, execFmt,
      execPert, execFence, execMark, execStrmOpen, execStrmChk, execStrmStat, execMbxs, execMbxr, execMbxq, execTlbiPage,
      execTlbiVf, execPref, execVdot4I8, execVidx, execVmovsv, execVmovvs, execVrb, execRot, execVgath, execVscat, execVscataF32,
      execVscataI32, execPcnt, execPff, execPset, execOclaim, execOrel, execOload, execOloadS, execMdrain, execMzero, execMres,
      execMmode]
    exact canonicalNext_issue hw fun h => by simp [h]
  | deferredTrap | gatherComplete =>
    simp only [exec, execDeferredTrap, execGatherComplete]
    exact canonicalNext_onCore hw (fun h => by (repeat' split) <;> simp [h]) _
  | resultLanding | accessPerform | translationWalk | wcReadModifyWrite | handlerStart | interruptTaken | tick | copyStart
    | copyBeat | copyComplete | streamStart | drain | streamLateDecode | streamOver | oloadSComplete | tileCommandStart
    | tileCommandComplete | oloadComplete | mdrainComplete | mresImageRead | stopImageWrite | replay | gatherGroupPerform
    | groupStart | groupEnd | contextSwitchBack | park | replyResume | replyFail | reservationEnd =>
    exact canonicalNext_onCore hw (fun h => by simp [h]) _
  | keyload =>
    simp only [exec, execKeyload]
    exact canonicalNext_onUnit hw (fun h => by split <;> simp [h]) _
  | launch | waitsig | resetVf | resetVfClear | completionRetry | recordRetry | partitionConfigure | dirtySwap
    | dirtySwapComplete | snap | pauseVf | vfPaused | resumeVf | keyclr | keySlotSwitch | registerWrite | packetForward | patrol
    | hartTimerInterrupt | hostPathInvalidation | apop | opush | actionDelivery | watchdogExpiry | systemObservationAppend
    | mbctlStart | mbctlEnd | mbctlKill | slotDepart | retransmit | ackReceive =>
    simp only [exec, execLaunch, execWaitsig, execResetVf, execResetVfClear, execCompletionRetry, execRecordRetry,
      execPartitionConfigure, execDirtySwap, execDirtySwapComplete, execSnap, execPauseVf, execVfPaused, execResumeVf,
      execKeyclr, execKeySlotSwitch, execRegisterWrite, execPacketForward, execPatrol, execHartTimerInterrupt,
      execHostPathInvalidation, execApop, execOpush, execActionDelivery, execWatchdogExpiry, execSystemObservationAppend,
      execMbctlStart, execMbctlEnd, execMbctlKill, execSlotDepart, execRetransmit, execAckReceive, onMailbox, writeMbctl,
      onWindow]
    exact canonicalNext_onUnit hw (fun h => by simp [h]) _
  | copyin | copyout | signalAdd | signalInterrupt | waitsigComplete | queryQueues | querySignal | queryCores =>
    exact canonicalNext_serveIf hw _ _ _
  | sliceExpiry | launchDispatch | launchComplete | recordWrite | viral | snapctr | attestationReport | mr3Extend
    | routeSwapRequest | ltolWrite | halvingRequest | halvingEndRequest | thermalHalving | powerStateEntry | powerStateExit
    | powerExitComplete | wake | packageReset | bootRepair | bootMarch | bootMeasure | bootRun | realignExchange
    | realignMessage | realignTimeout | packetReceive | controlMessage | boundaryStart | voteCutoff | applySpan | boundaryResume
    | scrubSlot | illegalInstruction =>
    simp [exec, execSliceExpiry, execLaunchDispatch, execLaunchComplete, execRecordWrite, execViral, execSnapctr,
      execAttestationReport, execMr3Extend, execRouteSwapRequest, execLtolWrite, execHalvingRequest, execHalvingEndRequest,
      execThermalHalving, execPowerStateEntry, execPowerStateExit, execPowerExitComplete, execWake, execPackageReset,
      execBootRepair, execBootMarch, execBootMeasure, execBootRun, execRealignExchange, execRealignMessage, execRealignTimeout,
      execPacketReceive, execControlMessage, execBoundaryStart, execVoteCutoff, execApplySpan, execBoundaryResume, execScrubSlot,
      execIllegalInstruction, hw]

theorem canonicalNext_attempt (st : StrandId) : CanonicalNext (attempt st s) := by
  unfold attempt
  dsimp only
  split
  · split <;> simp [hw]
  · split
    · exact canonicalNext_exec (by simpa using hw) _
    · split
      · simp [hw]
      · simp [execIllegalInstruction, hw]

omit hw in
@[simp] theorem wf_turn {r : Round} (hr : Memory.wf r.st.mem = true) (st : StrandId) : Memory.wf (turn r st).st.mem = true := by
  unfold turn
  split
  · next t ht =>
    have h := canonicalNext_attempt hr st t ht
    split
    · exact hr
    · exact h
    · exact h
  · exact hr

@[simp] theorem wf_rounds : Memory.wf (rounds s).st.mem = true := by
  unfold rounds
  generalize dueStrands s = l
  have h : ∀ r : Round, Memory.wf r.st.mem = true → Memory.wf (l.foldl turn r).st.mem = true := by
    induction l with
    | nil => exact fun _ h => h
    | cons st l ih => exact fun r h => ih _ (wf_turn h st)
  exact h _ hw

@[simp] theorem wf_settled (apart : BitVec 4) : Memory.wf (settled apart s).st.mem = true := by
  unfold settled
  dsimp only
  split <;> exact wf_rounds (by simpa using hw)

@[simp] theorem wf_phase : Memory.wf (phase s).st.mem = true := by
  unfold phase
  dsimp only
  (repeat' split) <;> exact wf_settled hw _

@[simp] theorem wf_takeTrap (e : Exc × Bool) : Memory.wf (takeTrap e s).mem = true := by
  unfold takeTrap
  split
  · split
    · next ht => exact wf_afterTrap (canonicalNext_attempt (by simpa using hw) _ _ ht) ..
    · exact hw
  · simp [hw]

@[simp] theorem wf_issuePhase (k : Nat) : Memory.wf (issuePhase k s).mem = true := by
  have h : Memory.wf (pruneAccesses (focus k s)).mem = true := by simpa using hw
  unfold issuePhase
  extract_lets s1 r late
  have h1 : Memory.wf s1.mem = true := h
  have hr : Memory.wf r.st.mem = true := wf_phase h1
  clear_value r late s1
  split <;> split <;> simp [h1, hr]

theorem canonicalNext_powerWatch : CanonicalNext (powerWatch s) := by
  unfold powerWatch
  dsimp only
  split
  · simp [hw]
  · split
    · exact canonicalNext_exec (by simpa using hw) .halvingEndRequest
    · exact canonicalNext_exec (by simpa using hw) .halvingRequest

theorem canonicalNext_wakeEvent (w : Wake) : CanonicalNext (wakeEvent w s) := by
  cases w with
  | powerWatch => exact canonicalNext_powerWatch hw
  | deferredTrap => exact canonicalNext_exec hw (.deferredTrap _)
  | gatherComplete => exact canonicalNext_exec hw (.gatherComplete _ _)
  | resultLanding | accessPerform | translationWalk | wcWrite | handlerStart | tick | copyStart | copyBeat | copyComplete
    | streamStart | drain | streamLateDecode | streamOver | reservationEnd | oloadSComplete | tileStart | tileComplete
    | oloadComplete | mdrainComplete | mresImageRead | stopImageWrite | replay | gatherPerform | groupStart | groupEnd
    | switchBack | park | reply =>
    exact canonicalNext_onCore hw (fun h => by simp [h]) _
  | resetVfClear | completionRetry | recordRetry | dirtySwap | dirtySwapComplete | vfPaused | keySlotSwitch | slotDepart
    | retransmit | ackReceive | patrol | actionDelivery | watchdogExpiry | hartTimer =>
    simp only [wakeEvent, execResetVfClear, execCompletionRetry, execRecordRetry, execDirtySwapComplete, execVfPaused,
      execKeySlotSwitch, execSlotDepart, execRetransmit, execAckReceive, execPatrol, execActionDelivery, execWatchdogExpiry,
      execHartTimerInterrupt, onMailbox, onWindow]
    exact canonicalNext_onUnit hw (fun h => by simp [h]) _
  | sliceExpiry | launchDispatch | launchComplete | serve | recordWrite | halvingRequest | halvingEndRequest | thermalHalving
    | powerStateEntry | powerExitComplete | packageReset | bootRepair | bootMarch | bootMeasure | bootRun | realignExchange
    | realignTimeout | linkArrive | boundaryStart | voteCutoff | applySpan | boundaryResume | scrubSlot | lineScrub
    | plinthScrub | snapshot =>
    simp [wakeEvent, execSliceExpiry, execLaunchDispatch, execLaunchComplete, execRecordWrite, execHalvingRequest,
      execHalvingEndRequest, execThermalHalving, execPowerStateEntry, execPowerExitComplete, execPackageReset, execBootRepair,
      execBootMeasure, execBootRun, execRealignExchange, execRealignTimeout, execBoundaryStart, execVoteCutoff, execApplySpan,
      execBoundaryResume, execScrubSlot, hw]

theorem canonicalNext_runWake (w : Wake) : CanonicalNext (runWake w s) := by
  unfold runWake
  split
  · simp [hw]
  · exact canonicalNext_wakeEvent hw w

/-- A step runs an event that is due, issues, or ends the cycle. -/
theorem canonicalNext_stepOnce : CanonicalNext (stepOnce s) := by
  unfold stepOnce
  split
  · exact canonicalNext_exec (by exact hw) _
  split
  · exact canonicalNext_runWake (by exact hw) _
  split
  · simp [hw]
  split
  · exact canonicalNext_runWake (by exact hw) _
  split
  · exact canonicalNext_exec (by exact hw) _
  · simp [hw]

end

/-- Settles O59: each function of the model either leaves memory as it is or writes it by the operations of `Laws/Memory.lean`, which keep
the canonical form. -/
theorem memoryStaysCanonical : Obligations.memory_stays_canonical :=
  ⟨fun _ t hw => canonicalNext_stepOnce hw t, fun i _ t hw => canonicalNext_exec hw i t⟩

/-! ## What reset leaves (O60) -/

theorem getD_replicate_toList {α : Type} (n i : Nat) (x : α) : (Vector.replicate n x).toList.getD i x = x := by
  rw [Vector.toList_replicate, List.getD_eq_getElem?_getD, List.getElem?_replicate]
  split <;> rfl

@[simp] theorem reset_coreAt (k) : State.reset.coreAt k = .idle k := by
  unfold State.coreAt
  split
  · next h => subst h; rfl
  · rfl

@[simp] theorem reset_arrAt (j) : State.reset.arrAt j = .idle j := by
  unfold State.arrAt
  split
  · next h => subst h; rfl
  · rfl

@[simp] theorem reset_vf (n) : State.reset.vf n = .idle := getD_replicate_toList ..
@[simp] theorem reset_window (w) : State.reset.window w = .idle := getD_replicate_toList ..
@[simp] theorem reset_ring (n) : State.reset.ring n = ⟨false, 0, 0, 0, 0, 0⟩ := getD_replicate_toList ..

/-- The clock of a VF whose scale and offset are 0 reads 0 in every cycle (R431, R432). -/
theorem gtsOf_idle (s : State) : gtsOf s .idle = 0 := by
  have h : gtsOf s .idle = BitVec.ofInt 64 ((((s.gcyc : Int) - 0) * 0) / 2 ^ 32) + 0 := rfl
  rw [h, Int.mul_zero]
  rfl

/-- What an idle context holds of the values that R337, R89, R176 and R347 reset. -/
theorem idle_ctx : Ctx.idle.handler = .none ∧ Ctx.idle.tokens = Vector.replicate 16 0 ∧ Ctx.idle.tick = 0
    ∧ ∀ st : StrandId, (Ctx.idle.strand st).halted = true ∧ (Ctx.idle.strand st).timed = false ∧ (Ctx.idle.strand st).rotb = 0
      ∧ (Ctx.idle.strand st).deadchk = false ∧ (Ctx.idle.strand st).xpc = 0 := by
  refine ⟨rfl, rfl, rfl, fun st => ?_⟩
  cases st <;> exact ⟨rfl, rfl, rfl, rfl, rfl⟩

/-- Settles O60, core by core and unit by unit: whatever reset does not list is idle. -/
theorem resetState : Obligations.reset_state := by
  unfold Obligations.reset_state
  refine ⟨rfl, rfl, rfl, fun _ => rfl, fun j => ?_, rfl, fun n => ?_, fun k => ?_, fun _ => rfl, fun w => ?_, fun n => ?_,
    rfl, rfl, rfl, rfl, rfl, rfl, rfl, rfl⟩
  · rw [reset_arrAt]; rfl
  · rw [reset_vf]
    exact ⟨rfl, rfl, rfl, rfl, rfl, gtsOf_idle _⟩
  · rw [reset_coreAt]
    refine ⟨rfl, rfl, rfl, rfl, rfl, rfl, rfl, fun x hx => ?_⟩
    have idle : x = .idle := by simpa [Core.idle] using hx
    subst idle
    exact idle_ctx
  · rw [reset_window]; rfl
  · rw [reset_ring]; exact ⟨rfl, rfl⟩

end Sys2Proof.Machine
end

section
/-!
PROOFS. O24: what a pointer meets at each step of R99, and how the first step that fails becomes the trap of the instruction. First
`stepFault`, step by step; then `accessCheck` on a request of one pointer; then the access forms, each of which is an `issueAccess` of its
request.
-/
namespace Sys2Proof.Machine

/-! ## The steps of R99 at one pointer -/

/-- The n bytes at the pointer run past the end of its space (R98). -/
def RunsPast (n : Nat) (p : Word) (s : State) : Prop := ∃ z, spaceSize p s = some z ∧ z < ptrOff p + n

section
variable {r : Reach} {al n : Nat} {timed : Bool} {p : Word} {s : State}

theorem stepFault_noncanonical (hc : canonical p = false) : stepFault r al n timed p s = some (1, 0x04) := by
  simp [stepFault, hc]

theorem stepFault_misaligned (hc : canonical p = true) (ha : ptrOff p % al ≠ 0) :
    stepFault r al n timed p s = some (2, 0x03) := by
  simp [stepFault, hc, ha]

section
variable (hc : canonical p = true) (ha : ptrOff p % al = 0) (h5 : ptrSpace p ≠ 5)
include hc ha h5

theorem stepFault_past (hp : RunsPast n p s) : stepFault r al n timed p s = some (3, 0x05) := by
  obtain ⟨z, hz, hlt⟩ := hp
  simp [stepFault, hc, ha, h5, hz, hlt]

/-- Inside its space the pointer meets the admission, and then the timed-mode rule of R96. -/
theorem stepFault_inside (hp : ¬ RunsPast n p s) :
    stepFault r al n timed p s = (admission r n p s).elim
      (if timed && ((ptrSpace p = 0 && r ≠ .copySrc && r ≠ .copyDst && r ≠ .coded) || (ptrSpace p = 3 && ptrClu p ≠ s.core.idx / 8))
        then some (5, 0x0D) else none)
      (fun c => some (4, c)) := by
  have hin : ∀ z, spaceSize p s = some z → ¬ z < ptrOff p + n := fun z hz hlt => hp ⟨z, hz, hlt⟩
  unfold stepFault
  rw [if_neg (by simp [hc]), if_neg (by simp [ha]), if_neg (by simp [h5]), if_neg]
  · cases admission r n p s <;> rfl
  · cases hz : spaceSize p s with
    | none => simp
    | some z => simpa using hin z hz

theorem stepFault_refused (hp : ¬ RunsPast n p s) {c : BitVec 6} (hadm : admission r n p s = some c) :
    stepFault r al n timed p s = some (4, c) := by
  rw [stepFault_inside hc ha h5 hp, hadm]
  rfl

end

/-- What a load, a store or an atomic wants of its space; the others are the engines' and the mailboxes' (R96). -/
def Reach.IsData (r : Reach) : Prop := (∃ d, r = .load d) ∨ r = .store ∨ r = .atomic

theorem Reach.IsData.not_copy (h : r.IsData) : r ≠ .copySrc ∧ r ≠ .copyDst ∧ r ≠ .coded := by
  obtain ⟨d, rfl⟩ | rfl | rfl := h <;> exact ⟨nofun, nofun, nofun⟩

theorem stepFault_untimely (hr : r.IsData) (hc : canonical p = true) (ha : ptrOff p % al = 0) (h5 : ptrSpace p ≠ 5)
    (hp : ¬ RunsPast n p s) (hadm : admission r n p s = none)
    (hfar : ptrSpace p = 0 ∨ (ptrSpace p = 3 ∧ ptrClu p ≠ s.core.idx / 8)) :
    stepFault r al n true p s = some (5, 0x0D) := by
  rw [stepFault_inside hc ha h5 hp, hadm, Option.elim_none, if_pos]
  obtain h0 | ⟨h3, hclu⟩ := hfar
  · simp [h0, hr.not_copy]
  · simp [h3, hclu]

/-! ## Admission (R100, R313) -/

/-- Outside BARRIER space, a space that the access does not take gives permission 0x07. -/
theorem admission_space (h6 : ptrSpace p ≠ 6) (hr : r.admits (ptrSpace p) = false) : admission r n p s = some 0x07 := by
  simp [admission, h6, hr]

/-- A store or an atomic that names a live barrier word of its own gives 0x08 (R313; of several words, any: log entry 34). -/
theorem admission_live_word (hr : r = .store ∨ r = .atomic) (h6 : ptrSpace p = 6) (hpl : placeOk p s = true)
    (hl : liveUnder p n s = true) : admission r n p s = some 0x08 := by
  obtain rfl | rfl := hr <;> simp [admission, h6, hpl, hl]

end

/-! ## A request of one pointer -/

theorem acquireWaits_of_no_acquire {s : State} (h : s.ctx.gate.acq = []) (level : Nat) : acquireWaits level s = false := by
  simp [acquireWaits, h]

theorem Released.releaseWaits {q : Req} {s : State} (h : Released q s) : releaseWaits q s = false := by
  unfold Machine.releaseWaits
  cases hrel : q.rel with
  | false => rfl
  | true =>
    obtain ⟨hacc, hwc⟩ := h hrel
    by_cases h2 : q.scope = 2
    · simpa [hacc] using hwc
    · simp [hacc, h2]

/-- Where no acquire or release is waited for, the step that fails gives its code, with the pointer as TVAL (R99). -/
theorem accessCheck_fault {q : Req} {s : State} {p : Word} {k : Nat} {c : BitVec 6} (hacq : s.ctx.gate.acq = []) (hrel : Released q s)
    (hq : q.ptrs = [p]) (hf : stepFault q.reach q.align q.len s.str.timed p s = some (k, c)) :
    accessCheck q s = some (.trap c p) := by
  have hfirst : q.first = p := by simp [Req.first, hq]
  simp [accessCheck, acquireWaits_of_no_acquire hacq, hrel.releaseWaits, hq, hf, worstFault, hfirst]

/-! ## The access forms -/

@[simp] theorem plainReq_reach (kind r al n p data dest) : (plainReq kind r al n p data dest).reach = r := rfl
@[simp] theorem strideReq_reach (kind r f data dest s) : (strideReq kind r f data dest s).reach = r := rfl
@[simp] theorem stReq_reach (f n s) : (accessForm.stReq f n s).reach = .store := rfl
@[simp] theorem casReq_reach (f s) : (casReq f s).reach = .atomic := rfl

/-- The store form and the load form of an ATOM ask what the other forms ask (R202). -/
@[simp] theorem atomReq_reach (op f s) : (atomReq op f s).reach = .atomic := by
  unfold atomReq
  dsimp only
  split
  · rfl
  · split <;> rfl

/-- Whatever latch it needs, an access form is the issue of its own request. -/
theorem accessForm_exec {i : Instr} {h : Hdr} {long : Bool} {us : List Use} {q : State → Req}
    (hi : accessForm i = some (h, long, us, q)) : ∃ n, ∀ s, exec i s = issueAccess h long us n q s := by
  unfold accessForm at hi
  split at hi <;> cases hi <;> exact ⟨_, fun _ => rfl⟩

/-- No access form asks of its space what only a copy may: timed mode shuts GLOBAL space to each (R96). -/
theorem accessForm_isData {i : Instr} {h : Hdr} {long : Bool} {us : List Use} {q : State → Req}
    (hi : accessForm i = some (h, long, us, q)) (s : State) : (q s).reach.IsData := by
  unfold accessForm at hi
  split at hi <;> cases hi <;> simp [Reach.IsData]

/-- An access form whose one pointer fails a step of R99 takes that step's exception, and nothing else happens. -/
theorem accessForm_trap {i : Instr} {h : Hdr} {long : Bool} {us : List Use} {q : State → Req} {s : State} {p : Word} {k : Nat}
    {c : BitVec 6} (hi : accessForm i = some (h, long, us, q)) (hr : Ready h long us s) (hacq : s.ctx.gate.acq = [])
    (hrel : Released (q s) s) (hq : (q s).ptrs = [p])
    (hf : stepFault (q s).reach (q s).align (q s).len s.str.timed p s = some (k, c)) : exec i s = .next (precise c p s) := by
  obtain ⟨n, hexec⟩ := accessForm_exec hi
  rw [hexec]
  exact issue_trap hr (accessCheck_fault hacq hrel hq hf)

/-- Settles O24: each clause is the step of R99 that fails first, taken by `accessForm_trap`. -/
theorem accessFaults : Obligations.access_faults := by
  unfold Obligations.access_faults
  intro i h long us q hi s p hr hacq hrel hq trap past
  have take {k c} := accessForm_trap (k := k) (c := c) hi hr hacq hrel hq
  refine ⟨fun hc => take (stepFault_noncanonical hc), fun hc ha => take (stepFault_misaligned hc ha),
    fun hc ha h5 => ⟨fun hp => take (stepFault_past hc ha h5 hp), fun hp c hadm => take (stepFault_refused hc ha h5 hp hadm),
      fun hp hadm ht hfar => take (k := 5) ?untimely⟩, ?load, ?store, fun hreach h6 => admission_live_word hreach h6⟩
  case untimely =>
    rw [ht]
    exact stepFault_untimely (accessForm_isData hi s) hc ha h5 hp hadm hfar
  case load =>
    intro hreach h3 h6
    exact admission_space h6 (by simp [hreach, Reach.admits, h3])
  case store =>
    intro hreach h6
    exact admission_space (Nat.ne_of_gt h6) (by simp [hreach, Reach.admits]; omega)

end Sys2Proof.Machine
end
